-- ==== Sys2Proof/Word.lean ====
section
/-! DEFINITION. The word types of the NL30's ports (Sections 1.5 and 1.10): 40-bit byte addresses, 32-byte beats and
their 32 per-byte strobes. Everything that the spec counts rather than addresses is a natural number in State. -/

namespace Sys2Proof

/-- A 40-bit byte address (Section 1.5). -/
abbrev Addr := BitVec 40

/-- The 32 bytes of a beat; byte 0 is the least significant (Sections 1.5, 12.1). -/
abbrev BeatData := BitVec 256

/-- The 32 per-byte strobes of a write beat, bit i for byte i (R1). -/
abbrev Strobes := BitVec 32

end Sys2Proof
end

