-- ==== Sys2Proof/Syntax.lean ====
section
/-! DEFINITION. The commands of the NL30: one constructor of `Instr` for each row of spec/opcode_table.json, and the
operand types of the two ports (R1). The table gives its rows no bits; a command record's payload fields stand at the
widths of Table 12-2. -/

namespace Sys2Proof

/-- AXI4 burst types (R1). -/
inductive Burst
  | fixed
  | incr
  | wrap
  deriving DecidableEq, Repr

/-- AXI4 response codes as the memory gives them and as the NL30 answers (R1). -/
inductive Resp
  | okay
  | exokay
  | slverr
  | decerr
  deriving DecidableEq, Repr

/-- The two directions of a request, kept as two separate orders by the order book (R7). -/
inductive Dir
  | read
  | write
  deriving DecidableEq, Repr

/-- A request address on a port (R1): ID, start address, burst length less 1 (AXI4's coding, so 1 to 16 beats),
the base-2 logarithm of the transfer size in bytes (1 to 32), burst type and exclusive-access flag. -/
structure Request where
  id : Nat
  addr : Addr
  len : Fin 16
  size : Fin 6
  burst : Burst
  exclusive : Bool
  deriving DecidableEq, Repr

/-- One beat of returned read data with its response (R1, R6). -/
structure ReadBeat where
  data : BeatData
  resp : Resp
  deriving DecidableEq, Repr

/-- One write data beat with its strobes (R1). -/
structure WriteBeat where
  data : BeatData
  strobes : Strobes
  deriving DecidableEq, Repr

/-- One value for each of the three channels (R113, R86). -/
structure Rgb (α : Type) where
  r : α
  g : α
  b : α
  deriving DecidableEq, Repr

/-- One value for each of the six zones (R86). -/
structure Six (α : Type) where
  z0 : α
  z1 : α
  z2 : α
  z3 : α
  z4 : α
  z5 : α
  deriving DecidableEq, Repr

/-- The commands, one for each row of spec/opcode_table.json. Log entry 1 says what it means that a row
which is an event of the part itself (a debounced press, a report made ready) stands among them. -/
inductive Instr
  /-- HARD_RESET (R30): RESET_N asserted or power-up, with the levels of CP_BASE[7:0] that are sampled (R11). -/
  | hardReset (straps : BitVec 8)
  /-- WRITE_REQUEST_ADDRESS (R5): a write request address arrives upstream. -/
  | writeRequestAddress (req : Request)
  /-- READ_REQUEST (R3): a read request address arrives upstream. -/
  | readRequest (req : Request)
  /-- WRITE_BEAT (R2): the next write data beat arrives upstream. -/
  | writeBeat (data : BeatData) (strobes : Strobes)
  /-- WRITE_RESPONSE (R5): the memory answers the oldest sent, unanswered forwarded write with this ID. -/
  | writeResponse (id : Nat) (resp : Resp)
  /-- FORWARDED_READ_DATA (R6): the memory returns beats of the oldest sent, unanswered forwarded read with this ID. -/
  | forwardedReadData (id : Nat) (beats : List ReadBeat)
  /-- ORDER_BOOK_RELEASE (R7): the first held response with this direction and ID leaves upstream. -/
  | orderBookRelease (dir : Dir) (id : Nat)
  /-- ARBITER_SEND (R9): the memory port's request channel is free. -/
  | arbiterSend
  /-- PRE_RESET_RESPONSE (R9): a response to a request sent before a hard reset returns. -/
  | preResetResponse
  /-- REPORT_MADE_READY (R24): the three conditions are tested. -/
  | reportMadeReady
  /-- REPORT_WRITE_RESPONSE (R25): the memory answers the write of the report with this sequence. -/
  | reportWriteResponse (sequence : BitVec 32) (resp : Resp)
  /-- LOOK_FETCH_BEAT (R116): a data beat of the fetch for this look slot returns. -/
  | lookFetchBeat (slot : Fin 8) (data : BeatData) (resp : Resp)
  /-- VIEW_FETCH_RETURN (R138): beats of VE's own read `index` for the view read with order-book tag `read` return. -/
  | viewFetchReturn (read : Nat) (index : Nat) (beats : List ReadBeat)
  /-- COMMAND_RECORD_IGNORED (R16): a fully written slot with the wrong sequence or in the wrong slot. -/
  | commandRecordIgnored (slot : Fin 64) (sequence : BitVec 32)
  /-- COMMAND_SLOT_PARTIAL (R17): a partly written slot, with the sequence seen. -/
  | commandSlotPartial (slot : Fin 64) (seen : BitVec 32)
  /-- CONSUMED_COUNT_WRITE (R26): the server writes its consumed count. -/
  | consumedCountWrite (count : BitVec 32)
  /-- UNKNOWN_COMMAND (R19): a taken record whose code is not in the code table. -/
  | unknownCommand (code : BitVec 16)
  /-- POOL_SET (R67). -/
  | poolSet (base : BitVec 64) (slotCount : BitVec 16) (slotSize : BitVec 64)
  /-- VIEW_WINDOW_SET (R129). -/
  | viewWindowSet (view : BitVec 8) (base : BitVec 64) (width height : BitVec 16)
  /-- STREAM_OPEN (R32). -/
  | streamOpen (clip role destination : BitVec 8) (base length : BitVec 64) (expected : BitVec 48)
  /-- STREAM_CLOSE (R40). -/
  | streamClose (stream : BitVec 8) (finalLength : BitVec 48)
  /-- STREAM_ABORT (R41). -/
  | streamAbort (stream : BitVec 8)
  /-- CLIP_OPEN (R51). -/
  | clipOpen (label : BitVec 32) (slot camera required : BitVec 8)
  /-- CLIP_RETIRE (R60). -/
  | clipRetire (clip : BitVec 8)
  /-- CAMERA_SET (R85). -/
  | cameraSet (camera : BitVec 8) (clipLevel hotLevel : BitVec 16) (base : BitVec 8) (exposureHigh hysteresis : BitVec 16) (persistence frameReports : BitVec 8)
  /-- PAIR_SET (R96). -/
  | pairSet (pair left right : BitVec 8) (tolerance : BitVec 32)
  /-- ZONES_SET (R86). -/
  | zonesSet (bounds : Six (BitVec 16)) (colours : Six (Rgb (BitVec 16)))
  /-- TRACKER_CLEAR (R95). -/
  | trackerClear
  /-- FAULT_ACK (R107). -/
  | faultAck (id : BitVec 32)
  /-- CLIP_FAULTS_ACK (R107). -/
  | clipFaultsAck (clip : BitVec 8)
  /-- LOOK_LOAD (R115). -/
  | lookLoad (slot : BitVec 8) (address : BitVec 64)
  /-- VIEW_ON (R130). -/
  | viewOn (view : BitVec 8)
  /-- VIEW_OFF (R130). -/
  | viewOff (view : BitVec 8)
  /-- ZONES_ON (R130). -/
  | zonesOn (view : BitVec 8)
  /-- ZONES_OFF (R130). -/
  | zonesOff (view : BitVec 8)
  /-- VIEW_SOURCE (R130). -/
  | viewSource (view camera : BitVec 8)
  /-- VIEW_GEOMETRY (R130). -/
  | viewGeometry (view : BitVec 8) (x0 y0 : BitVec 16) (decimation hFlip vFlip : BitVec 8)
  /-- LOOK_SELECT (R131). -/
  | lookSelect (view slot : BitVec 8) (rate : BitVec 16)
  /-- BANDS_SET (R131). -/
  | bandsSet (view count : BitVec 8) (start1 end1 : BitVec 16) (look1 : BitVec 8) (start2 end2 : BitVec 16) (look2 mode : BitVec 8)
  /-- OVERLAY_SET (R131). -/
  | overlaySet (view : BitVec 8) (address : BitVec 64) (stride : BitVec 32) (start1 : BitVec 16) (count1 : BitVec 8) (start2 : BitVec 16) (count2 : BitVec 8)
  /-- CLIP_MARK_SET (R131). -/
  | clipMarkSet (view on : BitVec 8) (colour : Rgb (BitVec 16))
  /-- SHUTTLE_PROFILE (R146). -/
  | shuttleProfile (view : BitVec 8) (s0 s1 s2 s3 s4 n : BitVec 16) (preDwell postDwell stopOnFault : BitVec 8)
  /-- SHUTTLE_GO (R149). -/
  | shuttleGo (view : BitVec 8) (distance : BitVec 32) (direction : BitVec 8)
  /-- SHUTTLE_STOP (R155). -/
  | shuttleStop (view : BitVec 8)
  /-- SHUTTLE_HOLD (R156). -/
  | shuttleHold (view : BitVec 8)
  /-- SHUTTLE_RELEASE (R156). -/
  | shuttleRelease (view : BitVec 8)
  /-- SHUTTLE_LOCATE (R147). -/
  | shuttleLocate (view : BitVec 8) (frame : BitVec 32)
  /-- PANEL_BIND (R161). -/
  | panelBind (key action view rep : BitVec 8)
  /-- PANEL_TIMING (R161). -/
  | panelTiming (debounce delay interval : BitVec 16)
  /-- SNAPSHOT (R28). -/
  | snapshot
  /-- ENGINE_RESET (R29). -/
  | engineReset
  /-- CARD_DET_CHANGE (R61): CARD_DET[slot] takes a level; low means that a card sits in the reader. -/
  | cardDetChange (slot : Fin 8) (low : Bool)
  /-- CARD_INSERTION (R62): the debounce of an insertion has run out. -/
  | cardInsertion (slot : Fin 8)
  /-- CARD_REMOVAL (R63): the debounce of a removal has run out. -/
  | cardRemoval (slot : Fin 8)
  /-- KEY_CHANGE (R159): KEY[key] takes a level; low means pressed. -/
  | keyChange (key : Fin 16) (low : Bool)
  /-- KEY_PRESS (R159): the debounce of a press has run out. -/
  | keyPress (key : Fin 16)
  /-- KEY_RELEASE (R159): the debounce of a release has run out. -/
  | keyRelease (key : Fin 16)
  /-- KEY_REPEAT (R160): a held key's repeat has fallen due. -/
  | keyRepeat (key : Fin 16)
  /-- JOG_DETENT (R164): the sample of (JOG_A, JOG_B) that forms a detent. -/
  | jogDetent (a b : Bool)
  /-- TIME_BASE_TICK (R22). -/
  | timeBaseTick
  /-- JOG_TRANSITION (R164): a sample of (JOG_A, JOG_B) that forms no detent. -/
  | jogTransition (a b : Bool)
  deriving DecidableEq, Repr

end Sys2Proof
end

