-- ==== Sys2Proof/Decode.lean ====
section
/-! DEFINITION. The decoder. spec/opcode_table.json gives its rows no bits, so `decodeTableWord` answers none for every
word. What the spec does encode is the 64-byte command record (Section 12.2): `decodeRecord` reads it, total on any 512
bits, answering UNKNOWN_COMMAND for a code outside Table 12-2 (R167); `encodeRecord` writes it, from the same table. -/

namespace Sys2Proof

/-- The command that a word spells by the table's bits: no row of the table has any. -/
def decodeTableWord (_nbits _w : Nat) : Option Instr :=
  none

/-- The command codes of Table 12-2. -/
def codeTable : List Nat :=
  [0x01, 0x02, 0x10, 0x11, 0x12, 0x20, 0x21, 0x30, 0x31, 0x32, 0x33, 0x40, 0x41, 0x50, 0x60, 0x61, 0x62, 0x63,
    0x64, 0x65, 0x66, 0x67, 0x68, 0x69, 0x70, 0x71, 0x72, 0x73, 0x74, 0x75, 0x80, 0x81, 0x90, 0x91]

/-- Whether a command code stands in Table 12-2 (R19, R167). -/
def isCommandCode (code : Nat) : Bool :=
  codeTable.contains code

/-- The record of a command slot from its two beats, byte 0 least significant (Sections 2.2, 12.1). -/
def recordOf (first second : BeatData) : BitVec 512 :=
  second ++ first

/-- The little-endian field of `width` bits that begins at byte `byte` of a record (Section 12.1). -/
def recordField (record : BitVec 512) (byte width : Nat) : BitVec width :=
  record.extractLsb' (8 * byte) width

/-- The sequence field, bytes 0-3 (Section 12.2). -/
def recordSequence (record : BitVec 512) : BitVec 32 :=
  recordField record 0 32

/-- The command code, bytes 4-5 (Section 12.2). -/
def recordCode (record : BitVec 512) : BitVec 16 :=
  recordField record 4 16

/-- The R, G, B components, 2 bytes each, that begin at byte `byte` (Table 12-2). -/
def recordColour (record : BitVec 512) (byte : Nat) : Rgb (BitVec 16) :=
  { r := recordField record byte 16, g := recordField record (byte + 2) 16, b := recordField record (byte + 4) 16 }

/-- The command of a record, by Table 12-2: its code in bytes 4-5 and its payload from byte 8, each field at its
stated width, packed with no gaps (R167). -/
def decodeRecord (record : BitVec 512) : Instr :=
  match (recordCode record).toNat with
  | 0x01 => .poolSet (recordField record 8 64) (recordField record 16 16) (recordField record 18 64)
  | 0x02 => .viewWindowSet (recordField record 8 8) (recordField record 9 64) (recordField record 17 16) (recordField record 19 16)
  | 0x10 => .streamOpen (recordField record 8 8) (recordField record 9 8) (recordField record 10 8) (recordField record 11 64) (recordField record 19 64) (recordField record 27 48)
  | 0x11 => .streamClose (recordField record 8 8) (recordField record 9 48)
  | 0x12 => .streamAbort (recordField record 8 8)
  | 0x20 => .clipOpen (recordField record 8 32) (recordField record 12 8) (recordField record 13 8) (recordField record 14 8)
  | 0x21 => .clipRetire (recordField record 8 8)
  | 0x30 => .cameraSet (recordField record 8 8) (recordField record 9 16) (recordField record 11 16) (recordField record 13 8) (recordField record 14 16) (recordField record 16 16) (recordField record 18 8) (recordField record 19 8)
  | 0x31 => .pairSet (recordField record 8 8) (recordField record 9 8) (recordField record 10 8) (recordField record 11 32)
  | 0x32 => .zonesSet { z0 := recordField record 8 16, z1 := recordField record 10 16, z2 := recordField record 12 16, z3 := recordField record 14 16, z4 := recordField record 16 16, z5 := recordField record 18 16 }
      { z0 := recordColour record 20, z1 := recordColour record 26, z2 := recordColour record 32, z3 := recordColour record 38, z4 := recordColour record 44, z5 := recordColour record 50 }
  | 0x33 => .trackerClear
  | 0x40 => .faultAck (recordField record 8 32)
  | 0x41 => .clipFaultsAck (recordField record 8 8)
  | 0x50 => .lookLoad (recordField record 8 8) (recordField record 9 64)
  | 0x60 => .viewOn (recordField record 8 8)
  | 0x61 => .viewOff (recordField record 8 8)
  | 0x62 => .zonesOn (recordField record 8 8)
  | 0x63 => .zonesOff (recordField record 8 8)
  | 0x64 => .viewGeometry (recordField record 8 8) (recordField record 9 16) (recordField record 11 16) (recordField record 13 8) (recordField record 14 8) (recordField record 15 8)
  | 0x65 => .bandsSet (recordField record 8 8) (recordField record 9 8) (recordField record 10 16) (recordField record 12 16) (recordField record 14 8) (recordField record 15 16) (recordField record 17 16) (recordField record 19 8) (recordField record 20 8)
  | 0x66 => .overlaySet (recordField record 8 8) (recordField record 9 64) (recordField record 17 32) (recordField record 21 16) (recordField record 23 8) (recordField record 24 16) (recordField record 26 8)
  | 0x67 => .clipMarkSet (recordField record 8 8) (recordField record 9 8) (recordColour record 10)
  | 0x68 => .lookSelect (recordField record 8 8) (recordField record 9 8) (recordField record 10 16)
  | 0x69 => .viewSource (recordField record 8 8) (recordField record 9 8)
  | 0x70 => .shuttleProfile (recordField record 8 8) (recordField record 9 16) (recordField record 11 16) (recordField record 13 16) (recordField record 15 16) (recordField record 17 16) (recordField record 19 16) (recordField record 21 8) (recordField record 22 8) (recordField record 23 8)
  | 0x71 => .shuttleGo (recordField record 8 8) (recordField record 9 32) (recordField record 13 8)
  | 0x72 => .shuttleStop (recordField record 8 8)
  | 0x73 => .shuttleHold (recordField record 8 8)
  | 0x74 => .shuttleRelease (recordField record 8 8)
  | 0x75 => .shuttleLocate (recordField record 8 8) (recordField record 9 32)
  | 0x80 => .panelBind (recordField record 8 8) (recordField record 9 8) (recordField record 10 8) (recordField record 11 8)
  | 0x81 => .panelTiming (recordField record 8 16) (recordField record 10 16) (recordField record 12 16)
  | 0x90 => .snapshot
  | 0x91 => .engineReset
  | _ => .unknownCommand (recordCode record)

/-! ### Writing a record (Section 12.2) -/

/-- Fields of (width in bytes, value) packed one after another, each little-endian, with no gaps. -/
def packFields : List (Nat × Nat) → Nat
  | [] => 0
  | f :: rest => f.2 % 256 ^ f.1 + 256 ^ f.1 * packFields rest

/-- A field of a record: its width in bytes and its value. -/
def fieldOf {w : Nat} (n : Nat) (x : BitVec w) : Nat × Nat :=
  (n, x.toNat)

/-- The R, G, B fields of a colour, 2 bytes each. -/
def colourFields (c : Rgb (BitVec 16)) : List (Nat × Nat) :=
  [fieldOf 2 c.r, fieldOf 2 c.g, fieldOf 2 c.b]

/-- The command code and payload fields of a command that a record carries, by Table 12-2; a row that is no record has
none. An UNKNOWN_COMMAND is written with its code and no payload. -/
def commandFields : Instr → Option (Nat × List (Nat × Nat))
  | .poolSet base count size => some (0x01, [fieldOf 8 base, fieldOf 2 count, fieldOf 8 size])
  | .viewWindowSet view base width height => some (0x02, [fieldOf 1 view, fieldOf 8 base, fieldOf 2 width, fieldOf 2 height])
  | .streamOpen clip role dest base length expected =>
    some (0x10, [fieldOf 1 clip, fieldOf 1 role, fieldOf 1 dest, fieldOf 8 base, fieldOf 8 length, fieldOf 6 expected])
  | .streamClose stream final => some (0x11, [fieldOf 1 stream, fieldOf 6 final])
  | .streamAbort stream => some (0x12, [fieldOf 1 stream])
  | .clipOpen label slot camera required =>
    some (0x20, [fieldOf 4 label, fieldOf 1 slot, fieldOf 1 camera, fieldOf 1 required])
  | .clipRetire clip => some (0x21, [fieldOf 1 clip])
  | .cameraSet camera clipLevel hot base high hyst persistence reports =>
    some (0x30, [fieldOf 1 camera, fieldOf 2 clipLevel, fieldOf 2 hot, fieldOf 1 base, fieldOf 2 high, fieldOf 2 hyst,
      fieldOf 1 persistence, fieldOf 1 reports])
  | .pairSet pair left right tolerance =>
    some (0x31, [fieldOf 1 pair, fieldOf 1 left, fieldOf 1 right, fieldOf 4 tolerance])
  | .zonesSet b c =>
    some (0x32, [fieldOf 2 b.z0, fieldOf 2 b.z1, fieldOf 2 b.z2, fieldOf 2 b.z3, fieldOf 2 b.z4, fieldOf 2 b.z5] ++
      (colourFields c.z0 ++ colourFields c.z1 ++ colourFields c.z2 ++ colourFields c.z3 ++ colourFields c.z4 ++
        colourFields c.z5))
  | .trackerClear => some (0x33, [])
  | .faultAck id => some (0x40, [fieldOf 4 id])
  | .clipFaultsAck clip => some (0x41, [fieldOf 1 clip])
  | .lookLoad slot address => some (0x50, [fieldOf 1 slot, fieldOf 8 address])
  | .viewOn view => some (0x60, [fieldOf 1 view])
  | .viewOff view => some (0x61, [fieldOf 1 view])
  | .zonesOn view => some (0x62, [fieldOf 1 view])
  | .zonesOff view => some (0x63, [fieldOf 1 view])
  | .viewGeometry view x0 y0 d h v =>
    some (0x64, [fieldOf 1 view, fieldOf 2 x0, fieldOf 2 y0, fieldOf 1 d, fieldOf 1 h, fieldOf 1 v])
  | .bandsSet view count s1 e1 l1 s2 e2 l2 mode =>
    some (0x65, [fieldOf 1 view, fieldOf 1 count, fieldOf 2 s1, fieldOf 2 e1, fieldOf 1 l1, fieldOf 2 s2, fieldOf 2 e2,
      fieldOf 1 l2, fieldOf 1 mode])
  | .overlaySet view address stride s1 c1 s2 c2 =>
    some (0x66, [fieldOf 1 view, fieldOf 8 address, fieldOf 4 stride, fieldOf 2 s1, fieldOf 1 c1, fieldOf 2 s2,
      fieldOf 1 c2])
  | .clipMarkSet view on colour => some (0x67, [fieldOf 1 view, fieldOf 1 on] ++ colourFields colour)
  | .lookSelect view slot rate => some (0x68, [fieldOf 1 view, fieldOf 1 slot, fieldOf 2 rate])
  | .viewSource view camera => some (0x69, [fieldOf 1 view, fieldOf 1 camera])
  | .shuttleProfile view s0 s1 s2 s3 s4 n pre post stop =>
    some (0x70, [fieldOf 1 view, fieldOf 2 s0, fieldOf 2 s1, fieldOf 2 s2, fieldOf 2 s3, fieldOf 2 s4, fieldOf 2 n,
      fieldOf 1 pre, fieldOf 1 post, fieldOf 1 stop])
  | .shuttleGo view distance direction => some (0x71, [fieldOf 1 view, fieldOf 4 distance, fieldOf 1 direction])
  | .shuttleStop view => some (0x72, [fieldOf 1 view])
  | .shuttleHold view => some (0x73, [fieldOf 1 view])
  | .shuttleRelease view => some (0x74, [fieldOf 1 view])
  | .shuttleLocate view frame => some (0x75, [fieldOf 1 view, fieldOf 4 frame])
  | .panelBind key action view rep => some (0x80, [fieldOf 1 key, fieldOf 1 action, fieldOf 1 view, fieldOf 1 rep])
  | .panelTiming debounce delay interval => some (0x81, [fieldOf 2 debounce, fieldOf 2 delay, fieldOf 2 interval])
  | .snapshot => some (0x90, [])
  | .engineReset => some (0x91, [])
  | .unknownCommand code => some (code.toNat, [])
  | .hardReset _ | .writeRequestAddress _ | .readRequest _ | .writeBeat _ _ | .writeResponse _ _
  | .forwardedReadData _ _ | .orderBookRelease _ _ | .arbiterSend | .preResetResponse | .reportMadeReady
  | .reportWriteResponse _ _ | .lookFetchBeat _ _ _ | .viewFetchReturn _ _ _ | .commandRecordIgnored _ _
  | .commandSlotPartial _ _ | .consumedCountWrite _ | .cardDetChange _ _ | .cardInsertion _ | .cardRemoval _
  | .keyChange _ _ | .keyPress _ | .keyRelease _ | .keyRepeat _ | .jogDetent _ _ | .timeBaseTick
  | .jogTransition _ _ => none

/-- The 64-byte record of a command with a sequence (Section 12.2): the sequence, the code, two bytes that are not read,
then the payload. A row that is no record has none. -/
def encodeRecord (sequence : BitVec 32) (i : Instr) : Option (BitVec 512) :=
  (commandFields i).map (fun f =>
    BitVec.ofNat 512 (packFields ([fieldOf 4 sequence, (2, f.1), (2, 0)] ++ f.2)))

end Sys2Proof
end

