-- ==== Sys2Proof/Config.lean ====
section
/-! DEFINITION. What the spec leaves free. The NL30 has no implementation-defined size or speed that its steps read;
the one thing it leaves open inside a step is the order in which several owners of one event act (log entry 9). -/

namespace Sys2Proof

/-- DESIGN CHOICE (log entry 9), safe: an uninterpreted choice. Where the spec gives no order among the owners that one
event reaches (R4: several streams; R5: the owners shown a write response; R73: two views that pinned one slot), the step
takes them in the order listed, or in the reverse, as this constant answers for the number of such choices made before. -/
opaque Config.reverseOrder : Nat → Bool

end Sys2Proof
end

