-- ==== Sys2Proof/Machine/State.lean ====
section
/-! DEFINITION. The state of the NL30, unit by unit as the chapters of the spec give it, as plain data; the reasons a step
may stop (none arises); and the state right after hard reset. A field that may be absent is an `Option`; a count with a
stated range is a natural number that the operations keep in its range. -/

namespace Sys2Proof.Machine

/-! ### Faults and refusals -/

/-- Why a step stops with a fault. NO CONSTRUCTOR: the NL30 has no behaviour that stops it; every error it meets is
state (an ERROR answer, a REFUSED completion, a fault record, a BAD slot). -/
inductive Fault
  deriving DecidableEq, Repr

/-- Why a step is refused. -/
inductive Refusal
  /-- Raised by an arm of `exec` whose command has no meaning yet (none is left); safe. -/
  | notModelled (mnemonic : String)
  deriving DecidableEq, Repr

/-! ### Streams (Chapter 3) -/

/-- What a stream's bytes are (Table 3-1): a clip's source, or destination 0-3. -/
inductive Role
  | source
  | dest (d : Nat)
  deriving DecidableEq, Repr

/-- Stream outcomes (Table 3-6). -/
inductive StreamOutcome
  | good
  | disordered
  | overrun
  | length
  | aborted
  | faulted
  deriving DecidableEq, Repr

/-- An entry of the stream table (Table 3-1); its stream id is its place in the table. -/
structure Stream where
  serial : Nat
  clip : Nat
  role : Role
  base : Nat
  length : Nat
  next : Nat
  bytes : Nat
  expected : Nat
  tailSeen : Bool
  a : Nat
  b : Nat
  outstanding : Nat
  deriving DecidableEq, Repr

/-- A closing note (R43, Section 3.8). -/
structure ClosingNote where
  serial : Nat
  stream : Nat
  clip : Option Nat
  role : Role
  outcome : StreamOutcome
  outstanding : Nat
  faultRaised : Bool
  deriving DecidableEq, Repr

/-- The Stream Unit (Section 3.1): 24 entries, the open serial, the closing list. -/
structure StreamUnit where
  table : List (Option Stream)
  openSerial : Nat
  closing : List ClosingNote
  deriving DecidableEq, Repr

/-! ### Clips, card sessions, lamps (Chapter 4) -/

/-- A fingerprint with its length (R39). -/
structure Fingerprint where
  b : Nat
  a : Nat
  length : Nat
  deriving DecidableEq, Repr

/-- The states of a clip that is not FREE (R50); a FREE entry of the clip table is absent. -/
inductive ClipState
  | opened
  | sourced
  | verified
  | spoiled
  deriving DecidableEq, Repr

/-- Destination verdicts (Section 4.4); `unset` is NONE, `matched` is MATCH. -/
inductive Verdict
  | unset
  | pending
  | matched
  | mismatch
  | unverifiable
  deriving DecidableEq, Repr

/-- One destination of a clip: its verdict and its held result (Table 4-1). -/
structure Dest where
  verdict : Verdict
  held : Option Fingerprint
  deriving DecidableEq, Repr

/-- A destination with no read-back. -/
def Dest.empty : Dest :=
  { verdict := .unset, held := none }

/-- A clip record that is not FREE (Table 4-1). -/
structure Clip where
  state : ClipState
  label : Nat
  slot : Nat
  session : Nat
  camera : Nat
  required : Nat
  source : Option Fingerprint
  dests : List Dest
  matchCount : Nat
  frames : Nat
  critOpen : Nat
  warnCount : Nat
  deriving DecidableEq, Repr

/-- Card lamps (R61, Table 4-6). -/
inductive Lamp
  | off
  | amber
  | amberFlash
  | green
  | red
  deriving DecidableEq, Repr

/-- A card slot (R61), with the level of its CARD_DET pin (`detLow`: low, a card sits in the reader). -/
structure CardSlot where
  detLow : Bool
  present : Bool
  session : Nat
  changePending : Option Nat
  lamp : Lamp
  deriving DecidableEq, Repr

/-- A card slot after hard reset with its pin high (R66). -/
def CardSlot.reset : CardSlot :=
  { detLow := false, present := false, session := 0, changePending := none, lamp := .off }

/-- The Clip Tracker (Section 4.1): 64 clip entries and 8 card slots. -/
structure ClipTracker where
  clips : List (Option Clip)
  slots : List CardSlot
  deriving DecidableEq, Repr

/-! ### Frame pool (Chapter 5) -/

/-- The eye of a frame header (Table 5-2). -/
inductive Eye
  | mono
  | left
  | right
  deriving DecidableEq, Repr

/-- A timecode as written in a frame header (Table 5-2). -/
structure Timecode where
  hh : Nat
  mm : Nat
  ss : Nat
  ff : Nat
  deriving DecidableEq, Repr

/-- Frame slot states (Table 5-3). -/
inductive SlotState
  | empty
  | filling
  | complete
  | bad
  deriving DecidableEq, Repr

/-- A frame slot record (Table 5-2). -/
structure FrameSlot where
  state : SlotState
  generation : Nat
  camera : Nat
  eye : Eye
  label : Nat
  clip : Option Nat
  frame : Nat
  timecode : Timecode
  width : Nat
  height : Nat
  stride : Nat
  expected : Nat
  counted : Nat
  zones : List Nat
  clipped : Nat
  lumaSum : Nat
  signature : Nat
  candidates : List (Nat × Nat)
  candidatesOver : Bool
  lateFault : Bool
  deriving DecidableEq, Repr

/-- An EMPTY slot with generation 0 (R67); its frame fields are not used (R68). -/
def FrameSlot.empty : FrameSlot :=
  { state := .empty, generation := 0, camera := 0, eye := .mono, label := 0, clip := none, frame := 0,
    timecode := { hh := 0, mm := 0, ss := 0, ff := 0 }, width := 0, height := 0, stride := 0, expected := 0,
    counted := 0, zones := [0, 0, 0, 0, 0, 0], clipped := 0, lumaSum := 0, signature := 0, candidates := [],
    candidatesOver := false, lateFault := false }

/-- The pool geometry (R67). -/
structure Pool where
  base : Nat
  count : Nat
  size : Nat
  deriving DecidableEq, Repr

/-- The Frame Inspection Unit (Section 5.1). -/
structure FrameInspection where
  pool : Option Pool
  serial : Nat
  slots : List FrameSlot
  stray : Nat
  deriving DecidableEq, Repr

/-! ### Cameras, zones, tracker, pairs (Chapter 6) -/

/-- A camera record (Table 6-1). -/
structure Camera where
  configured : Bool
  clipLevel : Nat
  hotLevel : Nat
  base : Nat
  exposureHigh : Nat
  hysteresis : Nat
  persistence : Nat
  frameReports : Bool
  firstFrame : Bool
  lastNumber : Option Nat
  lastCount : Option Nat
  lastSignature : Option Nat
  warning : Bool
  framesSeen : Nat
  framesDropped : Nat
  deriving DecidableEq, Repr

/-- A camera after hard reset (R100). -/
def Camera.reset : Camera :=
  { configured := false, clipLevel := 65535, hotLevel := 65535, base := 24, exposureHigh := 1023, hysteresis := 0,
    persistence := 15, frameReports := false, firstFrame := true, lastNumber := none, lastCount := none,
    lastSignature := none, warning := false, framesSeen := 0, framesDropped := 0 }

/-- A zone: its lower bound and its colour (R86). -/
structure Zone where
  bound : Nat
  colour : Rgb Nat
  deriving DecidableEq, Repr

/-- Table 6-2, the zone table after hard reset. -/
def defaultZones : List Zone :=
  [{ bound := 0, colour := { r := 400, g := 0, b := 600 } },
   { bound := 2048, colour := { r := 0, g := 0, b := 800 } },
   { bound := 12000, colour := { r := 300, g := 300, b := 300 } },
   { bound := 30000, colour := { r := 0, g := 700, b := 0 } },
   { bound := 48000, colour := { r := 900, g := 800, b := 0 } },
   { bound := 62000, colour := { r := 1023, g := 0, b := 0 } }]

/-- A pixel tracker entry (R92). -/
structure TrackerEntry where
  camera : Nat
  x : Nat
  y : Nat
  hits : Nat
  misses : Nat
  reported : Bool
  deriving DecidableEq, Repr

/-- A frame waiting for its partner (R96); `right` is its eye's place in the pair. -/
structure HeldRecord where
  right : Bool
  frame : Nat
  timecode : Timecode
  count : Nat
  mean : Nat
  clip : Option Nat
  label : Nat
  deriving DecidableEq, Repr

/-- A stereo pair record (R96). -/
structure StereoPair where
  isSet : Bool
  left : Nat
  right : Nat
  tolerance : Nat
  queue : List HeldRecord
  deriving DecidableEq, Repr

/-- A clear pair (R100); its tolerance is log entry 16's. -/
def StereoPair.reset : StereoPair :=
  { isSet := false, left := 16, right := 16, tolerance := 0, queue := [] }

/-- The Camera Track Unit (Section 6.1). -/
structure CameraTrack where
  cameras : List Camera
  zones : List Zone
  tracker : List TrackerEntry
  pairs : List StereoPair
  deriving DecidableEq, Repr

/-! ### Fault list (Chapter 7) -/

/-- The 21 fault kinds (Table 7-2). -/
inductive FaultKind
  | gap
  | duplicateNumber
  | backstep
  | tcBreak
  | tcInvalid
  | frozenFrame
  | exposureClip
  | stuckPixel
  | stereoUnpaired
  | stereoExposure
  | frameGeometry
  | frameHeader
  | frameAbandoned
  | frameOverwrite
  | frameWriteFault
  | cameraUnknown
  | orphanFrame
  | sourceUnverifiable
  | cardPulled
  | copyMismatch
  | copyWriteFault
  deriving DecidableEq, Repr

/-- A fault record (Table 7-1). Its severity is a function of its kind (`FaultKind.severity`); its frame number and
timecode are present or absent together. -/
structure FaultRecord where
  id : Nat
  kind : FaultKind
  camera : Option Nat
  clip : Option Nat
  retired : Bool
  frame : Option (Nat × Timecode)
  position : Option (Nat × Nat)
  detail : Nat
  acked : Bool
  deriving DecidableEq, Repr

/-- The Fault List (Section 7.1). -/
structure FaultList where
  records : List FaultRecord
  nextId : Nat
  unlisted : Nat
  deriving DecidableEq, Repr

/-! ### Looks (Chapter 8) -/

/-- A look (Table 8-3); the matrix by output rows. -/
structure Look where
  lift : Rgb Int
  gain : Rgb Nat
  curve : Rgb (List Nat)
  matrix : Rgb (Rgb Int)
  curveBypass : Bool
  matrixBypass : Bool
  deriving DecidableEq, Repr

/-- The identity curve (R114). -/
def identityCurve : List Nat :=
  (List.range 32).map (fun i => 2048 * i) ++ [65535]

/-- The identity look (R114). -/
def identityLook : Look :=
  { lift := { r := 0, g := 0, b := 0 }
    gain := { r := 16384, g := 16384, b := 16384 }
    curve := { r := identityCurve, g := identityCurve, b := identityCurve }
    matrix := { r := { r := 4096, g := 0, b := 0 }, g := { r := 0, g := 4096, b := 0 }, b := { r := 0, g := 0, b := 4096 } }
    curveBypass := false
    matrixBypass := false }

/-- Look slot states (Table 8-2). -/
inductive LookState
  | empty
  | ready
  | loading
  deriving DecidableEq, Repr

/-- A look slot (Table 8-1); "beats received" is the length of the staged fetch buffer. -/
structure LookSlot where
  state : LookState
  active : Option Look
  prior : Option LookState
  loadSequence : Option Nat
  staged : List BeatData
  failed : Bool
  deriving DecidableEq, Repr

/-- An EMPTY look slot (R127). -/
def LookSlot.empty : LookSlot :=
  { state := .empty, active := none, prior := none, loadSequence := none, staged := [], failed := false }

/-- Slot 0 after hard reset: READY with the identity look (R127). -/
def LookSlot.identity : LookSlot :=
  { state := .ready, active := some identityLook, prior := none, loadSequence := none, staged := [], failed := false }

/-! ### Views (Chapter 9) -/

/-- A view window (Table 9-1). -/
structure ViewWindow where
  base : Nat
  width : Nat
  height : Nat
  stride : Nat
  deriving DecidableEq, Repr

/-- A band of rows with the look slot that grades it; no look is UNGRADED (Table 9-2). -/
structure Band where
  first : Nat
  last : Nat
  look : Option Nat
  deriving DecidableEq, Repr

/-- An overlay strip; a count of 0 is absent (Table 9-2). -/
structure Strip where
  start : Nat
  count : Nat
  deriving DecidableEq, Repr

/-- View settings (Table 9-2). -/
structure Settings where
  on : Bool
  zones : Bool
  camera : Nat
  x0 : Nat
  y0 : Nat
  decimation : Nat
  hFlip : Bool
  vFlip : Bool
  primary : Nat
  rate : Nat
  bands : List Band
  outsideBlack : Bool
  overlayAddress : Nat
  overlayStride : Nat
  strip1 : Strip
  strip2 : Strip
  clipMark : Bool
  markColour : Rgb Nat
  deriving DecidableEq, Repr

/-- Table 9-2, settings after hard reset. -/
def Settings.reset : Settings :=
  { on := false, zones := false, camera := 0, x0 := 0, y0 := 0, decimation := 1, hFlip := false, vFlip := false,
    primary := 0, rate := 0, bands := [], outsideBlack := false, overlayAddress := 0, overlayStride := 32,
    strip1 := { start := 0, count := 0 }, strip2 := { start := 0, count := 0 }, clipMark := false,
    markColour := { r := 1023, g := 0, b := 1023 } }

/-- The look mix (Table 9-1). -/
structure Mix where
  a : Nat
  b : Option Nat
  m : Nat
  deriving DecidableEq, Repr

/-- The mix after hard reset (R144). -/
def Mix.reset : Mix :=
  { a := 0, b := none, m := 0 }

/-- A pin (Table 9-1). -/
structure Pin where
  slot : Nat
  generation : Nat
  frame : Nat
  width : Nat
  height : Nat
  stride : Nat
  deriving DecidableEq, Repr

/-- A kept band with the look contents taken for it at the boundary; no contents is UNGRADED (R134, R135). -/
structure BandCopy where
  first : Nat
  last : Nat
  look : Option Look
  deriving DecidableEq, Repr

/-- The display frame copies (Table 9-1, R134) with the bands and strips kept by R135. -/
structure FrameCopies where
  lookA : Look
  lookB : Option Look
  bands : List BandCopy
  strips : List Strip
  zones : List Zone
  clipLevel : Nat
  deriving DecidableEq, Repr

/-- One of VE's own reads for a view read, with what has returned of it (R138). -/
structure OwnRead where
  overlay : Bool
  addr : Nat
  beats : Nat
  data : List ReadBeat
  deriving DecidableEq, Repr

/-- A view read in service with all it latched (R136). -/
structure ServedRead where
  tag : Nat
  row : Nat
  column : Nat
  beats : Nat
  width : Nat
  height : Nat
  settings : Settings
  mix : Mix
  pin : Option Pin
  copies : Option FrameCopies
  frameCount : Nat
  pinLost : Bool
  reads : List OwnRead
  deriving DecidableEq, Repr

/-- A view context (Table 9-1). -/
structure View where
  window : Option ViewWindow
  pending : Settings
  current : Settings
  mix : Mix
  mixReset : Bool
  pin : Option Pin
  copies : Option FrameCopies
  lastRow : Option Nat
  frameCount : Nat
  fetchFaults : Nat
  lastFetchFault : Option Nat
  bandsReported : Bool
  overlayReported : Bool
  reads : List ServedRead
  deriving DecidableEq, Repr

/-- A view context after hard reset (R144). -/
def View.reset : View :=
  { window := none, pending := Settings.reset, current := Settings.reset, mix := Mix.reset, mixReset := false,
    pin := none, copies := none, lastRow := none, frameCount := 0, fetchFaults := 0, lastFetchFault := none,
    bandsReported := false, overlayReported := false, reads := [] }

/-! ### Shuttle (Chapter 10) -/

/-- The direction of a move or of a jog step (R145, R164). -/
inductive Direction
  | forward
  | reverse
  deriving DecidableEq, Repr

/-- Phases of a move (Table 10-2). -/
inductive Phase
  | idle
  | preroll
  | accel1
  | accel2
  | accel3
  | cruise
  | continuous
  | decel3
  | decel2
  | decel1
  | landing
  | arrived
  | postroll
  | held
  deriving DecidableEq, Repr

/-- A motion profile, the first five fields of Table 10-1. -/
structure Profile where
  s0 : Nat
  s1 : Nat
  s2 : Nat
  s3 : Nat
  s4 : Nat
  n : Nat
  preDwell : Nat
  postDwell : Nat
  stopOnFault : Bool
  deriving DecidableEq, Repr

/-- A motion context (Table 10-1). -/
structure Motion where
  profile : Profile
  position : Nat
  displayed : Nat
  direction : Direction
  phase : Phase
  start : Option Nat
  target : Option Nat
  continuous : Bool
  looping : Bool
  stageCounter : Nat
  dwellCounter : Nat
  heldPhase : Option Phase
  pendingLocate : Option Nat
  pendingJog : Int
  deriving DecidableEq, Repr

/-- A motion context after hard reset (Table 10-6). -/
def Motion.reset : Motion :=
  { profile := { s0 := 64, s1 := 256, s2 := 512, s3 := 1024, s4 := 2048, n := 12, preDwell := 0, postDwell := 63,
                 stopOnFault := false }
    position := 0, displayed := 0, direction := .forward, phase := .idle, start := none, target := none,
    continuous := false, looping := false, stageCounter := 0, dwellCounter := 0, heldPhase := none,
    pendingLocate := none, pendingJog := 0 }

/-! ### Panel (Chapter 11) -/

/-- Panel actions (Table 12-3). -/
inductive PanelAction
  | nothing
  | lookNext
  | shuttleFwd
  | shuttleRev
  | shuttleStop
  | holdToggle
  | faultNext
  | faultPrev
  | ackHere
  | zonesToggle
  | bandsToggle
  deriving DecidableEq, Repr

/-- A key (R159), with the level of its KEY pin (`low`: pressed). -/
structure Key where
  low : Bool
  pressed : Bool
  changePending : Option Nat
  pressTime : Option Nat
  repeatDue : Option Nat
  deriving DecidableEq, Repr

/-- A key after hard reset with its pin high (R166). -/
def Key.reset : Key :=
  { low := false, pressed := false, changePending := none, pressTime := none, repeatDue := none }

/-- A key's binding (R161). -/
structure Binding where
  action : PanelAction
  view : Nat
  repeatOn : Bool
  deriving DecidableEq, Repr

/-- A key's binding after hard reset (R166). -/
def Binding.reset : Binding :=
  { action := .nothing, view := 0, repeatOn := false }

/-- The Panel Unit (Section 11.1). The jog binding is absent while the jog is unbound, else the action and the view
that bound it (R161; log entry 12). `jogLines` is the pair of levels (JOG_A, JOG_B) as last brought by a sample, and
`jogDue` says that the sample of the present millisecond has not been taken (R164; log entry 12). -/
structure Panel where
  keys : List Key
  bindings : List Binding
  jogBinding : Option (PanelAction × Nat)
  debounce : Nat
  repeatDelay : Nat
  repeatInterval : Nat
  jogLines : Bool × Bool
  jogDue : Bool
  jogLast : Option (Bool × Bool)
  jogSteps : Nat
  jogDirection : Option Direction
  deriving DecidableEq, Repr

/-! ### Reports (Chapters 2 and 12) -/

/-- Refusal reasons (Table 2-2). -/
inductive Reason
  | unknownCommand
  | badArgument
  | noRoom
  | overlap
  | busy
  | unknownClip
  | unknownStream
  | wrongState
  | alreadyVerified
  | noCard
  | notConfigured
  deriving DecidableEq, Repr

/-- The outcome of a command with its detail (R19): DONE, CLAMPED naming a field, or REFUSED with a reason. -/
inductive Answer
  | done (detail : Nat)
  | clamped (field detail : Nat)
  | refused (reason : Reason) (detail : Nat)
  deriving DecidableEq, Repr

/-- IGNORED causes (R16, R17). -/
inductive IgnoreCause
  | sequence
  | slot
  | partly
  deriving DecidableEq, Repr

/-- CLIP_STATE causes (R59). -/
inductive ClipCause
  | opened
  | sourceFinal
  | sourceFailed
  | sourceReopened
  | verified
  | held
  | verdict
  | retired
  deriving DecidableEq, Repr

/-- PANEL events (R165). -/
inductive PanelEvent
  | down
  | up
  | rep
  | detent
  deriving DecidableEq, Repr

/-- VIEW report kinds (R142, R154). -/
inductive ViewKind
  | bandsClamped
  | overlayClamped
  | fetchFault
  | slotLost
  | arrived
  deriving DecidableEq, Repr

/-- What SNAPSHOT records (R28). -/
structure SnapshotValues where
  streams : Nat
  clips : Nat
  filling : Nat
  complete : Nat
  bad : Nat
  faults : Nat
  tracker : Nat
  pendingReports : Nat
  stray : Nat
  framesDropped : Nat
  fetchFaults0 : Nat
  fetchFaults1 : Nat
  unlisted : Nat
  p : Nat
  c : Nat
  deriving DecidableEq, Repr

/-- The body of a report, by its kind (Section 2.4, Table 12-5). A SNAPSHOT body also names the command whose operation
it ends (R28); that number is not written into the record. -/
inductive ReportBody
  | completion (sequence code : Nat) (answer : Answer)
  | ignored (slot : Nat) (cause : IgnoreCause) (seen expected : Nat)
  | streamEnd (stream clip : Nat) (role : Role) (outcome : StreamOutcome) (tailSeen : Bool) (bytes expected : Nat)
      (fingerprint offending : Option Nat)
  | clipState (index : Nat) (clip : Clip) (old new : Option ClipState) (cause : ClipCause)
  | lamp (slot : Nat) (old new : Lamp) (session : Nat)
  | fault (record : FaultRecord) (listed : Bool) (evicted : Option Nat) (counts : Option (Nat × Nat))
  | frame (slot : Nat) (record : FrameSlot) (clipFraction mean : Nat)
  | panel (key : Nat) (event : PanelEvent) (action : PanelAction) (view : Option Nat) (direction : Option Direction)
      (result held : Option Nat)
  | view (view : Nat) (kind : ViewKind) (frameCount : Nat) (pin : Option Pin) (detail : Nat)
  | snapshot (command : Nat) (values : SnapshotValues)
  deriving DecidableEq, Repr

/-- A report created and not yet made ready: its timestamp and body (R23). -/
structure Report where
  time : Nat
  body : ReportBody
  deriving DecidableEq, Repr

/-- A report made ready: its header is complete and its ring slot assigned (R24). -/
structure ReadyReport where
  sequence : Nat
  slot : Nat
  time : Nat
  dropped : Nat
  body : ReportBody
  deriving DecidableEq, Repr

/-- Command Intake and Report Writer (Section 2.1). -/
structure Intake where
  expected : Nat
  p : Nat
  w : Nat
  c : Nat
  queue : List Report
  dropped : Nat
  snapshots : List Nat
  deriving DecidableEq, Repr

/-! ### Transit unit (Chapter 1) -/

/-- What a forwarded write request has been tagged with for its write response: a stream's serial (R35), or a frame
slot with the pool serial and the generation (R79). -/
inductive Mark
  | stream (serial : Nat)
  | frame (serial slot generation : Nat)
  deriving DecidableEq, Repr

/-- A response on its way upstream (R1, R3, R6, R138). -/
inductive UpAnswer
  | write (resp : Resp)
  | read (beats : List ReadBeat)
  deriving DecidableEq, Repr

/-- What an order-book entry stands for (R7). -/
inductive EntryKind
  | forwarded
  | viewRead
  | answered
  deriving DecidableEq, Repr

/-- An entry of the order book (R7): the request, the write beats and read beats that have arrived for it, the marks of
R35 and R79, and its response once it is ready. -/
structure BookEntry where
  tag : Nat
  dir : Dir
  req : Request
  kind : EntryKind
  writeBeats : List WriteBeat
  readBeats : List ReadBeat
  marks : List Mark
  answer : Option UpAnswer
  deriving DecidableEq, Repr

/-- A write request whose data beats have not all arrived (R2, R67): the number arrived, and whether they are
discarded (R3). -/
structure InWrite where
  tag : Nat
  req : Request
  discard : Bool
  arrived : Nat
  deriving DecidableEq, Repr

/-- An entry of the arrival-ordered queue (R5, R8): a forwarded request by its tag, or own read `index` of a view read. -/
inductive ArrivalItem
  | forwarded (tag : Nat)
  | viewRead (tag index : Nat)
  deriving DecidableEq, Repr

/-- A background request (R8): a report write, or a look fetch for a slot at an address. -/
inductive BackgroundItem
  | report (r : ReadyReport)
  | lookFetch (slot address : Nat)
  deriving DecidableEq, Repr

/-- A write sent on the memory port and not answered (R5, R25). -/
inductive SentWrite
  | forwarded (tag : Nat)
  | report (r : ReadyReport)
  deriving DecidableEq, Repr

/-- A write sent on the memory port whose data has not all been sent (R5), with the number of its beats sent. -/
structure DataWrite where
  write : SentWrite
  sent : Nat
  deriving DecidableEq, Repr

/-- A request as driven on the memory port (R5, R8): a forwarded request unchanged, a two-beat report write, an
eight-beat look fetch, or one of VE's reads. -/
inductive MemRequest
  | forwarded (dir : Dir) (req : Request)
  | reportWrite (address : Nat) (first second : BeatData)
  | lookFetch (address : Nat)
  | viewRead (address beats : Nat)
  deriving DecidableEq, Repr

/-- A response as driven upstream (R7). -/
structure UpResponse where
  dir : Dir
  id : Nat
  answer : UpAnswer
  deriving DecidableEq, Repr

/-- The Transit Unit (Section 1.9). The window set is read from `cpBase` and the other units (R12). `dataQueue` holds the
writes sent whose data is still to be sent, in the order in which they were sent, and `memData` the write data beats last
driven on the memory port (R5; log entry 14). -/
structure Transit where
  cpBase : Nat
  book : List BookEntry
  inWrites : List InWrite
  arrival : List ArrivalItem
  background : List BackgroundItem
  runCount : Nat
  sentWrites : List SentWrite
  nextTag : Nat
  stale : Nat
  dataQueue : List DataWrite
  memOut : Option MemRequest
  memData : List WriteBeat
  upOut : Option UpResponse
  deriving DecidableEq, Repr

/-! ### The whole machine -/

/-- The state of the NL30: the queue of waiting commands, the eleven units by their short names (Table 1-1), the time
base (R22), and the count of free choices made (log entry 9). -/
structure State where
  pending : List Instr
  tu : Transit
  cir : Intake
  su : StreamUnit
  ct : ClipTracker
  fiu : FrameInspection
  ctu : CameraTrack
  fl : FaultList
  ls : List LookSlot
  ve : List View
  sh : List Motion
  pu : Panel
  time : Nat
  free : Nat
  deriving DecidableEq, Repr

/-! ### Updates of one field

Every operation changes State through these; Sys2Proof/Laws/State.lean has one lemma per field per update. -/

/-- Replace `pending`. -/
def State.withPending (s : State) (x : List Instr) : State :=
  { s with pending := x }

/-- Replace `tu`. -/
def State.withTu (s : State) (x : Transit) : State :=
  { s with tu := x }

/-- Replace `cir`. -/
def State.withCir (s : State) (x : Intake) : State :=
  { s with cir := x }

/-- Replace `su`. -/
def State.withSu (s : State) (x : StreamUnit) : State :=
  { s with su := x }

/-- Replace `ct`. -/
def State.withCt (s : State) (x : ClipTracker) : State :=
  { s with ct := x }

/-- Replace `fiu`. -/
def State.withFiu (s : State) (x : FrameInspection) : State :=
  { s with fiu := x }

/-- Replace `ctu`. -/
def State.withCtu (s : State) (x : CameraTrack) : State :=
  { s with ctu := x }

/-- Replace `fl`. -/
def State.withFl (s : State) (x : FaultList) : State :=
  { s with fl := x }

/-- Replace `ls`. -/
def State.withLs (s : State) (x : List LookSlot) : State :=
  { s with ls := x }

/-- Replace `ve`. -/
def State.withVe (s : State) (x : List View) : State :=
  { s with ve := x }

/-- Replace `sh`. -/
def State.withSh (s : State) (x : List Motion) : State :=
  { s with sh := x }

/-- Replace `pu`. -/
def State.withPu (s : State) (x : Panel) : State :=
  { s with pu := x }

/-- Replace `time`. -/
def State.withTime (s : State) (x : Nat) : State :=
  { s with time := x }

/-- Replace `free`. -/
def State.withFree (s : State) (x : Nat) : State :=
  { s with free := x }

/-- TU after hard reset (R9, R11): the sampled straps, everything else empty. R9 names the run count, the two queues and
the responses to come; that the order book, the writes whose data is still arriving and the write data still to be sent
are emptied with them is a DESIGN CHOICE (log entry 25). -/
def Transit.reset (straps : Nat) : Transit :=
  { cpBase := straps, book := [], inWrites := [], arrival := [], background := [], runCount := 0, sentWrites := [],
    nextTag := 0, stale := 0, dataQueue := [], memOut := none, memData := [], upOut := none }

/-- CIR after hard reset (Table 2-4). -/
def Intake.reset : Intake :=
  { expected := 1, p := 0, w := 0, c := 0, queue := [], dropped := 0, snapshots := [] }

/-- SU after hard reset (Table 3-11). -/
def StreamUnit.reset : StreamUnit :=
  { table := List.replicate 24 none, openSerial := 0, closing := [] }

/-- CT after hard reset (Table 4-7), with no card in any reader. -/
def ClipTracker.reset : ClipTracker :=
  { clips := List.replicate 64 none, slots := List.replicate 8 CardSlot.reset }

/-- FIU after hard reset (Table 5-10). -/
def FrameInspection.reset : FrameInspection :=
  { pool := none, serial := 0, slots := [], stray := 0 }

/-- CTU after hard reset (R100). -/
def CameraTrack.reset : CameraTrack :=
  { cameras := List.replicate 16 Camera.reset, zones := defaultZones, tracker := [],
    pairs := List.replicate 8 StereoPair.reset }

/-- FL after hard reset (Table 7-6). -/
def FaultList.reset : FaultList :=
  { records := [], nextId := 1, unlisted := 0 }

/-- LS after hard reset (R127). -/
def lookStoreReset : List LookSlot :=
  LookSlot.identity :: List.replicate 7 LookSlot.empty

/-- PU after hard reset (R166), with every key pin and both jog lines high (log entry 11). -/
def Panel.reset : Panel :=
  { keys := List.replicate 16 Key.reset, bindings := List.replicate 16 Binding.reset, jogBinding := none,
    debounce := 5, repeatDelay := 500, repeatInterval := 50, jogLines := (true, true), jogDue := true, jogLast := none,
    jogSteps := 0, jogDirection := none }

/-- The machine right after hard reset, as each chapter gives it, with CP_BASE sampled as 0, no card present, no key
pressed (DESIGN CHOICE, log entry 11), and no command waiting. -/
def State.reset : State :=
  { pending := [], tu := Transit.reset 0, cir := Intake.reset, su := StreamUnit.reset, ct := ClipTracker.reset,
    fiu := FrameInspection.reset, ctu := CameraTrack.reset, fl := FaultList.reset, ls := lookStoreReset,
    ve := [View.reset, View.reset], sh := [Motion.reset, Motion.reset], pu := Panel.reset, time := 0, free := 0 }

end Sys2Proof.Machine
end

