-- ==== Sys2Proof/Machine/Ops.lean ====
section
/-! DEFINITION. The shared operations that every unit uses: counts that stop or wrap, elapsed time, bytes and words of a
beat, an order the spec leaves open, and the creation of a report (R23) and its making ready (R24). -/

namespace Sys2Proof.Machine

/-! ### Counts and time -/

/-- 2^32, the modulus of the part's 32-bit counts. -/
abbrev two32 : Nat := 4294967296

/-- Add to a 32-bit count that wraps. -/
def wrap32 (n k : Nat) : Nat :=
  (n + k) % two32

/-- Add to a count that stops at `top`. -/
def satAdd (top n k : Nat) : Nat :=
  min top (n + k)

/-- The milliseconds from one time base value to another, mod 2^32 (Section 11.1). -/
def elapsed (now since : Nat) : Nat :=
  (two32 + now - since) % two32

/-- Clamp a value to a range (Section 1.5). -/
def clamp (lo hi v : Nat) : Nat :=
  max lo (min hi v)

/-- Clamp a signed value to a range (Section 1.5). -/
def clampInt (lo hi v : Int) : Int :=
  max lo (min hi v)

/-! ### Bytes and words of a beat -/

/-- Whether all 32 strobes of a beat are set. -/
def fullStrobes (st : Strobes) : Bool :=
  st.toNat == 4294967295

/-- The little-endian field of `width` bits at byte `byte` of a beat (Section 12.1). -/
def beatField (d : BeatData) (byte width : Nat) : Nat :=
  (d.toNat >>> (8 * byte)) % 2 ^ width

/-- The data of a beat with each byte whose strobe is clear taken as 0. -/
def maskedByte (d : BeatData) (st : Strobes) (i : Nat) : Nat :=
  if st.getLsbD i then beatField d i 8 else 0

/-- The i-th 32-bit little-endian word of a beat, bytes with clear strobes taken as 0 (R38, R78). -/
def maskedWord (d : BeatData) (st : Strobes) (i : Nat) : Nat :=
  maskedByte d st (4 * i) + 256 * maskedByte d st (4 * i + 1) + 65536 * maskedByte d st (4 * i + 2)
    + 16777216 * maskedByte d st (4 * i + 3)

/-- Whether a response is a success: R1 reads any other as ERROR. -/
def respOk : Resp → Bool
  | .okay => true
  | .exokay => true
  | .slverr => false
  | .decerr => false

/-! ### An order that the spec leaves open -/

/-- Take a list of owners in the order given or in the reverse, as the free choice answers; one owner or none needs no
choice (log entry 9). -/
def chooseOrder {α : Type} (l : List α) (s : State) : List α × State :=
  if l.length ≤ 1 then (l, s)
  else if Config.reverseOrder s.free then (l.reverse, s.withFree (s.free + 1))
  else (l, s.withFree (s.free + 1))

/-! ### Reports -/

/-- P - C, the reports outstanding (R24, R26). -/
def reportsOutstanding (s : State) : Nat :=
  (two32 + s.cir.p - s.cir.c) % two32

/-- Whether a background request is a report write. -/
def BackgroundItem.isReport : BackgroundItem → Bool
  | .report _ => true
  | .lookFetch _ _ => false

/-- Whether a report write is still waiting in the arbiter's background queue (R24). -/
def reportWaiting (s : State) : Bool :=
  s.tu.background.any BackgroundItem.isReport

/-- The report at the head of the pending queue as R24 completes it: sequence P + 1, ring slot W, the dropped count. -/
def readyHead (s : State) (r : Report) : ReadyReport :=
  { sequence := wrap32 s.cir.p 1, slot := s.cir.w, time := r.time, dropped := s.cir.dropped, body := r.body }

/-- Make the head report ready: P and W advance, the dropped count returns to 0, and its write joins the background
queue (R24). -/
def readyReport (r : Report) (rest : List Report) (s : State) : State :=
  (s.withTu { s.tu with background := s.tu.background ++ [.report (readyHead s r)] }).withCir
    { s.cir with p := wrap32 s.cir.p 1, w := (s.cir.w + 1) % 63, queue := rest, dropped := 0 }

/-- The test of R24, made after every event that can change its conditions: the head report is made ready when the ring
has room, no report write waits in the background queue, and the pending queue is not empty. -/
def makeReady (s : State) : State :=
  match s.cir.queue with
  | [] => s
  | r :: rest => if reportsOutstanding s < 63 ∧ reportWaiting s = false then readyReport r rest s else s

/-- Create a report (R23): it is stamped and joins the pending queue, or is dropped and counted when the queue holds 32.
A report whose conditions hold at its creation is made ready at once (R24). -/
def createReport (body : ReportBody) (s : State) : State :=
  if 32 ≤ s.cir.queue.length then
    s.withCir { s.cir with dropped := satAdd 65535 s.cir.dropped 1 }
  else
    makeReady (s.withCir { s.cir with queue := s.cir.queue ++ [{ time := s.time, body := body }] })

/-! ### Taking a record (R16, R18, R19) -/

/-- A record is taken: the expected sequence increases by 1, wrapping (R16, R18). -/
def advanceSequence (s : State) : State :=
  s.withCir { s.cir with expected := wrap32 s.cir.expected 1 }

/-- A command that ends at execution (R19): the record is taken, the command acts, and its COMPLETION is created after
every report its execution caused. -/
def completeCommand (code : Nat) (act : State → State × Answer) (s : State) : State :=
  createReport (.completion s.cir.expected code (act (advanceSequence s)).2) (act (advanceSequence s)).1

/-- A refusal with a reason: nothing else changes (R20). -/
def refuse (reason : Reason) (s : State) : State × Answer :=
  (s, .refused reason 0)

/-- The answer of a command carried out: CLAMPED naming the first clamped field of those listed with whether each was
clamped, or DONE (R20). -/
def carriedOut (fields : List (Nat × Bool)) (detail : Nat) : Answer :=
  match fields.find? (fun f => f.2) with
  | some f => .clamped f.1 detail
  | none => .done detail

/-! ### Table entries -/

/-- The clip record at an index, absent when FREE or out of range (R50). -/
def clipAt (s : State) (i : Nat) : Option Clip :=
  s.ct.clips.getD i none

/-- Replace the clip entry at an index. -/
def setClip (i : Nat) (e : Option Clip) (s : State) : State :=
  s.withCt { s.ct with clips := s.ct.clips.set i e }

/-- The card slot at an index. -/
def cardSlotAt (s : State) (k : Nat) : CardSlot :=
  s.ct.slots.getD k CardSlot.reset

/-- Replace a card slot. -/
def setCardSlot (k : Nat) (c : CardSlot) (s : State) : State :=
  s.withCt { s.ct with slots := s.ct.slots.set k c }

/-- The RUNNING stream with an id, if any (R31). -/
def streamAt (s : State) (i : Nat) : Option Stream :=
  s.su.table.getD i none

/-- Replace the stream table's entry at an id. -/
def setStream (i : Nat) (e : Option Stream) (s : State) : State :=
  s.withSu { s.su with table := s.su.table.set i e }

/-- The frame slot at an index (R68). -/
def frameSlotAt (s : State) (k : Nat) : FrameSlot :=
  s.fiu.slots.getD k FrameSlot.empty

/-- Replace a frame slot. -/
def setFrameSlot (k : Nat) (f : FrameSlot) (s : State) : State :=
  s.withFiu { s.fiu with slots := s.fiu.slots.set k f }

/-- The camera at an index (R84). -/
def cameraAt (s : State) (c : Nat) : Camera :=
  s.ctu.cameras.getD c Camera.reset

/-- Replace a camera record. -/
def setCamera (c : Nat) (x : Camera) (s : State) : State :=
  s.withCtu { s.ctu with cameras := s.ctu.cameras.set c x }

/-- The stereo pair at an index (R96). -/
def pairAt (s : State) (p : Nat) : StereoPair :=
  s.ctu.pairs.getD p StereoPair.reset

/-- Replace a stereo pair. -/
def setPair (p : Nat) (x : StereoPair) (s : State) : State :=
  s.withCtu { s.ctu with pairs := s.ctu.pairs.set p x }

/-- The look slot at an index (R112). -/
def lookSlotAt (s : State) (k : Nat) : LookSlot :=
  s.ls.getD k LookSlot.empty

/-- Replace a look slot. -/
def setLookSlot (k : Nat) (x : LookSlot) (s : State) : State :=
  s.withLs (s.ls.set k x)

/-- The view context at an index (R128). -/
def viewAt (s : State) (v : Nat) : View :=
  s.ve.getD v View.reset

/-- Replace a view context. -/
def setView (v : Nat) (x : View) (s : State) : State :=
  s.withVe (s.ve.set v x)

/-- The motion context of a view (R145). -/
def motionAt (s : State) (v : Nat) : Motion :=
  s.sh.getD v Motion.reset

/-- Replace a motion context. -/
def setMotion (v : Nat) (x : Motion) (s : State) : State :=
  s.withSh (s.sh.set v x)

/-- The key at an index (R159). -/
def keyAt (s : State) (k : Nat) : Key :=
  s.pu.keys.getD k Key.reset

/-- Replace a key. -/
def setKey (k : Nat) (x : Key) (s : State) : State :=
  s.withPu { s.pu with keys := s.pu.keys.set k x }

/-- The binding of a key (R161). -/
def bindingAt (s : State) (k : Nat) : Binding :=
  s.pu.bindings.getD k Binding.reset

end Sys2Proof.Machine
end

