-- ==== Sys2Proof/Machine/Operands.lean ====
section
/-! DEFINITION. The operand forms: what a request addresses and whether it is tapped (R1), the window set (R12), the
owner of a beat (R2), the overlap test (R13), and the codes of enumerated payload fields (Table 12-3). -/

namespace Sys2Proof.Machine

/-! ### Requests (R1) -/

/-- A half-open range of byte addresses: `size` bytes from `base` (R12). -/
structure Span where
  base : Nat
  size : Nat
  deriving DecidableEq, Repr

/-- Whether two ranges share at least one byte (R13). -/
def Span.overlaps (a b : Span) : Bool :=
  decide (0 < a.size ∧ 0 < b.size ∧ a.base < b.base + b.size ∧ b.base < a.base + a.size)

/-- Whether an address lies in a range. -/
def Span.holds (w : Span) (a : Nat) : Bool :=
  decide (w.base ≤ a ∧ a < w.base + w.size)

/-- The number of beats of a request, 1 to 16. -/
def beatCount (r : Request) : Nat :=
  r.len.val + 1

/-- The transfer size in bytes, 1 to 32. -/
def transferBytes (r : Request) : Nat :=
  2 ^ r.size.val

/-- Whether a request is tapped (R1): an incrementing burst of full beats from a multiple of 32, not exclusive. -/
def isTapped (r : Request) : Bool :=
  decide (r.burst = .incr ∧ transferBytes r = 32 ∧ r.addr.toNat % 32 = 0 ∧ r.exclusive = false)

/-- The bytes a request addresses, by its burst type (R1); for a tapped request they are its beats. -/
def requestSpan (r : Request) : Span :=
  let a := r.addr.toNat
  let z := transferBytes r
  let l := beatCount r
  match r.burst with
  | .fixed => { base := a, size := (a / z + 1) * z - a }
  | .incr => { base := a, size := a / z * z + l * z - a }
  | .wrap => { base := a / (l * z) * (l * z), size := l * z }

/-- The address of the i-th beat of a tapped request (R1). -/
def beatAddress (r : Request) (i : Nat) : Nat :=
  r.addr.toNat + 32 * i

/-! ### The window set (R11, R12) -/

/-- The control page: 8 KiB at CP_BASE x 4 GiB (R11). -/
def controlPage (s : State) : Span :=
  { base := two32 * s.tu.cpBase, size := 8192 }

/-- The range of a pool (R12). -/
def poolSpan (p : Pool) : Span :=
  { base := p.base, size := p.count * p.size }

/-- The range of a view window (R12). -/
def viewSpan (w : ViewWindow) : Span :=
  { base := w.base, size := w.stride * w.height }

/-- The range of a stream's window (R12). -/
def streamSpan (e : Stream) : Span :=
  { base := e.base, size := e.length }

/-- The frame pool window, when there is a pool. -/
def poolWindows (s : State) : List Span :=
  (s.fiu.pool.map poolSpan).toList

/-- The window of view v, when it is set. -/
def viewWindows (s : State) (v : Nat) : List Span :=
  ((viewAt s v).window.map viewSpan).toList

/-- The windows of the running streams. -/
def streamWindows (s : State) : List Span :=
  s.su.table.filterMap (fun e => e.map streamSpan)

/-- Whether a new window overlaps any of a list of windows (R13). -/
def overlapsAny (w : Span) (ws : List Span) : Bool :=
  ws.any (fun x => w.overlaps x)

/-- The first address past the 40-bit space. -/
abbrev addressTop : Nat := 1099511627776

/-- Whether a window's last byte lies in the 40-bit address space (R13). -/
def inAddressSpace (w : Span) : Bool :=
  decide (w.base + w.size ≤ addressTop)

/-! ### The owner of a beat (R2, Table 1-4) -/

/-- Where a beat falls (Table 1-4). -/
inductive Owner
  | commandRing
  | reportRing
  | consumedLine
  | pool
  | stream (id : Nat)
  | view (v : Nat)
  | nowhere
  deriving DecidableEq, Repr

/-- The running stream whose window holds an address. -/
def streamHolding (s : State) (a : Nat) : Option Nat :=
  s.su.table.findIdx? (fun e => (e.map (fun x => (streamSpan x).holds a)).getD false)

/-- The view whose window holds an address. -/
def viewHolding (s : State) (a : Nat) : Option Nat :=
  if (viewWindows s 0).any (fun w => w.holds a) then some 0
  else if (viewWindows s 1).any (fun w => w.holds a) then some 1
  else none

/-- The owner of a beat by its address, against the window set as it stands (R2). -/
def ownerOf (s : State) (a : Nat) : Owner :=
  if (controlPage s).holds a then
    if a - (controlPage s).base < 4096 then .commandRing
    else if a - (controlPage s).base < 8128 then .reportRing
    else .consumedLine
  else if (poolWindows s).any (fun w => w.holds a) then .pool
  else
    match streamHolding s a with
    | some i => .stream i
    | none =>
      match viewHolding s a with
      | some v => .view v
      | none => .nowhere

/-- Whether any byte of a request lies in a view window (R3). -/
def touchesView (s : State) (r : Request) : Bool :=
  overlapsAny (requestSpan r) (viewWindows s 0 ++ viewWindows s 1)

/-- The running streams whose windows a request touches, in ascending id (R4). -/
def streamsTouched (s : State) (r : Request) : List Nat :=
  (List.range s.su.table.length).filter
    (fun i => ((streamAt s i).map (fun e => (requestSpan r).overlaps (streamSpan e))).getD false)

/-- Whether a request touches the frame pool (R4). -/
def touchesPool (s : State) (r : Request) : Bool :=
  overlapsAny (requestSpan r) (poolWindows s)

/-! ### Codes of enumerated payload fields (Table 12-3, R167) -/

/-- The role argument with its destination index: SOURCE, or DEST 0-3 (R32, Table 12-3). -/
def roleOf (role destination : Nat) : Option Role :=
  match role with
  | 0 => some .source
  | 1 => if destination ≤ 3 then some (.dest destination) else none
  | _ => none

/-- A band look: a slot 0-7 or UNGRADED (0xFF); the outer option is absent for any other code. -/
def bandLookOf (code : Nat) : Option (Option Nat) :=
  if code ≤ 7 then some (some code) else if code = 255 then some none else none

/-- The direction codes. -/
def directionOf (code : Nat) : Option Direction :=
  match code with
  | 0 => some .forward
  | 1 => some .reverse
  | _ => none

/-- The panel action codes. -/
def actionOf (code : Nat) : Option PanelAction :=
  match code with
  | 0 => some .nothing
  | 1 => some .lookNext
  | 2 => some .shuttleFwd
  | 3 => some .shuttleRev
  | 4 => some .shuttleStop
  | 5 => some .holdToggle
  | 6 => some .faultNext
  | 7 => some .faultPrev
  | 8 => some .ackHere
  | 9 => some .zonesToggle
  | 10 => some .bandsToggle
  | _ => none

/-- A flag field: clear when 0, set for any other value (R167). -/
def flagOf (code : Nat) : Bool :=
  code != 0

end Sys2Proof.Machine
end

