-- ==== Sys2Proof/Machine/Looks.lean ====
section
/-! DEFINITION. The Look Store (Chapter 8): LOOK_LOAD (R115), the fetch's data beats and the end of a load (R116, R117,
R170), and the contents handed to the views (R118). -/

namespace Sys2Proof.Machine

/-! ### The look image (Table 12-8, R170) -/

/-- The 16-bit field at an even byte offset of a look image held as its beats. -/
def imageField (image : List BeatData) (byte : Nat) : Nat :=
  beatField (image.getD (byte / 32) 0) (byte % 32) 16

/-- A 16-bit field read as two's complement (Section 12.1). -/
def signed16 (n : Nat) : Int :=
  if n < 32768 then (n : Int) else (n : Int) - 65536

/-- The lifts as the image holds them (bytes 0-5). -/
def imageLifts (image : List BeatData) : Rgb Int :=
  { r := signed16 (imageField image 0), g := signed16 (imageField image 2), b := signed16 (imageField image 4) }

/-- A lift clamped to its range (R116, R170). -/
def clampLift (x : Int) : Int :=
  clampInt (-4096) 4095 x

/-- A curve's 33 points from a byte offset. -/
def imageCurve (image : List BeatData) (byte : Nat) : List Nat :=
  (List.range 33).map (fun i => imageField image (byte + 2 * i))

/-- A matrix row's three coefficients from a byte offset. -/
def imageRow (image : List BeatData) (byte : Nat) : Rgb Int :=
  { r := signed16 (imageField image byte), g := signed16 (imageField image (byte + 2)),
    b := signed16 (imageField image (byte + 4)) }

/-- The flag byte of an image (byte 30). -/
def imageFlags (image : List BeatData) : Nat :=
  imageField image 30 % 256

/-- The look of an image, its lifts clamped (R116, R170, Table 12-8). -/
def lookOfImage (image : List BeatData) : Look :=
  { lift := { r := clampLift (imageLifts image).r, g := clampLift (imageLifts image).g, b := clampLift (imageLifts image).b }
    gain := { r := imageField image 6, g := imageField image 8, b := imageField image 10 }
    curve := { r := imageCurve image 32, g := imageCurve image 98, b := imageCurve image 164 }
    matrix := { r := imageRow image 12, g := imageRow image 18, b := imageRow image 24 }
    curveBypass := imageFlags image % 2 == 1
    matrixBypass := imageFlags image / 2 % 2 == 1 }

/-! ### Contents handed to the views (R118) -/

/-- The contents of a slot: its active contents, or the identity look where it has none (R118). -/
def lookContents (s : State) (k : Nat) : Look :=
  (lookSlotAt s k).active.getD identityLook

/-! ### LOOK_LOAD (R115) -/

/-- A slot whose load has just started (R115). -/
def loadingSlot (x : LookSlot) (sequence : Nat) : LookSlot :=
  { x with state := .loading, prior := some x.state, loadSequence := some sequence, staged := [], failed := false }

/-- The start of a load: the slot is LOADING and its fetch joins the background queue (R115, R8). -/
def startLoad (k address sequence : Nat) (s : State) : State :=
  let t := setLookSlot k (loadingSlot (lookSlotAt s k) sequence) s
  t.withTu { t.tu with background := t.tu.background ++ [.lookFetch k address] }

/-- The test of LOOK_LOAD that fails first, if any (Table 8-4). -/
def lookLoadTest (k address : Nat) (s : State) : Option Reason :=
  if ¬(k ≤ 7 ∧ address % 32 = 0 ∧ address + 256 ≤ addressTop) then some .badArgument
  else if (lookSlotAt s k).state = .loading then some .busy
  else none

/-- A LOOK_LOAD record taken (R115): refused at execution with its COMPLETION, or the load starts and the COMPLETION
waits for its end (R21). -/
def takeLookLoad (slot : BitVec 8) (address : BitVec 64) (s : State) : State :=
  match lookLoadTest slot.toNat address.toNat s with
  | some reason => completeCommand 0x50 (refuse reason) s
  | none => startLoad slot.toNat address.toNat s.cir.expected (advanceSequence s)

/-- LOOK_LOAD (R115). -/
def execLookLoad (slot : BitVec 8) (address : BitVec 64) (s : State) : Host.Outcome State Fault Refusal :=
  .next (takeLookLoad slot address s)

/-! ### LOOK_FETCH_BEAT (R116, R117) -/

/-- A slot whose load has ended, with its state and active contents. With no fetch in flight the slot's fetch failed is clear
(DESIGN CHOICE, log entry 26: R117 does not say, and R115 clears it at the next load in any case). -/
def loadedSlot (st : LookState) (active : Option Look) : LookSlot :=
  { state := st, active := active, prior := none, loadSequence := none, staged := [], failed := false }

/-- The answer of a load that ended OK: CLAMPED naming the first lift clamped, or DONE (R116). -/
def loadAnswer (image : List BeatData) (k : Nat) : Answer :=
  carriedOut
    [(1, clampLift (imageLifts image).r != (imageLifts image).r),
     (2, clampLift (imageLifts image).g != (imageLifts image).g),
     (3, clampLift (imageLifts image).b != (imageLifts image).b)] k

/-- The named detail LOAD_FAULT (Table 12-6). -/
def detailLoadFault : Nat := 3

/-- The end of a load at its eighth beat (R116, R117). -/
def endLoad (k : Nat) (x : LookSlot) (s : State) : State :=
  if x.failed then
    createReport (.completion (x.loadSequence.getD 0) 0x50 (.refused .badArgument detailLoadFault))
      (setLookSlot k (loadedSlot (x.prior.getD .empty) x.active) s)
  else
    createReport (.completion (x.loadSequence.getD 0) 0x50 (loadAnswer x.staged k))
      (setLookSlot k (loadedSlot .ready (some (lookOfImage x.staged))) s)

/-- Whether the fetch for slot k is still waiting in the background queue. -/
def fetchWaiting (s : State) (k : Nat) : Bool :=
  s.tu.background.any (fun i => match i with
    | .lookFetch j _ => j == k
    | .report _ => false)

/-- A data beat of the fetch for slot k arrives (R116): it is staged; the eighth ends the load. For a slot with no
fetch in flight it is placed in no buffer (R119). -/
def stageBeat (k : Nat) (d : BeatData) (r : Resp) (s : State) : State :=
  let x := lookSlotAt s k
  if x.state = .loading ∧ fetchWaiting s k = false then
    let y := { x with staged := x.staged ++ [d], failed := x.failed || !respOk r }
    if y.staged.length < 8 then setLookSlot k y s else endLoad k y s
  else s

/-- LOOK_FETCH_BEAT (R116). -/
def execLookFetchBeat (slot : Fin 8) (data : BeatData) (resp : Resp) (s : State) : Host.Outcome State Fault Refusal :=
  .next (stageBeat slot.val data resp s)

end Sys2Proof.Machine
end

