-- ==== Sys2Proof/Machine/Flags.lean ====
section
/-! DEFINITION. The part's output lines as functions of State (REPORT_PENDING, R27; LAMP_RED and LAMP_GRN, R65), and the
card lamps: their computation (R64) and their change with its LAMP report (R65). -/

namespace Sys2Proof.Machine

/-- REPORT_PENDING is asserted while P differs from C (R27). -/
def reportPending (s : State) : Bool :=
  s.cir.p != s.cir.c

/-- Whether AMBER_FLASH lamps have their elements on: floor(time base / 250) is even (R65). -/
def flashOn (s : State) : Bool :=
  s.time / 250 % 2 == 0

/-- LAMP_RED[k] (R65). -/
def lampRed (s : State) (k : Nat) : Bool :=
  match (cardSlotAt s k).lamp with
  | .off => false
  | .red => true
  | .green => false
  | .amber => true
  | .amberFlash => flashOn s

/-- LAMP_GRN[k] (R65). -/
def lampGreen (s : State) (k : Nat) : Bool :=
  match (cardSlotAt s k).lamp with
  | .off => false
  | .red => false
  | .green => true
  | .amber => true
  | .amberFlash => flashOn s

/-- Whether the clip at an index is in the session set of card slot k (R50). -/
def inSession (s : State) (k i : Nat) : Bool :=
  match clipAt s i with
  | some c => c.slot == k && c.session == (cardSlotAt s k).session
  | none => false

/-- The clip indices of the session set of card slot k (R50). -/
def sessionSet (s : State) (k : Nat) : List Nat :=
  (List.range s.ct.clips.length).filter (inSession s k)

/-- Whether a SOURCE stream of a clip is running. -/
def sourceRunning (s : State) (clip : Nat) : Bool :=
  s.su.table.any (fun e => e.any (fun x => x.clip == clip && x.role == .source))

/-- Whether a DEST stream of a clip is running on destination d. -/
def destRunning (s : State) (clip d : Nat) : Bool :=
  s.su.table.any (fun e => e.any (fun x => x.clip == clip && x.role == .dest d))

/-- Whether any stream of a clip is running. -/
def streamRunning (s : State) (clip : Nat) : Bool :=
  s.su.table.any (fun e => e.any (fun x => x.clip == clip))

/-- A clip that holds its slot's lamp RED (Table 4-6, line 2). -/
def clipCritical (s : State) (i : Nat) : Bool :=
  (clipAt s i).any (fun c => c.state == .spoiled || decide (0 < c.critOpen))

/-- A clip that is VERIFIED (Table 4-6, line 4). -/
def clipVerified (s : State) (i : Nat) : Bool :=
  (clipAt s i).any (fun c => c.state == .verified)

/-- The lamp of card slot k: the first line of Table 4-6 that applies (R64). -/
def lampOf (s : State) (k : Nat) : Lamp :=
  if (cardSlotAt s k).present = false then .off
  else if (sessionSet s k).any (clipCritical s) then .red
  else if (sessionSet s k).any (sourceRunning s) then .amberFlash
  else if sessionSet s k ≠ [] ∧ (sessionSet s k).all (clipVerified s) then .green
  else .amber

/-- A change of lamp: the new value is set and one LAMP report is created (R65). -/
def changeLamp (k : Nat) (new : Lamp) (s : State) : State :=
  createReport (.lamp k (cardSlotAt s k).lamp new (cardSlotAt s k).session)
    (setCardSlot k { cardSlotAt s k with lamp := new } s)

/-- Compute the lamp of card slot k (R64, R65). Slot 8 has no lamp: nothing is set. -/
def computeLamp (k : Nat) (s : State) : State :=
  if k < 8 ∧ lampOf s k ≠ (cardSlotAt s k).lamp then changeLamp k (lampOf s k) s else s

/-- Compute the lamp of the slot that the clip at an index is in. -/
def computeClipLamp (i : Nat) (s : State) : State :=
  match clipAt s i with
  | some c => computeLamp c.slot s
  | none => s

/-- Compute the lamps of several slots in ascending slot order (R65). -/
def computeLamps (ks : List Nat) (s : State) : State :=
  ks.foldl (fun t k => computeLamp k t) s

end Sys2Proof.Machine
end

