-- ==== Sys2Proof/Machine/Faults.lean ====
section
/-! DEFINITION. The Fault List (Chapter 7): raising (R102 to R106), acknowledgement (R107, R109), the retired mark
(R108), the searches (R109), and the commands FAULT_ACK and CLIP_FAULTS_ACK. -/

namespace Sys2Proof.Machine

/-- Severities (R101). -/
inductive Severity
  | note
  | warn
  | critical
  deriving DecidableEq, Repr

/-- The severity of each kind (Table 7-2). -/
def severityOf : FaultKind → Severity
  | .gap => .critical
  | .duplicateNumber => .warn
  | .backstep => .warn
  | .tcBreak => .warn
  | .tcInvalid => .note
  | .frozenFrame => .warn
  | .exposureClip => .warn
  | .stuckPixel => .warn
  | .stereoUnpaired => .warn
  | .stereoExposure => .warn
  | .frameGeometry => .warn
  | .frameHeader => .warn
  | .frameAbandoned => .warn
  | .frameOverwrite => .warn
  | .frameWriteFault => .warn
  | .cameraUnknown => .note
  | .orphanFrame => .note
  | .sourceUnverifiable => .critical
  | .cardPulled => .critical
  | .copyMismatch => .warn
  | .copyWriteFault => .critical

/-- Whether a record is both NEW and CRITICAL, so that it is never evicted (R104). -/
def newCritical (r : FaultRecord) : Bool :=
  !r.acked && severityOf r.kind == .critical

/-- What a raiser hands FL (R101): every field but the id, the severity, the retired mark and the state. -/
structure Finding where
  kind : FaultKind
  camera : Option Nat
  clip : Option Nat
  frame : Option (Nat × Timecode)
  position : Option (Nat × Nat)
  detail : Nat
  deriving DecidableEq, Repr

/-- A finding about a clip alone (R54, R55, R57, R45). -/
def clipFinding (kind : FaultKind) (clip : Option Nat) (detail : Nat) : Finding :=
  { kind := kind, camera := none, clip := clip, frame := none, position := none, detail := detail }

/-- The next fault id after one: it wraps from 2^32 - 1 to 1 (R102). -/
def nextFaultId (id : Nat) : Nat :=
  if id = 4294967295 then 1 else id + 1

/-- The record of a finding (R103, step 1). -/
def faultRecord (id : Nat) (f : Finding) : FaultRecord :=
  { id := id, kind := f.kind, camera := f.camera, clip := f.clip, retired := false, frame := f.frame,
    position := f.position, detail := f.detail, acked := false }

/-- A clip's counts with one more fault of a severity (R52, R103 step 2). -/
def countedClip (sev : Severity) (c : Clip) : Clip :=
  match sev with
  | .note => c
  | .warn => { c with warnCount := satAdd 65535 c.warnCount 1 }
  | .critical => { c with critOpen := satAdd 65535 c.critOpen 1 }

/-- Count a fault against the clip it names, if the entry is not FREE (R52). -/
def countFault (f : Finding) (s : State) : State :=
  match f.clip with
  | none => s
  | some i =>
    match clipAt s i with
    | none => s
    | some c => setClip i (some (countedClip (severityOf f.kind) c)) s

/-- List a record (R104): the list after it, whether it was listed, and the id evicted for it. -/
def listFault (r : FaultRecord) (l : FaultList) : FaultList × Bool × Option Nat :=
  if l.records.length < 256 then
    ({ l with records := l.records ++ [r] }, true, none)
  else
    match l.records.findIdx? (fun x => !newCritical x) with
    | some i =>
      ({ l with records := l.records.eraseIdx i ++ [r] }, true, (l.records[i]?).map (fun x => x.id))
    | none => ({ l with unlisted := satAdd 4294967295 l.unlisted 1 }, false, none)

/-- A clip's crit_open and warn count as a FAULT report carries them; absent when no clip is named (R106). -/
def clipCounts (clip : Option Nat) (s : State) : Option (Nat × Nat) :=
  match clip with
  | none => none
  | some i => (clipAt s i).map (fun c => (c.critOpen, c.warnCount))

/-- A clip's crit_open, 0 for a FREE entry or no clip. -/
def critOpenOf (clip : Option Nat) (s : State) : Nat :=
  ((clipCounts clip s).map (fun x => x.1)).getD 0

/-- Give the next fault id (R102). -/
def takeFaultId (s : State) : State :=
  s.withFl { s.fl with nextId := nextFaultId s.fl.nextId }

/-- Keep a record in the list, or count it unlisted (R103, step 3). -/
def storeFault (r : FaultRecord) (s : State) : State :=
  s.withFl (listFault r s.fl).1

/-- Steps 1 to 4 of R103: id, counts, listing, FAULT report. -/
def reportFault (f : Finding) (s : State) : State :=
  let r := faultRecord s.fl.nextId f
  let s2 := countFault f (takeFaultId s)
  let listed := (listFault r s2.fl).2
  createReport (.fault r listed.1 listed.2 (clipCounts f.clip s2)) (storeFault r s2)

/-- Raise a fault (R103). Step 5, the lamp of the named clip's slot when its crit_open changed, is made here unless the
fault was raised inside a larger handling of CT's, which computes the lamp at its end. -/
def raiseFault (lampNow : Bool) (f : Finding) (s : State) : State :=
  let t := reportFault f s
  match f.clip with
  | none => t
  | some i => if lampNow = true ∧ critOpenOf f.clip s ≠ critOpenOf f.clip t then computeClipLamp i t else t

/-- The clip index that a fault of a frame names: the index taken at the header, if that clip still holds the frame's
label (R80, R87). -/
def heldClip (s : State) (clip : Option Nat) (label : Nat) : Option Nat :=
  match clip with
  | none => none
  | some i => if (clipAt s i).any (fun c => c.label == label) then some i else none

/-! ### Acknowledgement (R107, R109) -/

/-- Whether an acknowledgement of this record takes 1 off a clip's crit_open, and whose: a NEW CRITICAL record that
names a clip and is not marked retired (R107). -/
def acknowledgedClip (r : FaultRecord) : Option Nat :=
  if newCritical r = true ∧ r.retired = false then r.clip else none

/-- Subtract 1 from a clip's crit_open, not below 0 (R52). -/
def subtractCrit (clip : Option Nat) (s : State) : State :=
  match clip with
  | none => s
  | some i =>
    match clipAt s i with
    | none => s
    | some c => setClip i (some { c with critOpen := c.critOpen - 1 }) s

/-- Make ACKED every record of the list that satisfies a test. -/
def ackRecords (test : FaultRecord → Bool) (s : State) : State :=
  s.withFl { s.fl with records := s.fl.records.map (fun r => if test r then { r with acked := true } else r) }

/-- FAULT_ACK (R107): refused when no record has the id; a NEW record becomes ACKED, its clip's crit_open falls and the
lamp is computed. -/
def faultAckAct (id : Nat) (s : State) : State × Answer :=
  match s.fl.records.find? (fun r => r.id == id) with
  | none => refuse .badArgument s
  | some r =>
    if r.acked then (s, .done 0)
    else
      let t := subtractCrit (acknowledgedClip r) (ackRecords (fun x => x.id == id) s)
      match acknowledgedClip r with
      | none => (t, .done 1)
      | some i => (computeClipLamp i t, .done 1)

/-- The records that CLIP_FAULTS_ACK makes ACKED: NEW, naming the clip, not marked retired (R107). -/
def clipFaultTest (clip : Nat) (r : FaultRecord) : Bool :=
  !r.acked && r.clip == some clip && !r.retired

/-- CLIP_FAULTS_ACK (R107). -/
def clipFaultsAckAct (clip : Nat) (s : State) : State × Answer :=
  if 63 < clip then refuse .badArgument s
  else
    match clipAt s clip with
    | none => refuse .unknownClip s
    | some c =>
      let n := s.fl.records.countP (clipFaultTest clip)
      let t := setClip clip (some { c with critOpen := 0 }) (ackRecords (clipFaultTest clip) s)
      (if c.critOpen = 0 then t else computeClipLamp clip t, .done n)

/-- The records that the acknowledgement by frame makes ACKED: NEW, of camera c, at frame n (R109). -/
def frameFaultTest (camera frame : Nat) (r : FaultRecord) : Bool :=
  !r.acked && r.camera == some camera && (r.frame.map (fun x => x.1)) == some frame

/-- The acknowledgement by frame (R109): every such record ACKED, each clip's crit_open reduced, then the lamp of each
slot whose clip had a crit_open changed, once per slot, in ascending slot order; answers the number made ACKED. -/
def ackFrame (camera frame : Nat) (s : State) : State × Nat :=
  let hit := s.fl.records.filter (frameFaultTest camera frame)
  let t := hit.foldl (fun x r => subtractCrit (acknowledgedClip r) x) (ackRecords (frameFaultTest camera frame) s)
  let changed := fun k => (List.range s.ct.clips.length).any (fun i =>
    (clipAt t i).any (fun c => c.slot == k) && critOpenOf (some i) s != critOpenOf (some i) t)
  (computeLamps ((List.range 8).filter changed) t, hit.length)

/-- Mark retired every listed record that names a clip index and is not marked (R108). -/
def markRetired (clip : Nat) (s : State) : State :=
  s.withFl { s.fl with records := s.fl.records.map (fun r =>
    if r.clip == some clip && !r.retired then { r with retired := true } else r) }

/-! ### Searches (Table 7-3) -/

/-- The frame numbers of the NEW records of a camera that carry one. -/
def newFaultFrames (s : State) (camera : Nat) : List (Severity × Nat) :=
  s.fl.records.filterMap (fun r =>
    if !r.acked && r.camera == some camera then r.frame.map (fun x => (severityOf r.kind, x.1)) else none)

/-- The least of a list of frame numbers, if any. -/
def leastOf (l : List Nat) : Option Nat :=
  l.foldl (fun m x => some (match m with | none => x | some y => min x y)) none

/-- The greatest of a list of frame numbers, if any. -/
def greatestOf (l : List Nat) : Option Nat :=
  l.foldl (fun m x => some (match m with | none => x | some y => max x y)) none

/-- The fault ahead, for stop-on-fault: NEW WARN or CRITICAL, strictly beyond a and not beyond b in the direction, the
nearest to a (Table 7-3). -/
def faultAhead (s : State) (camera a b : Nat) (d : Direction) : Option Nat :=
  let frames := ((newFaultFrames s camera).filter (fun x => x.1 != .note)).map (fun x => x.2)
  match d with
  | .forward => leastOf (frames.filter (fun f => decide (a < f ∧ f ≤ b)))
  | .reverse => greatestOf (frames.filter (fun f => decide (f < a ∧ b ≤ f)))

/-- The next fault, for FAULT_NEXT (Table 7-3). -/
def nextFault (s : State) (camera a : Nat) : Option Nat :=
  leastOf (((newFaultFrames s camera).map (fun x => x.2)).filter (fun f => decide (a < f)))

/-- The previous fault, for FAULT_PREV (Table 7-3). -/
def previousFault (s : State) (camera a : Nat) : Option Nat :=
  greatestOf (((newFaultFrames s camera).map (fun x => x.2)).filter (fun f => decide (f < a)))

/-! ### Commands -/

/-- A FAULT_ACK record taken (R107). -/
def takeFaultAck (id : BitVec 32) (s : State) : State :=
  completeCommand 0x40 (faultAckAct id.toNat) s

/-- FAULT_ACK (R107). -/
def execFaultAck (id : BitVec 32) (s : State) : Host.Outcome State Fault Refusal :=
  .next (takeFaultAck id s)

/-- A CLIP_FAULTS_ACK record taken (R107). -/
def takeClipFaultsAck (clip : BitVec 8) (s : State) : State :=
  completeCommand 0x41 (clipFaultsAckAct clip.toNat) s

/-- CLIP_FAULTS_ACK (R107). -/
def execClipFaultsAck (clip : BitVec 8) (s : State) : Host.Outcome State Fault Refusal :=
  .next (takeClipFaultsAck clip s)

end Sys2Proof.Machine
end

