-- ==== Sys2Proof/Machine/Clips.lean ====
section
/-! DEFINITION. The Clip Tracker's clip records (Chapter 4): the changes that stream openings and ends make (R53 to R58),
CLIP_STATE reports (R59), the commands CLIP_OPEN (R51) and CLIP_RETIRE (R60), and FIU's two questions (R52). -/

namespace Sys2Proof.Machine

/-- Create a CLIP_STATE report of the clip at an index as the record stands after the change (R59). -/
def reportClip (i : Nat) (old : Option ClipState) (cause : ClipCause) (s : State) : State :=
  match clipAt s i with
  | some c => createReport (.clipState i c old (some c.state) cause) s
  | none => s

/-- The clip holding a label, if any (R52). -/
def clipOfLabel (s : State) (label : Nat) : Option Nat :=
  s.ct.clips.findIdx? (fun e => e.any (fun c => c.label == label))

/-- Count a completed frame to its clip when the entry still holds the label (R52). -/
def countFrame (clip : Option Nat) (label : Nat) (s : State) : State :=
  match heldClip s clip label with
  | none => s
  | some i =>
    match clipAt s i with
    | none => s
    | some c => setClip i (some { c with frames := satAdd 4294967295 c.frames 1 }) s

/-! ### Destinations -/

/-- A destination of a clip. -/
def destAt (c : Clip) (d : Nat) : Dest :=
  c.dests.getD d Dest.empty

/-- A clip with a destination replaced. -/
def withDest (c : Clip) (d : Nat) (x : Dest) : Clip :=
  { c with dests := c.dests.set d x }

/-- A destination with its held result compared with the source (R54, step 2). -/
def compareHeld (fp : Fingerprint) (x : Dest) : Dest :=
  match x.held with
  | none => x
  | some h => { verdict := if h = fp then .matched else .mismatch, held := none }

/-- Whether a destination holds a result that differs from the source (R54, step 4). -/
def heldDiffers (fp : Fingerprint) (x : Dest) : Bool :=
  x.held.any (fun h => h != fp)

/-- Whether a destination holds a result that equals the source. -/
def heldEquals (fp : Fingerprint) (x : Dest) : Bool :=
  x.held.any (fun h => h == fp)

/-! ### Stream openings (R53, R56) -/

/-- The record of a SPOILED clip whose source is opened again (R53): OPEN, verdicts NONE, no held result, match count
0, and the present session of its slot when the slot holds a card. -/
def reopenedClip (s : State) (c : Clip) : Clip :=
  { c with
    state := .opened
    dests := List.replicate 4 Dest.empty
    matchCount := 0
    session := if c.slot < 8 ∧ (cardSlotAt s c.slot).present = true then (cardSlotAt s c.slot).session else c.session }

/-- CT is told that a SOURCE stream of the clip at an index is opened (R53). -/
def sourceOpened (i : Nat) (s : State) : State :=
  match clipAt s i with
  | none => s
  | some c =>
    if c.state = .spoiled then
      computeClipLamp i (reportClip i (some .spoiled) .sourceReopened (setClip i (some (reopenedClip s c)) s))
    else computeClipLamp i s

/-- CT is told that a DEST stream is opened on destination d (R56). -/
def destOpened (i d : Nat) (s : State) : State :=
  match clipAt s i with
  | none => s
  | some c =>
    reportClip i (some c.state) .verdict (setClip i (some (withDest c d { verdict := .pending, held := none })) s)

/-! ### Source ends (R54, R55) -/

/-- Steps 1 and 2 of R54: the source fingerprint is stored and every held result compared. -/
def sourcedClip (fp : Fingerprint) (c : Clip) : Clip :=
  { c with
    state := .sourced
    source := some fp
    dests := c.dests.map (compareHeld fp)
    matchCount := c.matchCount + c.dests.countP (heldEquals fp) }

/-- Raise COPY_MISMATCH for each of a list of destinations in order (R54, R57). -/
def raiseMismatches (i : Nat) (ds : List Nat) (s : State) : State :=
  ds.foldl (fun t d => raiseFault false (clipFinding .copyMismatch (some i) d) t) s

/-- A SOURCED clip with enough matches becomes VERIFIED, with its CLIP_STATE report (R54 step 5). -/
def verifyIfEnough (i : Nat) (s : State) : State :=
  match clipAt s i with
  | none => s
  | some c =>
    if c.required ≤ c.matchCount then
      reportClip i (some .sourced) .verified (setClip i (some { c with state := .verified }) s)
    else s

/-- A SOURCE stream of the clip ends GOOD (R54). -/
def sourceGood (i : Nat) (fp : Fingerprint) (s : State) : State :=
  match clipAt s i with
  | none => s
  | some c =>
    let t := reportClip i (some c.state) .sourceFinal (setClip i (some (sourcedClip fp c)) s)
    let ds := (List.range c.dests.length).filter (fun d => heldDiffers fp (destAt c d))
    computeClipLamp i (verifyIfEnough i (raiseMismatches i ds t))

/-- Step 1 of R55: held results are discarded, and every destination with no running DEST stream gets NONE. -/
def spoiledClip (s : State) (i : Nat) (c : Clip) : Clip :=
  { c with
    state := .spoiled
    dests := (List.range c.dests.length).map (fun d =>
      { verdict := if destRunning s i d then (destAt c d).verdict else .unset, held := none })
    matchCount := 0 }

/-- A SOURCE stream of the clip ends otherwise (R55); `pulled` names the card slot when its card was pulled (R63), and
the lamp is then left to the removal's end. -/
def sourceFailed (i stream : Nat) (pulled : Option Nat) (s : State) : State :=
  match clipAt s i with
  | none => s
  | some c =>
    let t := reportClip i (some c.state) .sourceFailed (setClip i (some (spoiledClip s i c)) s)
    let u := raiseFault false (clipFinding .sourceUnverifiable (some i) stream) t
    match pulled with
    | none => computeClipLamp i u
    | some k => raiseFault false (clipFinding .cardPulled (some i) k) u

/-! ### Destination ends (R57, R58) -/

/-- The record of a SOURCED or VERIFIED clip whose destination d is compared at once (R57). -/
def comparedClip (c : Clip) (d : Nat) (fp : Fingerprint) : Clip :=
  if c.source = some fp then
    { withDest c d { verdict := .matched, held := none } with matchCount := c.matchCount + 1 }
  else withDest c d { verdict := .mismatch, held := none }

/-- A GOOD destination result against a final source (R57, second case). -/
def compareDest (i : Nat) (c : Clip) (d : Nat) (fp : Fingerprint) (s : State) : State :=
  let x := comparedClip c d fp
  if c.state = .sourced ∧ x.required ≤ x.matchCount ∧ c.source = some fp then
    computeClipLamp i (reportClip i (some .sourced) .verified (setClip i (some { x with state := .verified }) s))
  else
    let t := reportClip i (some c.state) .verdict (setClip i (some x) s)
    if c.source = some fp then t else raiseFault false (clipFinding .copyMismatch (some i) d) t

/-- A DEST stream on destination d ends GOOD (R57). -/
def destGood (i d : Nat) (fp : Fingerprint) (s : State) : State :=
  match clipAt s i with
  | none => s
  | some c =>
    match c.state with
    | .opened =>
      reportClip i (some .opened) .held (setClip i (some (withDest c d { verdict := .pending, held := some fp })) s)
    | .sourced => compareDest i c d fp s
    | .verified => compareDest i c d fp s
    | .spoiled =>
      reportClip i (some .spoiled) .verdict (setClip i (some (withDest c d Dest.empty)) s)

/-- A DEST stream on destination d ends otherwise (R58). -/
def destFailed (i d : Nat) (s : State) : State :=
  match clipAt s i with
  | none => s
  | some c =>
    let v : Verdict := if c.state = .spoiled then .unset else .unverifiable
    reportClip i (some c.state) .verdict (setClip i (some (withDest c d { verdict := v, held := none })) s)

/-! ### CLIP_OPEN (R51) -/

/-- The lowest FREE entry of the clip table. -/
def freeClip (s : State) : Option Nat :=
  s.ct.clips.findIdx? (fun e => e.isNone)

/-- The record of a clip just opened (R51). -/
def openedClip (s : State) (label slot camera required : Nat) : Clip :=
  { state := .opened, label := label, slot := slot,
    session := if slot < 8 then (cardSlotAt s slot).session else 0,
    camera := camera, required := clamp 1 3 required, source := none, dests := List.replicate 4 Dest.empty,
    matchCount := 0, frames := 0, critOpen := 0, warnCount := 0 }

/-- CLIP_OPEN (R51, Table 4-2). -/
def clipOpenAct (label slot camera required : Nat) (s : State) : State × Answer :=
  if ¬(slot ≤ 8 ∧ camera ≤ 15) then refuse .badArgument s
  else if (clipOfLabel s label).isSome then refuse .badArgument s
  else if slot < 8 ∧ (cardSlotAt s slot).present = false then refuse .noCard s
  else
    match freeClip s with
    | none => refuse .noRoom s
    | some i =>
      let t := reportClip i none .opened (setClip i (some (openedClip s label slot camera required)) s)
      (computeLamp slot t, carriedOut [(4, clamp 1 3 required != required)] i)

/-- A CLIP_OPEN record taken (R51). -/
def takeClipOpen (label : BitVec 32) (slot camera required : BitVec 8) (s : State) : State :=
  completeCommand 0x20 (clipOpenAct label.toNat slot.toNat camera.toNat required.toNat) s

/-- CLIP_OPEN (R51). -/
def execClipOpen (label : BitVec 32) (slot camera required : BitVec 8) (s : State) :
    Host.Outcome State Fault Refusal :=
  .next (takeClipOpen label slot camera required s)

/-! ### CLIP_RETIRE (R60) -/

/-- SU marks a clip index absent in every closing note that holds it (R46). -/
def forgetClip (i : Nat) (s : State) : State :=
  s.withSu { s.su with closing := s.su.closing.map (fun n => if n.clip = some i then { n with clip := none } else n) }

/-- The five steps of R60 for a clip in use. -/
def retireClip (i : Nat) (c : Clip) (s : State) : State :=
  let t := createReport (.clipState i c (some c.state) none .retired) s
  computeLamp c.slot (setClip i none (forgetClip i (markRetired i t)))

/-- CLIP_RETIRE (R60). -/
def clipRetireAct (i : Nat) (s : State) : State × Answer :=
  if 63 < i then refuse .badArgument s
  else
    match clipAt s i with
    | none => refuse .unknownClip s
    | some c => if streamRunning s i then refuse .busy s else (retireClip i c s, .done i)

/-- A CLIP_RETIRE record taken (R60). -/
def takeClipRetire (clip : BitVec 8) (s : State) : State :=
  completeCommand 0x21 (clipRetireAct clip.toNat) s

/-- CLIP_RETIRE (R60). -/
def execClipRetire (clip : BitVec 8) (s : State) : Host.Outcome State Fault Refusal :=
  .next (takeClipRetire clip s)

end Sys2Proof.Machine
end

