-- ==== Sys2Proof/Machine/Streams.lean ====
section
/-! DEFINITION. The Stream Unit (Chapter 3): the fingerprint (R38, R39), taking beats (R34 to R36), the end of a stream
(R43), write responses (R44, R45), and the commands STREAM_OPEN, STREAM_CLOSE and STREAM_ABORT. -/

namespace Sys2Proof.Machine

/-! ### The fingerprint (R38, R39) -/

/-- The prime p = 2^32 - 5. -/
abbrev fingerprintPrime : Nat := 4294967291

/-- One word into the running sums: A, then B with the A just formed (R39). -/
def feedWord (ab : Nat × Nat) (w : Nat) : Nat × Nat :=
  let a := (ab.1 + w % fingerprintPrime) % fingerprintPrime
  (a, (ab.2 + a) % fingerprintPrime)

/-- The words of a beat of n bytes in order, the last padded with zero bytes at its high end (R38). -/
def beatWords (d : BeatData) (st : Strobes) (n : Nat) : List Nat :=
  (List.range ((n + 3) / 4)).map (maskedWord d st)

/-- The byte count of a beat whose set strobes are bytes 0 to n - 1, for n from 1 to 32; absent for any other strobes
(R34). -/
def strobeRun (st : Strobes) : Option Nat :=
  ((List.range 32).find? (fun k => st.toNat + 1 == 2 ^ (k + 1))).map (fun k => k + 1)

/-- The 64-bit value B x 2^32 + A that reports carry (R39). -/
def fingerprintValue (e : Stream) : Nat :=
  two32 * e.b + e.a

/-! ### The end of a stream (R43) -/

/-- The closing note of an ended stream (R43, step 3). -/
def closingNote (id : Nat) (e : Stream) (o : StreamOutcome) : ClosingNote :=
  { serial := e.serial, stream := id, clip := some e.clip, role := e.role, outcome := o, outstanding := e.outstanding,
    faultRaised := false }

/-- The outcome is handed to the Clip Tracker (R43, step 2). -/
def handToClip (id : Nat) (e : Stream) (o : StreamOutcome) (pulled : Option Nat) (s : State) : State :=
  match e.role, o with
  | .source, .good => sourceGood e.clip { b := e.b, a := e.a, length := e.bytes } s
  | .source, _ => sourceFailed e.clip id pulled s
  | .dest d, .good => destGood e.clip d { b := e.b, a := e.a, length := e.bytes } s
  | .dest d, _ => destFailed e.clip d s

/-- The STREAM_END report of an entry (Table 3-5). -/
def streamEndReport (id : Nat) (e : Stream) (o : StreamOutcome) (offending : Option Nat) : ReportBody :=
  .streamEnd id e.clip e.role o e.tailSeen e.bytes e.expected
    (if o = .good then some (fingerprintValue e) else none) offending

/-- A closing note joins the closing list if the stream's outstanding count is above 0 (R43, step 3). -/
def keepNote (id : Nat) (e : Stream) (o : StreamOutcome) (s : State) : State :=
  if 0 < e.outstanding then s.withSu { s.su with closing := s.su.closing ++ [closingNote id e o] } else s

/-- Stream `id` ends (R43). The entry is freed before CT acts, so that the stream no longer counts as running in the
lamp that CT computes (DEDUCED from the worked sequence of Section 4.4.1, log entry 13). -/
def endStream (id : Nat) (o : StreamOutcome) (offending pulled : Option Nat) (s : State) : State :=
  match streamAt s id with
  | none => s
  | some e =>
    keepNote id e o (handToClip id e o pulled
      (createReport (streamEndReport id e o offending) (setStream id none s)))

/-! ### Taking beats (R34 to R36) -/

/-- The most bytes a stream may take (R34, length test). -/
def lengthLimit (e : Stream) : Nat :=
  if e.expected = 0 then 281474976710655 else e.expected

/-- An entry after a beat of n bytes is taken (R35). -/
def takenStream (e : Stream) (d : BeatData) (st : Strobes) (n : Nat) : Stream :=
  let ab := (beatWords d st n).foldl feedWord (e.a, e.b)
  { e with
    a := ab.1
    b := ab.2
    bytes := e.bytes + n
    next := if e.next + 32 = e.base + e.length then e.base else e.next + 32
    tailSeen := e.tailSeen || n < 32 }

/-- What the four tests of R34 say of a beat: its byte count if it is taken, or the outcome of the first test failed. -/
def judgeBeat (e : Stream) (addr : Nat) (st : Strobes) : Except StreamOutcome Nat :=
  if addr ≠ e.next then .error .disordered
  else
    match strobeRun st with
    | none => .error .disordered
    | some n =>
      if e.tailSeen then .error .disordered
      else if lengthLimit e < e.bytes + n then .error .overrun
      else .ok n

/-- A beat is handed to running stream `id` (R34 to R36). `marked` says whether the beat's request already carries this
stream's tag; the answer is the serial to tag the request with, when the beat is the first of it to be taken. -/
def streamBeat (id addr : Nat) (d : BeatData) (st : Strobes) (marks : List Mark) (s : State) : State × Option Mark :=
  match streamAt s id with
  | none => (s, none)
  | some e =>
    match judgeBeat e addr st with
    | .error o => (endStream id o (some addr) none s, none)
    | .ok n =>
      let fresh := !marks.contains (.stream e.serial)
      let e' := { takenStream e d st n with outstanding := if fresh then e.outstanding + 1 else e.outstanding }
      let t := setStream id (some e') s
      (if e'.expected ≠ 0 ∧ e'.bytes = e'.expected then endStream id .good none none t else t,
        if fresh then some (.stream e.serial) else none)

/-- An untapped request touching the windows of running streams ends each DISORDERED (R4, R37). -/
def untappedStreams (r : Request) (s : State) : State :=
  let c := chooseOrder (streamsTouched s r) s
  c.1.foldl (fun t id => endStream id .disordered (some r.addr.toNat) none t) c.2

/-! ### Write responses (R44, R45) -/

/-- The running stream with a serial. -/
def streamOfSerial (s : State) (serial : Nat) : Option Nat :=
  s.su.table.findIdx? (fun e => e.any (fun x => x.serial == serial))

/-- A closing note counts down, and is removed at 0 (R45). -/
def countDown (serial : Nat) (raised : Bool) (l : List ClosingNote) : List ClosingNote :=
  l.filterMap (fun n =>
    if n.serial = serial then
      if n.outstanding ≤ 1 then none
      else some { n with outstanding := n.outstanding - 1, faultRaised := n.faultRaised || raised }
    else some n)

/-- A write response for an ended stream's note (R45). -/
def noteResponse (serial : Nat) (ok : Bool) (s : State) : State :=
  match s.su.closing.find? (fun n => n.serial == serial) with
  | none => s
  | some n =>
    let raise := !ok && n.outcome == .good && !n.faultRaised
    let t := s.withSu { s.su with closing := countDown serial raise s.su.closing }
    if raise then raiseFault true (clipFinding .copyWriteFault n.clip n.stream) t else t

/-- A write response shown to SU for a request tagged to a serial (R44, R45). -/
def streamResponse (serial : Nat) (ok : Bool) (s : State) : State :=
  match streamOfSerial s serial with
  | none => noteResponse serial ok s
  | some id =>
    match streamAt s id with
    | none => s
    | some e =>
      let t := setStream id (some { e with outstanding := e.outstanding - 1 }) s
      if ok then t else endStream id .faulted none none t

/-! ### STREAM_OPEN (R32, R33) -/

/-- The lowest free stream id. -/
def freeStream (s : State) : Option Nat :=
  s.su.table.findIdx? (fun e => e.isNone)

/-- The first row of Table 3-2. -/
def streamOpenArguments (clip : Nat) (role : Option Role) (base length : Nat) : Bool :=
  decide (clip ≤ 63 ∧ role.isSome = true ∧ base % 32 = 0 ∧ length % 32 = 0 ∧ 4096 ≤ length ∧ length ≤ two32 ∧
    base + length ≤ addressTop)

/-- The tests of Table 3-2 that depend on the role, in order. -/
def streamRoleTest (s : State) (i : Nat) (c : Clip) : Role → Option Reason
  | .source =>
    if c.state = .sourced ∨ c.state = .verified ∨ sourceRunning s i = true then some .wrongState
    else if c.state = .spoiled ∧ streamRunning s i = true then some .busy
    else none
  | .dest d =>
    if c.state = .spoiled then some .wrongState
    else if (destAt c d).verdict = .matched then some .alreadyVerified
    else if destRunning s i d = true then some .busy
    else none

/-- The entry of a stream just opened (R33). -/
def openedStream (s : State) (clip : Nat) (role : Role) (base length expected : Nat) : Stream :=
  { serial := s.su.openSerial, clip := clip, role := role, base := base, length := length, next := base, bytes := 0,
    expected := expected, tailSeen := false, a := 1, b := 0, outstanding := 0 }

/-- An opening that passed every test (R33): the entry is made, the serial advances, and CT is told. -/
def openStream (id : Nat) (e : Stream) (s : State) : State :=
  let t := (setStream id (some e) s)
  let u := t.withSu { t.su with openSerial := wrap32 t.su.openSerial 1 }
  match e.role with
  | .source => sourceOpened e.clip u
  | .dest d => destOpened e.clip d u

/-- STREAM_OPEN (R32, R33). -/
def streamOpenAct (clip role destination base length expected : Nat) (s : State) : State × Answer :=
  match roleOf role destination with
  | none => refuse .badArgument s
  | some r =>
    if streamOpenArguments clip (some r) base length = false then refuse .badArgument s
    else
      match clipAt s clip with
      | none => refuse .unknownClip s
      | some c =>
        match freeStream s with
        | none => refuse .noRoom s
        | some id =>
          match streamRoleTest s clip c r with
          | some reason => refuse reason s
          | none =>
            if overlapsAny { base := base, size := length }
                (controlPage s :: poolWindows s ++ viewWindows s 0 ++ viewWindows s 1 ++ streamWindows s) then
              refuse .overlap s
            else (openStream id (openedStream s clip r base length expected) s, .done id)

/-- A STREAM_OPEN record taken (R32). -/
def takeStreamOpen (clip role destination : BitVec 8) (base length : BitVec 64) (expected : BitVec 48) (s : State) :
    State :=
  completeCommand 0x10
    (streamOpenAct clip.toNat role.toNat destination.toNat base.toNat length.toNat expected.toNat) s

/-- STREAM_OPEN (R32, R33). -/
def execStreamOpen (clip role destination : BitVec 8) (base length : BitVec 64) (expected : BitVec 48) (s : State) :
    Host.Outcome State Fault Refusal :=
  .next (takeStreamOpen clip role destination base length expected s)

/-! ### STREAM_CLOSE, STREAM_ABORT (R40, R41) -/

/-- The outcome of a STREAM_CLOSE, from the entry as it stands (R40). -/
def closeOutcome (e : Stream) (finalLength : Nat) : StreamOutcome :=
  if e.expected = 0 ∧ finalLength = e.bytes then .good else .length

/-- STREAM_CLOSE (R40). -/
def streamCloseAct (id finalLength : Nat) (s : State) : State × Answer :=
  if 23 < id then refuse .badArgument s
  else
    match streamAt s id with
    | none => refuse .unknownStream s
    | some e => (endStream id (closeOutcome e finalLength) none none s, .done id)

/-- A STREAM_CLOSE record taken (R40). -/
def takeStreamClose (stream : BitVec 8) (finalLength : BitVec 48) (s : State) : State :=
  completeCommand 0x11 (streamCloseAct stream.toNat finalLength.toNat) s

/-- STREAM_CLOSE (R40). -/
def execStreamClose (stream : BitVec 8) (finalLength : BitVec 48) (s : State) : Host.Outcome State Fault Refusal :=
  .next (takeStreamClose stream finalLength s)

/-- STREAM_ABORT (R41). -/
def streamAbortAct (id : Nat) (s : State) : State × Answer :=
  if 23 < id then refuse .badArgument s
  else
    match streamAt s id with
    | none => refuse .unknownStream s
    | some _ => (endStream id .aborted none none s, .done id)

/-- A STREAM_ABORT record taken (R41). -/
def takeStreamAbort (stream : BitVec 8) (s : State) : State :=
  completeCommand 0x12 (streamAbortAct stream.toNat) s

/-- STREAM_ABORT (R41). -/
def execStreamAbort (stream : BitVec 8) (s : State) : Host.Outcome State Fault Refusal :=
  .next (takeStreamAbort stream s)

end Sys2Proof.Machine
end

