-- ==== Sys2Proof/Machine/Cards.lean ====
section
/-! DEFINITION. Card slots and sessions (R61 to R63) and the millisecond time base (R22): CARD_DET_CHANGE,
CARD_INSERTION, CARD_REMOVAL and TIME_BASE_TICK. A timed event whose time has not come changes nothing (log entry 1). -/

namespace Sys2Proof.Machine

/-! ### Debounce (R61, R159) -/

/-- The change pending of an input after its raw level is seen: set when the level begins to differ from the debounced
one, absent when it agrees (R61). -/
def changeAfter (raw debounced : Bool) (pending : Option Nat) (now : Nat) : Option Nat :=
  if raw = debounced then none
  else
    match pending with
    | some t => some t
    | none => some now

/-- Whether a pending change has stood for the debounce time in force (R61). -/
def changeDue (s : State) (pending : Option Nat) : Bool :=
  match pending with
  | none => false
  | some t => decide (s.pu.debounce ≤ elapsed s.time t)

/-! ### CARD_DET_CHANGE (R61) -/

/-- CARD_DET[k] takes a level (R61). -/
def cardDetChange (k : Nat) (low : Bool) (s : State) : State :=
  let c := cardSlotAt s k
  setCardSlot k { c with detLow := low, changePending := changeAfter low c.present c.changePending s.time } s

/-- CARD_DET_CHANGE (R61). -/
def execCardDetChange (slot : Fin 8) (low : Bool) (s : State) : Host.Outcome State Fault Refusal :=
  .next (cardDetChange slot.val low s)

/-! ### CARD_INSERTION (R62) -/

/-- A card slot after an insertion (R62). -/
def insertedSlot (c : CardSlot) : CardSlot :=
  { c with present := true, session := (c.session + 1) % 65536, changePending := none }

/-- An insertion at slot k, when its debounce has run out (R61, R62). -/
def cardInsertion (k : Nat) (s : State) : State :=
  let c := cardSlotAt s k
  if c.present = false ∧ changeDue s c.changePending = true then computeLamp k (setCardSlot k (insertedSlot c) s) else s

/-- CARD_INSERTION (R62). -/
def execCardInsertion (slot : Fin 8) (s : State) : Host.Outcome State Fault Refusal :=
  .next (cardInsertion slot.val s)

/-! ### CARD_REMOVAL (R63) -/

/-- The running SOURCE streams whose clips are in the session set of slot k, in ascending id (R63, step 1). -/
def sessionSources (s : State) (k : Nat) : List Nat :=
  (List.range s.su.table.length).filter
    (fun i => (streamAt s i).any (fun e => e.role == .source && inSession s k e.clip))

/-- Step 1 of R63: each named stream ends ABORTED with its card pulled. -/
def pullSources (k : Nat) (s : State) : State :=
  (sessionSources s k).foldl (fun t id => endStream id .aborted none (some k) t) s

/-- A removal at slot k, when its debounce has run out (R61, R63). -/
def cardRemoval (k : Nat) (s : State) : State :=
  let c := cardSlotAt s k
  if c.present = true ∧ changeDue s c.changePending = true then
    let t := pullSources k s
    computeLamp k (setCardSlot k { cardSlotAt t k with present := false, changePending := none } t)
  else s

/-- CARD_REMOVAL (R63). -/
def execCardRemoval (slot : Fin 8) (s : State) : Host.Outcome State Fault Refusal :=
  .next (cardRemoval slot.val s)

/-! ### TIME_BASE_TICK (R22) -/

/-- PU as a millisecond ends: where no command brought the millisecond's jog sample, the lines stood as they were, so that
only the first sample after hard reset is kept anew; and the next millisecond's sample is to be taken (R164, R166; log
entry 12). -/
def nextJogSample (u : Panel) : Panel :=
  { u with jogLast := some (u.jogLast.getD u.jogLines), jogDue := true }

/-- A millisecond passes: the time base increases by 1, wrapping, and paces the sampling of the jog lines (R22, R164). -/
def timeBaseTick (s : State) : State :=
  (s.withTime (wrap32 s.time 1)).withPu (nextJogSample s.pu)

/-- TIME_BASE_TICK (R22). -/
def execTimeBaseTick (s : State) : Host.Outcome State Fault Refusal :=
  .next (timeBaseTick s)

end Sys2Proof.Machine
end

