-- ==== Sys2Proof/Machine/Cameras.lean ====
section
/-! DEFINITION. The Camera Track Unit (Chapter 6): the checks at a frame's end (R87 to R98) and the commands CAMERA_SET,
PAIR_SET, ZONES_SET and TRACKER_CLEAR. -/

namespace Sys2Proof.Machine

/-! ### The checks at a frame's end -/

/-- The day length L of a timecode base (R87). -/
def dayLength (base : Nat) : Nat :=
  86400 * base

/-- A timecode with each field clamped (R87, step 1). -/
def clampTimecode (base : Nat) (t : Timecode) : Timecode :=
  { hh := min 23 t.hh, mm := min 59 t.mm, ss := min 59 t.ss, ff := min (base - 1) t.ff }

/-- The timecode count of a timecode as written (R87, step 1). -/
def timecodeCount (base : Nat) (t : Timecode) : Nat :=
  let c := clampTimecode base t
  ((c.hh * 60 + c.mm) * 60 + c.ss) * base + c.ff

/-- A fault of a frame of its camera: it names the camera, the frame and, if still held, the clip (R87). -/
def frameFinding (s : State) (kind : FaultKind) (f : FrameSlot) (position : Option (Nat × Nat)) (detail : Nat) : Finding :=
  { kind := kind, camera := some f.camera, clip := heldClip s f.clip f.label, frame := some (f.frame, f.timecode),
    position := position, detail := detail }

/-- Raise a fault of a frame (R80, R87). -/
def raiseFrame (kind : FaultKind) (f : FrameSlot) (detail : Nat) (s : State) : State :=
  raiseFault true (frameFinding s kind f none detail) s

/-- TC_INVALID for a frame whose timecode was clamped (R87, step 1). -/
def checkInvalid (f : FrameSlot) (base : Nat) (s : State) : State :=
  if clampTimecode base f.timecode = f.timecode then s
  else raiseFrame .tcInvalid f (timecodeCount base f.timecode) s

/-- Whether frame number n follows l (R88). -/
def isContinuous (n l : Nat) : Bool :=
  n == wrap32 l 1

/-- The frame-number check (R88). -/
def checkNumber (f : FrameSlot) (l : Nat) (s : State) : State :=
  if isContinuous f.frame l then s
  else if f.frame = l then raiseFrame .duplicateNumber f f.frame s
  else if l < f.frame then raiseFrame .gap f (f.frame - l - 1) s
  else raiseFrame .backstep f (l - f.frame) s

/-- The timecode check, for a continuous frame only (R89). -/
def checkTimecode (f : FrameSlot) (base l lastCount : Nat) (s : State) : State :=
  let e := (lastCount + 1) % dayLength base
  if isContinuous f.frame l = true ∧ timecodeCount base f.timecode ≠ e then raiseFrame .tcBreak f e s else s

/-- The frozen-frame check (R90). -/
def checkFrozen (f : FrameSlot) (l lastSignature : Nat) (s : State) : State :=
  if f.signature = lastSignature ∧ f.frame ≠ l then raiseFrame .frozenFrame f l s else s

/-- Step 2 of R87: the three checks against the last frame, skipped for a first frame. -/
def checkHistory (f : FrameSlot) (cam : Camera) (s : State) : State :=
  if cam.firstFrame then s
  else
    let l := cam.lastNumber.getD 0
    checkFrozen f l (cam.lastSignature.getD 0)
      (checkTimecode f cam.base l (cam.lastCount.getD 0) (checkNumber f l s))

/-- The exposure check with clip fraction q (R91). -/
def checkExposure (f : FrameSlot) (q : Nat) (s : State) : State :=
  let cam := cameraAt s f.camera
  if cam.warning then
    if q < cam.exposureHigh - cam.hysteresis then setCamera f.camera { cam with warning := false } s else s
  else if cam.exposureHigh ≤ q then
    raiseFrame .exposureClip f q (setCamera f.camera { cam with warning := true } s)
  else s

/-! ### The pixel tracker (R92 to R94) -/

/-- Whether a tracker entry is of camera c at a position. -/
def entryAt (c : Nat) (p : Nat × Nat) (e : TrackerEntry) : Bool :=
  e.camera == c && e.x == p.1 && e.y == p.2

/-- One candidate of the first pass (R93): match, add, or find no room (the Bool). -/
def trackCandidate (c : Nat) (acc : List TrackerEntry × Bool) (p : Nat × Nat) : List TrackerEntry × Bool :=
  if acc.1.any (entryAt c p) then
    (acc.1.map (fun e => if entryAt c p e then { e with hits := satAdd 255 e.hits 1, misses := 0 } else e), acc.2)
  else if acc.1.length < 32 then
    (acc.1 ++ [{ camera := c, x := p.1, y := p.2, hits := 1, misses := 0, reported := false }], acc.2)
  else (acc.1, true)

/-- One entry of the second pass (R93): an unmatched entry of the camera misses, and is removed at 3 misses. -/
def missEntry (c : Nat) (candidates : List (Nat × Nat)) (e : TrackerEntry) : Option TrackerEntry :=
  if e.camera = c ∧ candidates.contains (e.x, e.y) = false then
    if e.misses + 1 < 3 then some { e with misses := e.misses + 1 } else none
  else some e

/-- The two passes of R93. -/
def trackCandidates (f : FrameSlot) (s : State) : State :=
  let first := f.candidates.foldl (trackCandidate f.camera) (s.ctu.tracker, false)
  let second := if f.candidatesOver then first.1 else first.1.filterMap (missEntry f.camera f.candidates)
  let t := s.withCtu { s.ctu with tracker := second }
  if first.2 then
    setCamera f.camera { cameraAt t f.camera with framesDropped := satAdd 65535 (cameraAt t f.camera).framesDropped 1 } t
  else t

/-- STUCK_PIXEL for one candidate whose entry has reached the camera's stuck persistence (R94). -/
def checkStuck (f : FrameSlot) (p : Nat × Nat) (s : State) : State :=
  match s.ctu.tracker.find? (entryAt f.camera p) with
  | none => s
  | some e =>
    if (cameraAt s f.camera).persistence ≤ e.hits ∧ e.reported = false then
      raiseFault true (frameFinding s .stuckPixel f (some p) e.hits)
        (s.withCtu { s.ctu with tracker := s.ctu.tracker.map (fun x =>
          if entryAt f.camera p x then { x with reported := true } else x) })
    else s

/-- The tracker steps of a frame (R87, step 4). -/
def trackerSteps (f : FrameSlot) (s : State) : State :=
  f.candidates.foldl (fun t p => checkStuck f p t) (trackCandidates f s)

/-! ### Stereo pairing (R96 to R98) -/

/-- The set pair a camera belongs to (R96). -/
def pairOfCamera (s : State) (c : Nat) : Option Nat :=
  s.ctu.pairs.findIdx? (fun p => p.isSet && (p.left == c || p.right == c))

/-- The modular difference (t - t_held) mod L (R97). -/
def modularDifference (l t held : Nat) : Nat :=
  (t + l - held % l) % l

/-- A held frame is earlier than the incoming one (R97). -/
def isEarlier (l t : Nat) (h : HeldRecord) : Bool :=
  decide (1 ≤ modularDifference l t h.count ∧ modularDifference l t h.count ≤ l / 2)

/-- The camera of a held record's eye in its pair (R98). -/
def eyeCamera (p : StereoPair) (right : Bool) : Nat :=
  if right then p.right else p.left

/-- STEREO_UNPAIRED for a held record of pair number k (R98). -/
def raiseUnpaired (k : Nat) (p : StereoPair) (h : HeldRecord) (s : State) : State :=
  raiseFault true
    { kind := .stereoUnpaired, camera := some (eyeCamera p h.right), clip := heldClip s h.clip h.label,
      frame := some (h.frame, h.timecode), position := none, detail := k } s

/-- The held record of an incoming frame (R96). -/
def heldRecord (f : FrameSlot) (right : Bool) (t mean : Nat) : HeldRecord :=
  { right := right, frame := f.frame, timecode := f.timecode, count := t, mean := mean, clip := f.clip, label := f.label }

/-- Replace the pairing queue of pair k. -/
def setQueue (k : Nat) (q : List HeldRecord) (s : State) : State :=
  setPair k { pairAt s k with queue := q } s

/-- R97: the frame cannot be paired now; it is held, after the oldest record is dropped from a full queue. -/
def holdFrame (k : Nat) (p : StereoPair) (h : HeldRecord) (s : State) : State :=
  match p.queue with
  | oldest :: rest =>
    if 8 ≤ p.queue.length then
      let t := raiseUnpaired k p oldest (setQueue k rest s)
      setQueue k (rest ++ [h]) t
    else setQueue k (p.queue ++ [h]) s
  | [] => setQueue k [h] s

/-- STEREO_EXPOSURE when two paired means differ beyond the tolerance (R98, step 2). -/
def checkExposurePair (f : FrameSlot) (p : StereoPair) (h : HeldRecord) (mean : Nat) (s : State) : State :=
  let left := if h.right then mean else h.mean
  let right := if h.right then h.mean else mean
  if p.tolerance < (max left right - min left right) then
    raiseFrame .stereoExposure f (65536 * left + right) s
  else s

/-- R98: the queue holds the other eye. -/
def pairFrame (k : Nat) (p : StereoPair) (f : FrameSlot) (h : HeldRecord) (l : Nat) (s : State) : State :=
  let earlier := p.queue.takeWhile (isEarlier l h.count)
  let rest := p.queue.dropWhile (isEarlier l h.count)
  let t := earlier.foldl (fun x r => raiseUnpaired k p r x) (setQueue k rest s)
  match rest with
  | [] => setQueue k [h] t
  | front :: others =>
    if modularDifference l h.count front.count = 0 then
      checkExposurePair f p front h.mean (setQueue k others t)
    else raiseUnpaired k p h t

/-- The stereo pairing of a frame (R87, step 5): skipped for a first frame, and for a camera in no pair. -/
def stereoStep (f : FrameSlot) (cam : Camera) (mean : Nat) (s : State) : State :=
  if cam.firstFrame then s
  else
    match pairOfCamera s f.camera with
    | none => s
    | some k =>
      let p := pairAt s k
      let right := p.left != f.camera
      let h := heldRecord f right (timecodeCount cam.base f.timecode) mean
      match p.queue with
      | [] => holdFrame k p h s
      | front :: _ =>
        if front.right = right then holdFrame k p h s else pairFrame k p f h (dayLength cam.base) s

/-- Step 6 of R87: the last fields, first-frame and frames seen. -/
def rememberFrame (f : FrameSlot) (base : Nat) (s : State) : State :=
  let cam := cameraAt s f.camera
  setCamera f.camera
    { cam with
      lastNumber := some f.frame
      lastCount := some (timecodeCount base f.timecode)
      lastSignature := some f.signature
      firstFrame := false
      framesSeen := satAdd 4294967295 cam.framesSeen 1 } s

/-- A completed frame with clip fraction q and mean luma is handed to CTU (R87). -/
def trackFrame (f : FrameSlot) (q mean : Nat) (s : State) : State :=
  let cam := cameraAt s f.camera
  rememberFrame f cam.base
    (stereoStep f cam mean (trackerSteps f (checkExposure f q (checkHistory f cam (checkInvalid f cam.base s)))))

/-! ### CAMERA_SET (R85) -/

/-- The allowed timecode bases (R85). -/
def timecodeBases : List Nat :=
  [24, 25, 30, 48, 50, 60, 100, 120]

/-- A camera with its running fields cleared (R84, R85, R100). -/
def clearRunning (cam : Camera) : Camera :=
  { cam with firstFrame := true, lastNumber := none, lastCount := none, lastSignature := none, warning := false,
             framesSeen := 0, framesDropped := 0 }

/-- The pair test of R85: the other camera of the camera's pair is configured with the same base. -/
def pairBaseAgrees (s : State) (camera base : Nat) : Bool :=
  match pairOfCamera s camera with
  | none => true
  | some k =>
    let p := pairAt s k
    let other := cameraAt s (if p.left = camera then p.right else p.left)
    other.configured && other.base == base

/-- CAMERA_SET (R85). -/
def cameraSetAct (camera clipLevel hotLevel base exposureHigh hysteresis persistence : Nat) (frameReports : Bool)
    (s : State) : State × Answer :=
  if ¬(camera ≤ 15 ∧ timecodeBases.contains base = true) then refuse .badArgument s
  else if pairBaseAgrees s camera base = false then refuse .badArgument s
  else
    let e := clamp 1 1023 exposureHigh
    let h := clamp 0 e hysteresis
    let p := clamp 2 15 persistence
    (setCamera camera
      (clearRunning { cameraAt s camera with
        configured := true, clipLevel := clipLevel, hotLevel := hotLevel, base := base, exposureHigh := e,
        hysteresis := h, persistence := p, frameReports := frameReports }) s,
      carriedOut [(5, e != exposureHigh), (6, h != hysteresis), (7, p != persistence)] (cameraAt s camera).framesSeen)

/-- A CAMERA_SET record taken (R85). -/
def takeCameraSet (camera : BitVec 8) (clipLevel hotLevel : BitVec 16) (base : BitVec 8)
    (exposureHigh hysteresis : BitVec 16) (persistence frameReports : BitVec 8) (s : State) : State :=
  completeCommand 0x30 (cameraSetAct camera.toNat clipLevel.toNat hotLevel.toNat base.toNat exposureHigh.toNat
    hysteresis.toNat persistence.toNat (flagOf frameReports.toNat)) s

/-- CAMERA_SET (R85). -/
def execCameraSet (camera : BitVec 8) (clipLevel hotLevel : BitVec 16) (base : BitVec 8)
    (exposureHigh hysteresis : BitVec 16) (persistence frameReports : BitVec 8) (s : State) :
    Host.Outcome State Fault Refusal :=
  .next (takeCameraSet camera clipLevel hotLevel base exposureHigh hysteresis persistence frameReports s)

/-! ### PAIR_SET (R96) -/

/-- Whether a camera belongs to a set pair other than pair k. -/
def inOtherPair (s : State) (k camera : Nat) : Bool :=
  (List.range s.ctu.pairs.length).any (fun j =>
    j != k && (pairAt s j).isSet && ((pairAt s j).left == camera || (pairAt s j).right == camera))

/-- PAIR_SET (R96). -/
def pairSetAct (pair left right tolerance : Nat) (s : State) : State × Answer :=
  if ¬(pair ≤ 7 ∧ ((left ≤ 15 ∧ right ≤ 15) ∨ (left = 16 ∧ right = 16))) then refuse .badArgument s
  else if left = 16 then
    (setPair pair { pairAt s pair with isSet := false, left := 16, right := 16, queue := [] } s,
      .done (pairAt s pair).queue.length)
  else if left = right ∨ inOtherPair s pair left = true ∨ inOtherPair s pair right = true then refuse .badArgument s
  else if ¬((cameraAt s left).configured = true ∧ (cameraAt s right).configured = true) then refuse .notConfigured s
  else if (cameraAt s left).base ≠ (cameraAt s right).base then refuse .badArgument s
  else
    (setPair pair { isSet := true, left := left, right := right, tolerance := clamp 0 65535 tolerance, queue := [] } s,
      carriedOut [(4, clamp 0 65535 tolerance != tolerance)] (pairAt s pair).queue.length)

/-- A PAIR_SET record taken (R96). -/
def takePairSet (pair left right : BitVec 8) (tolerance : BitVec 32) (s : State) : State :=
  completeCommand 0x31 (pairSetAct pair.toNat left.toNat right.toNat tolerance.toNat) s

/-- PAIR_SET (R96). -/
def execPairSet (pair left right : BitVec 8) (tolerance : BitVec 32) (s : State) : Host.Outcome State Fault Refusal :=
  .next (takePairSet pair left right tolerance s)

/-! ### ZONES_SET (R86) -/

/-- The zone of a luma: the highest-numbered zone whose lower bound is at most it (R86). -/
def zoneOf (zones : List Zone) (y : Nat) : Nat :=
  (((List.range zones.length).filter (fun i => (zones[i]?).any (fun z => decide (z.bound ≤ y)))).getLast?).getD 0

/-- The six zones of a ZONES_SET payload. -/
def zonesOf (bounds : Six (BitVec 16)) (colours : Six (Rgb (BitVec 16))) : List Zone :=
  let zone := fun (b : BitVec 16) (c : Rgb (BitVec 16)) =>
    ({ bound := b.toNat, colour := { r := c.r.toNat, g := c.g.toNat, b := c.b.toNat } } : Zone)
  [zone bounds.z0 colours.z0, zone bounds.z1 colours.z1, zone bounds.z2 colours.z2, zone bounds.z3 colours.z3,
   zone bounds.z4 colours.z4, zone bounds.z5 colours.z5]

/-- Whether the bounds of a list of zones rise strictly. -/
def boundsRise : List Zone → Bool
  | a :: b :: rest => decide (a.bound < b.bound) && boundsRise (b :: rest)
  | _ => true

/-- The test of ZONES_SET: zone 0's bound is 0, the bounds rise strictly, no component exceeds 1023 (R86). -/
def zonesValid (zones : List Zone) : Bool :=
  (zones.head?.any (fun z => z.bound == 0)) && boundsRise zones &&
    zones.all (fun z => decide (z.colour.r ≤ 1023 ∧ z.colour.g ≤ 1023 ∧ z.colour.b ≤ 1023))

/-- ZONES_SET (R86). -/
def zonesSetAct (zones : List Zone) (s : State) : State × Answer :=
  if zonesValid zones then (s.withCtu { s.ctu with zones := zones }, .done 0) else refuse .badArgument s

/-- A ZONES_SET record taken (R86). -/
def takeZonesSet (bounds : Six (BitVec 16)) (colours : Six (Rgb (BitVec 16))) (s : State) : State :=
  completeCommand 0x32 (zonesSetAct (zonesOf bounds colours)) s

/-- ZONES_SET (R86). -/
def execZonesSet (bounds : Six (BitVec 16)) (colours : Six (Rgb (BitVec 16))) (s : State) :
    Host.Outcome State Fault Refusal :=
  .next (takeZonesSet bounds colours s)

/-! ### TRACKER_CLEAR (R95) -/

/-- TRACKER_CLEAR (R95). -/
def trackerClearAct (s : State) : State × Answer :=
  (s.withCtu { s.ctu with tracker := [] }, .done s.ctu.tracker.length)

/-- A TRACKER_CLEAR record taken (R95). -/
def takeTrackerClear (s : State) : State :=
  completeCommand 0x33 trackerClearAct s

/-- TRACKER_CLEAR (R95). -/
def execTrackerClear (s : State) : Host.Outcome State Fault Refusal :=
  .next (takeTrackerClear s)

end Sys2Proof.Machine
end

