-- ==== Sys2Proof/Machine/Pixels.lean ====
section
/-! DEFINITION. The pixel pipeline (R120 to R126) and the forming of a view read's pixels (R137, R139, Section 12.4). -/

namespace Sys2Proof.Machine

/-! ### The four stages (R120 to R123) -/

/-- Stage 1, lift and gain, of one channel (R120). -/
def stageLiftGain (x : Nat) (lift : Int) (gain : Nat) : Nat :=
  (clampInt 0 65535 ((((x : Int) + lift) * (gain : Int) + 8192) / 16384)).toNat

/-- Stage 2, the curve, of one channel (R121). -/
def stageCurve (points : List Nat) (v1 : Nat) : Nat :=
  let i := v1 / 2048
  let f := v1 % 2048
  let p : Int := points.getD i 0
  let q : Int := points.getD (i + 1) 0
  (p + ((q - p) * (f : Int) + 1024) / 2048).toNat

/-- One row of stage 3, the matrix (R122). -/
def stageMatrixRow (row : Rgb Int) (v : Rgb Nat) : Nat :=
  (clampInt 0 65535 ((row.r * (v.r : Int) + row.g * (v.g : Int) + row.b * (v.b : Int) + 2048) / 4096)).toNat

/-- Stage 4, output, of one channel (R123). -/
def stageOutput (v3 : Nat) : Nat :=
  (v3 * 1023 + 32767) / 65535

/-- Stage 1 on the three channels. -/
def liftGain (l : Look) (x : Rgb Nat) : Rgb Nat :=
  { r := stageLiftGain x.r l.lift.r l.gain.r, g := stageLiftGain x.g l.lift.g l.gain.g,
    b := stageLiftGain x.b l.lift.b l.gain.b }

/-- Stage 2 on the three channels, skipped under curve bypass. -/
def curves (l : Look) (v : Rgb Nat) : Rgb Nat :=
  if l.curveBypass then v
  else { r := stageCurve l.curve.r v.r, g := stageCurve l.curve.g v.g, b := stageCurve l.curve.b v.b }

/-- Stage 3 on the three channels, skipped under matrix bypass. -/
def matrixMix (l : Look) (v : Rgb Nat) : Rgb Nat :=
  if l.matrixBypass then v
  else { r := stageMatrixRow l.matrix.r v, g := stageMatrixRow l.matrix.g v, b := stageMatrixRow l.matrix.b v }

/-- Stage 4 on the three channels: also the ungraded path when applied to the raw input (R123, R125). -/
def outputs (v : Rgb Nat) : Rgb Nat :=
  { r := stageOutput v.r, g := stageOutput v.g, b := stageOutput v.b }

/-- The graded output of a pixel through a look. -/
def graded (l : Look) (x : Rgb Nat) : Rgb Nat :=
  outputs (matrixMix l (curves l (liftGain l x)))

/-- The blend of one component at look mix m (R124). -/
def blendComponent (a b m : Nat) : Nat :=
  (a * (256 - m) + b * m + 128) / 256

/-- The blend of the graded outputs through A and B at look mix m (R124). -/
def blend (a b : Rgb Nat) (m : Nat) : Rgb Nat :=
  { r := blendComponent a.r b.r m, g := blendComponent a.g b.g m, b := blendComponent a.b b.b m }

/-- The luma of a pixel (R76, R125). -/
def luma (x : Rgb Nat) : Nat :=
  (2 * x.r + 5 * x.g + x.b) / 8

/-- The zone path: the colour of the zone the luma lies in (R125). -/
def zoneColour (zones : List Zone) (x : Rgb Nat) : Rgb Nat :=
  ((zones[zoneOf zones (luma x)]?).map (fun z => z.colour)).getD { r := 0, g := 0, b := 0 }

/-- Black (R139). -/
def black : Rgb Nat :=
  { r := 0, g := 0, b := 0 }

/-- The no-frame fill (R139). -/
def noFrameFill : Rgb Nat :=
  { r := 512, g := 512, b := 512 }

/-! ### Where a view pixel comes from (R137) -/

/-- The source row of a read (R137). -/
def sourceRow (r : ServedRead) : Nat :=
  r.settings.y0 + r.settings.decimation * (if r.settings.vFlip then r.height - 1 - r.row else r.row)

/-- The source column of output column j (R137). -/
def sourceColumn (r : ServedRead) (j : Nat) : Nat :=
  r.settings.x0 + r.settings.decimation * (if r.settings.hFlip then r.width - 1 - j else j)

/-- The output columns of a read that lie within the view's width (R137). -/
def viewColumns (r : ServedRead) : List Nat :=
  ((List.range (8 * r.beats)).map (fun i => r.column + i)).filter (fun j => decide (j < r.width))

/-- The source columns of a read that are inside the pinned frame; none when its row is outside (R137). -/
def insideColumns (r : ServedRead) (p : Pin) : List Nat :=
  if sourceRow r < p.height then
    ((viewColumns r).map (sourceColumn r)).filter (fun x => decide (x < p.width))
  else []

/-- The source beats a read needs, the first and the last, of the pinned frame's row (R138). -/
def sourceBeats (r : ServedRead) (p : Pin) : Option (Nat × Nat) :=
  match leastOf (insideColumns r p), greatestOf (insideColumns r p) with
  | some lo, some hi => some (lo / 4, hi / 4)
  | _, _ => none

/-! ### Pixels in returned beats (Section 12.4) -/

/-- The R, G, B codes of pixel place i of a raster beat. -/
def rasterPixel (d : BeatData) (i : Nat) : Rgb Nat :=
  { r := beatField d (8 * i) 16, g := beatField d (8 * i + 2) 16, b := beatField d (8 * i + 4) 16 }

/-- The beats returned to a read's source reads, in rising address order. -/
def sourceData (r : ServedRead) : List ReadBeat :=
  (r.reads.filter (fun o => !o.overlay)).flatMap (fun o => o.data)

/-- The beats returned to a read's overlay read. -/
def overlayData (r : ServedRead) : List ReadBeat :=
  (r.reads.filter (fun o => o.overlay)).flatMap (fun o => o.data)

/-- The source pixel at column x, from the returned beats. -/
def sourcePixel (r : ServedRead) (first x : Nat) : Rgb Nat :=
  rasterPixel (((sourceData r)[x / 4 - first]?).map (fun b => b.data) |>.getD 0) (x % 4)

/-- The 32-bit overlay pixel for output column j. -/
def overlayWord (r : ServedRead) (j : Nat) : Nat :=
  beatField (((overlayData r)[(j - r.column) / 8]?).map (fun b => b.data) |>.getD 0) (4 * ((j - r.column) % 8)) 32

/-- The three components of a view or overlay pixel. -/
def unpackPixel (w : Nat) : Rgb Nat :=
  { r := w / 1048576 % 1024, g := w / 1024 % 1024, b := w % 1024 }

/-- A view pixel: R in bits 29-20, G in 19-10, B in 9-0 (Section 12.4). -/
def packPixel (p : Rgb Nat) : Nat :=
  1048576 * (p.r % 1024) + 1024 * (p.g % 1024) + p.b % 1024

/-! ### Forming a pixel (R139) -/

/-- The kept strip a row lies in, if any. -/
def inStrip (c : FrameCopies) (row : Nat) : Bool :=
  c.strips.any (fun t => decide (t.start ≤ row ∧ row < t.start + t.count))

/-- Step 3's grading of a source pixel of the read's row. -/
def gradePixel (r : ServedRead) (c : FrameCopies) (x : Rgb Nat) : Rgb Nat :=
  if r.settings.zones then zoneColour c.zones x
  else
    match c.bands.find? (fun b => decide (b.first ≤ r.row ∧ r.row ≤ b.last)) with
    | some b =>
      match b.look with
      | some l => graded l x
      | none => outputs x
    | none =>
      if r.settings.outsideBlack then black
      else
        match c.lookB with
        | some lb => blend (graded c.lookA x) (graded lb x) r.mix.m
        | none => graded c.lookA x

/-- Step 4: clip marking (R139). -/
def markClipped (r : ServedRead) (c : FrameCopies) (x out : Rgb Nat) : Rgb Nat :=
  if r.settings.clipMark = true ∧ (c.clipLevel ≤ x.r ∨ c.clipLevel ≤ x.g ∨ c.clipLevel ≤ x.b) then
    r.settings.markColour
  else out

/-- Steps 2 to 4 for output column j: the no-frame fill, black outside the frame, or the picture (R139). -/
def picturePixel (r : ServedRead) (c : FrameCopies) (j : Nat) : Rgb Nat :=
  match r.pin with
  | none => noFrameFill
  | some p =>
    if r.pinLost then noFrameFill
    else
      match sourceBeats r p with
      | none => black
      | some span =>
        if sourceColumn r j < p.width then
          let x := sourcePixel r span.1 (sourceColumn r j)
          markClipped r c x (gradePixel r c x)
        else black

/-- Step 5: an opaque overlay pixel replaces the pixel in a row of a kept strip (R139). -/
def overlayPixel (r : ServedRead) (c : FrameCopies) (j : Nat) (p : Rgb Nat) : Rgb Nat :=
  if inStrip c r.row = true ∧ overlayWord r j / 2147483648 % 2 = 1 then unpackPixel (overlayWord r j) else p

/-- Whether any of a read's own reads was answered ERROR (R140). -/
def fetchFailed (r : ServedRead) : Bool :=
  r.reads.any (fun o => o.data.any (fun b => !respOk b.resp))

/-- The output pixel of column j: padding 0, black with the view off, the fill after a fetch fault, else R139's steps. -/
def outputPixel (r : ServedRead) (j : Nat) : Rgb Nat :=
  if r.width ≤ j then black
  else if r.settings.on = false then black
  else if fetchFailed r then noFrameFill
  else
    match r.copies with
    | none => noFrameFill
    | some c => overlayPixel r c j (picturePixel r c j)

/-- Beat i of a read's answer: eight view pixels, the first in the lowest bytes, answered OK (R137, R138). -/
def answerBeat (r : ServedRead) (i : Nat) : ReadBeat :=
  { data := BitVec.ofNat 256
      ((List.range 8).foldl (fun acc k => acc + packPixel (outputPixel r (r.column + 8 * i + k)) * 2 ^ (32 * k)) 0)
    resp := .okay }

/-- The answer of a view read (R138, R139). -/
def answerRead (r : ServedRead) : List ReadBeat :=
  (List.range r.beats).map (answerBeat r)

end Sys2Proof.Machine
end

