-- ==== Sys2Proof/Machine/Shuttle.lean ====
section
/-! DEFINITION. The Shuttle Unit (Chapter 10): locate and jog (R147, R148), a move's start (R149), its boundary (R150 to
R154), stop and hold (R155, R156), and the six SHUTTLE commands. -/

namespace Sys2Proof.Machine

/-- The highest whole-frame position, 2^40 - 256 (R148, R149). -/
abbrev positionTop : Nat := 1099511627520

/-! ### Locate and jog (R147, R148) -/

/-- Apply a pending locate (R147). -/
def applyLocate (m : Motion) : Motion :=
  match m.pendingLocate with
  | none => m
  | some f =>
    { m with position := f * 256, phase := .idle, start := none, target := none, heldPhase := none,
             continuous := false, looping := false, stageCounter := 0, dwellCounter := 0, pendingLocate := none }

/-- A position moved by whole frames and clamped to the range (R148, step 1). -/
def joggedPosition (position : Nat) (jog : Int) : Nat :=
  (clampInt 0 (positionTop : Int) ((position : Int) + 256 * jog)).toNat

/-- A jogged position kept from passing the target of a move that keeps one (R148, step 2). -/
def jogClamp (m : Motion) (p : Nat) : Nat :=
  if m.phase = .idle ∨ m.phase = .arrived then p
  else
    match m.target with
    | none => p
    | some t =>
      match m.direction with
      | .forward => min p t
      | .reverse => max p t

/-- Apply a pending jog (R148). -/
def applyJog (m : Motion) : Motion :=
  if m.pendingJog = 0 then m
  else
    let p := jogClamp m (joggedPosition m.position m.pendingJog)
    if m.phase = .arrived then
      { m with position := p, pendingJog := 0, phase := .idle, start := none, target := none }
    else { m with position := p, pendingJog := 0 }

/-- Whether SH accepts a detent (R148). -/
def acceptsDetent (m : Motion) : Bool :=
  m.pendingLocate.isSome || m.phase == .idle || m.phase == .arrived || m.phase == .held

/-- A detent into the pending jog, which stops at either end of its range (R145, R148). -/
def jogDetentMotion (d : Direction) (m : Motion) : Motion :=
  if acceptsDetent m then
    { m with pendingJog := clampInt (-65535) 65535 (m.pendingJog + (match d with | .forward => 1 | .reverse => -1)) }
  else m

/-- A locate set: the pending locate becomes the frame and the pending jog 0 (R147). -/
def locateMotion (frame : Nat) (m : Motion) : Motion :=
  { m with pendingLocate := some frame, pendingJog := 0 }

/-! ### Starting a move (R149) -/

/-- The target of a move from a start (R149). -/
def goTarget (start distance : Nat) (d : Direction) : Nat :=
  match d with
  | .forward => if distance = 0 then positionTop else min positionTop (start + distance * 256)
  | .reverse => if distance = 0 then 0 else start - distance * 256

/-- A move starts, after any pending locate and jog (R149). -/
def goMotion (distance : Nat) (d : Direction) (m : Motion) : Motion :=
  let x := applyJog (applyLocate m)
  let start := x.position / 256 * 256
  { x with
    start := some start
    target := some (goTarget start distance d)
    continuous := distance == 0
    looping := distance != 0
    direction := d
    heldPhase := none
    stageCounter := 0
    phase := if x.profile.preDwell = 0 then .accel1 else .preroll
    dwellCounter := if x.profile.preDwell = 0 then x.dwellCounter else x.profile.preDwell }

/-! ### The boundary (R150 to R154) -/

/-- The stop-on-fault search's effect when a fault at frame f lies ahead (R151). -/
def pullTarget (f : Nat) (m : Motion) : Motion :=
  { m with target := some (f * 256), continuous := false, looping := false,
           phase := if m.phase = .continuous then .cruise else m.phase }

/-- The stop-on-fault search (R151) for a view whose source camera is c. -/
def searchStep (s : State) (c : Nat) (m : Motion) : Motion :=
  if m.profile.stopOnFault then
    match faultAhead s c (m.position / 256) (m.target.getD m.position / 256) m.direction with
    | some f => pullTarget f m
    | none => m
  else m

/-- The remaining distance R (R152). -/
def remaining (m : Motion) : Nat :=
  let t := m.target.getD m.position
  max t m.position - min t m.position

/-- The deceleration distance of a phase with a deceleration check, n x (S1 + ... + S(k-1)), and the phase below (R152). -/
def decelTable (m : Motion) : Option (Nat × Phase) :=
  match m.phase with
  | .accel2 => some (m.profile.n * m.profile.s1, .decel1)
  | .accel3 => some (m.profile.n * (m.profile.s1 + m.profile.s2), .decel2)
  | .cruise => some (m.profile.n * (m.profile.s1 + m.profile.s2 + m.profile.s3), .decel3)
  | _ => none

/-- The deceleration check (R152). -/
def decelStep (m : Motion) : Motion :=
  if m.continuous then m
  else
    match decelTable m with
    | none => m
    | some x => if remaining m ≤ x.1 then { m with phase := x.2, stageCounter := 0 } else m

/-- The speed of a phase (R152). -/
def phaseSpeed (p : Profile) : Phase → Nat
  | .accel1 => p.s1
  | .accel2 => p.s2
  | .accel3 => p.s3
  | .cruise => p.s4
  | .continuous => p.s4
  | .decel3 => p.s3
  | .decel2 => p.s2
  | .decel1 => p.s1
  | .landing => p.s0
  | .idle => 0
  | .preroll => 0
  | .arrived => 0
  | .postroll => 0
  | .held => 0

/-- The advance by min(speed, R) (R153). -/
def advanceStep (m : Motion) : Motion :=
  let d := min (phaseSpeed m.profile m.phase) (remaining m)
  match m.direction with
  | .forward => { m with position := m.position + d }
  | .reverse => { m with position := m.position - d }

/-- The phase after a stage has ended (R153). -/
def nextStage (m : Motion) : Phase :=
  match m.phase with
  | .accel1 => .accel2
  | .accel2 => .accel3
  | .accel3 => if m.continuous then .continuous else .cruise
  | .decel3 => .decel2
  | .decel2 => .decel1
  | .decel1 => .landing
  | p => p

/-- Whether stages are counted in a phase: the ACCEL and DECEL phases (R153). -/
def isStage : Phase → Bool
  | .accel1 | .accel2 | .accel3 | .decel3 | .decel2 | .decel1 => true
  | _ => false

/-- The stage count (R153). -/
def stageStep (m : Motion) : Motion :=
  if isStage m.phase then
    if m.profile.n ≤ m.stageCounter + 1 then { m with phase := nextStage m, stageCounter := 0 }
    else { m with stageCounter := m.stageCounter + 1 }
  else m

/-- Whether the move has arrived: the position equals the target (R154). -/
def hasArrived (m : Motion) : Bool :=
  m.target == some m.position

/-- The arrival: POSTROLL when the move loops, ARRIVED otherwise (R154). -/
def arriveMotion (m : Motion) : Motion :=
  if m.looping = true ∧ m.profile.postDwell < 63 then
    { m with phase := .postroll, dwellCounter := m.profile.postDwell }
  else { m with phase := .arrived }

/-- The loop back to start (R154). -/
def loopMotion (m : Motion) : Motion :=
  { m with
    position := m.start.getD m.position
    stageCounter := 0
    phase := if m.profile.preDwell = 0 then .accel1 else .preroll
    dwellCounter := if m.profile.preDwell = 0 then m.dwellCounter else m.profile.preDwell }

/-- A PREROLL boundary (R150). -/
def prerollMotion (m : Motion) : Motion :=
  if m.dwellCounter ≤ 1 then { m with dwellCounter := 0, phase := .accel1, stageCounter := 0 }
  else { m with dwellCounter := m.dwellCounter - 1 }

/-- A POSTROLL boundary (R150). -/
def postrollMotion (m : Motion) : Motion :=
  if 0 < m.dwellCounter then { m with dwellCounter := m.dwellCounter - 1 } else loopMotion m

/-- The first four motion steps of a moving phase (R151 to R153). -/
def moveMotion (s : State) (c : Nat) (m : Motion) : Motion :=
  stageStep (advanceStep (decelStep (searchStep s c m)))

/-- Whether a phase is a moving phase (Table 10-2). -/
def isMoving : Phase → Bool
  | .accel1 | .accel2 | .accel3 | .cruise | .continuous | .decel3 | .decel2 | .decel1 | .landing => true
  | .idle | .preroll | .arrived | .postroll | .held => false

/-- Step 3 of R150, by the phase: the context after it, and the arrived frame when the move arrived. -/
def phaseStep (s : State) (c : Nat) (m : Motion) : Motion × Option Nat :=
  if isMoving m.phase then
    let x := moveMotion s c m
    if hasArrived x then (arriveMotion x, some (x.position / 256)) else (x, none)
  else
    match m.phase with
    | .preroll => (prerollMotion m, none)
    | .postroll => (postrollMotion m, none)
    | _ => (m, none)

/-- Step 4 of R150. -/
def showFrame (m : Motion) : Motion :=
  { m with displayed := m.position / 256 }

/-- A boundary at a motion context whose view's current source camera is c (R150): the context after it, and the
arrived frame when the move arrived. -/
def boundaryMotion (s : State) (c : Nat) (m : Motion) : Motion × Option Nat :=
  let x := phaseStep s c (applyJog (applyLocate m))
  (showFrame x.1, x.2)

/-! ### Stopping and holding (R155, R156) -/

/-- A position rounded up to a multiple of 256. -/
def roundUp256 (n : Nat) : Nat :=
  (n + 255) / 256 * 256

/-- Where a stop would land (R155): the stopping distance D from the position, rounded to a whole frame. -/
def stopPoint (m : Motion) (d : Nat) : Nat :=
  match m.direction with
  | .forward => roundUp256 (m.position + d)
  | .reverse => (m.position - d) / 256 * 256

/-- The distance between two positions. -/
def gapBetween (a b : Nat) : Nat :=
  max a b - min a b

/-- Whichever of a stop point and the present target is nearer the position (R155). -/
def nearerTarget (m : Motion) (t : Nat) : Nat :=
  match m.target with
  | none => t
  | some u => if gapBetween t m.position ≤ gapBetween u m.position then t else u

/-- The stopping distance of the phases that must still slow down; absent for the others (R155). -/
def stopDistance (m : Motion) : Option Nat :=
  match m.phase with
  | .accel1 => some 0
  | .accel2 => some (m.profile.n * m.profile.s1)
  | .accel3 => some (m.profile.n * (m.profile.s1 + m.profile.s2))
  | .cruise => some (m.profile.n * (m.profile.s1 + m.profile.s2 + m.profile.s3))
  | .continuous => some (m.profile.n * (m.profile.s1 + m.profile.s2 + m.profile.s3))
  | _ => none

/-- A stop by the phase: the context after it and the detail (R155). -/
def stopMotion (m : Motion) : Motion × Nat :=
  match stopDistance m with
  | some d =>
    let t := nearerTarget m (stopPoint m d)
    ({ m with target := some t, continuous := false, looping := false,
              phase := if m.phase = .continuous then .cruise else m.phase }, t / 256)
  | none =>
    if m.phase = .preroll ∨ m.phase = .postroll ∨ m.phase = .held then
      ({ m with phase := .idle, start := none, target := none, heldPhase := none, continuous := false,
                looping := false }, 1)
    else if m.phase = .idle ∨ m.phase = .arrived then (m, 0)
    else ({ m with looping := false }, m.target.getD m.position / 256)

/-- A hold (R156). -/
def holdMotion (m : Motion) : Motion × Nat :=
  if m.phase = .held then (m, 0) else ({ m with heldPhase := some m.phase, phase := .held }, 1)

/-- A release (R156). -/
def releaseMotion (m : Motion) : Motion × Nat :=
  if m.phase = .held then ({ m with phase := m.heldPhase.getD .idle, heldPhase := none }, 1) else (m, 0)

/-! ### Commands -/

/-- SHUTTLE_PROFILE's fields clamped (R146). -/
def clampProfile (p : Profile) : Profile :=
  { p with s0 := clamp 1 4096 p.s0, s1 := clamp 1 4096 p.s1, s2 := clamp 1 4096 p.s2, s3 := clamp 1 4096 p.s3,
           s4 := clamp 1 4096 p.s4, n := clamp 1 1023 p.n, preDwell := clamp 0 63 p.preDwell,
           postDwell := clamp 0 63 p.postDwell }

/-- SHUTTLE_PROFILE (R146). -/
def shuttleProfileAct (v : Nat) (p : Profile) (s : State) : State × Answer :=
  if 1 < v then refuse .badArgument s
  else
    let q := clampProfile p
    (setMotion v { motionAt s v with profile := q } s,
      carriedOut [(2, q.s0 != p.s0), (3, q.s1 != p.s1), (4, q.s2 != p.s2), (5, q.s3 != p.s3), (6, q.s4 != p.s4),
        (7, q.n != p.n), (8, q.preDwell != p.preDwell), (9, q.postDwell != p.postDwell)] 0)

/-- A SHUTTLE_PROFILE record taken (R146). -/
def takeShuttleProfile (view : BitVec 8) (s0 s1 s2 s3 s4 n : BitVec 16) (preDwell postDwell stopOnFault : BitVec 8)
    (s : State) : State :=
  completeCommand 0x70 (shuttleProfileAct view.toNat
    { s0 := s0.toNat, s1 := s1.toNat, s2 := s2.toNat, s3 := s3.toNat, s4 := s4.toNat, n := n.toNat,
      preDwell := preDwell.toNat, postDwell := postDwell.toNat, stopOnFault := flagOf stopOnFault.toNat }) s

/-- SHUTTLE_PROFILE (R146). -/
def execShuttleProfile (view : BitVec 8) (s0 s1 s2 s3 s4 n : BitVec 16) (preDwell postDwell stopOnFault : BitVec 8)
    (s : State) : Host.Outcome State Fault Refusal :=
  .next (takeShuttleProfile view s0 s1 s2 s3 s4 n preDwell postDwell stopOnFault s)

/-- SHUTTLE_GO (R149). -/
def shuttleGoAct (v distance : Nat) (direction : Option Direction) (s : State) : State × Answer :=
  if 1 < v ∨ 1048575 < distance then refuse .badArgument s
  else
    match direction with
    | none => refuse .badArgument s
    | some d =>
      let m := goMotion distance d (motionAt s v)
      (setMotion v m s, .done (m.target.getD 0 / 256))

/-- A SHUTTLE_GO record taken (R149). -/
def takeShuttleGo (view : BitVec 8) (distance : BitVec 32) (direction : BitVec 8) (s : State) : State :=
  completeCommand 0x71 (shuttleGoAct view.toNat distance.toNat (directionOf direction.toNat)) s

/-- SHUTTLE_GO (R149). -/
def execShuttleGo (view : BitVec 8) (distance : BitVec 32) (direction : BitVec 8) (s : State) :
    Host.Outcome State Fault Refusal :=
  .next (takeShuttleGo view distance direction s)

/-- A command that changes one motion context and answers a detail (R155, R156). -/
def motionAct (f : Motion → Motion × Nat) (v : Nat) (s : State) : State × Answer :=
  if 1 < v then refuse .badArgument s
  else (setMotion v (f (motionAt s v)).1 s, .done (f (motionAt s v)).2)

/-- A SHUTTLE_STOP record taken (R155). -/
def takeShuttleStop (view : BitVec 8) (s : State) : State :=
  completeCommand 0x72 (motionAct stopMotion view.toNat) s

/-- SHUTTLE_STOP (R155). -/
def execShuttleStop (view : BitVec 8) (s : State) : Host.Outcome State Fault Refusal :=
  .next (takeShuttleStop view s)

/-- A SHUTTLE_HOLD record taken (R156). -/
def takeShuttleHold (view : BitVec 8) (s : State) : State :=
  completeCommand 0x73 (motionAct holdMotion view.toNat) s

/-- SHUTTLE_HOLD (R156). -/
def execShuttleHold (view : BitVec 8) (s : State) : Host.Outcome State Fault Refusal :=
  .next (takeShuttleHold view s)

/-- A SHUTTLE_RELEASE record taken (R156). -/
def takeShuttleRelease (view : BitVec 8) (s : State) : State :=
  completeCommand 0x74 (motionAct releaseMotion view.toNat) s

/-- SHUTTLE_RELEASE (R156). -/
def execShuttleRelease (view : BitVec 8) (s : State) : Host.Outcome State Fault Refusal :=
  .next (takeShuttleRelease view s)

/-- A SHUTTLE_LOCATE record taken (R147). -/
def takeShuttleLocate (view : BitVec 8) (frame : BitVec 32) (s : State) : State :=
  completeCommand 0x75 (motionAct (fun m => (locateMotion frame.toNat m, frame.toNat)) view.toNat) s

/-- SHUTTLE_LOCATE (R147). -/
def execShuttleLocate (view : BitVec 8) (frame : BitVec 32) (s : State) : Host.Outcome State Fault Refusal :=
  .next (takeShuttleLocate view frame s)

end Sys2Proof.Machine
end

