-- ==== Sys2Proof/Machine/Views.lean ====
section
/-! DEFINITION. The View Engine (Chapter 9): the commands that place a window (R129) and write the pending settings (R130,
R131), the display frame boundary (R132 to R135), the serving of reads (R136 to R140) and the loss of a pin (R141). -/

namespace Sys2Proof.Machine

/-! ### Commands (R129 to R131) -/

/-- A view window's stride: width x 4 rounded up to a multiple of 32 (R129). -/
def viewStride (width : Nat) : Nat :=
  (width * 4 + 31) / 32 * 32

/-- The first row of VIEW_WINDOW_SET's tests (R129). -/
def viewWindowArguments (v base width height : Nat) : Bool :=
  decide (v ≤ 1 ∧ 16 ≤ width ∧ width ≤ 8192 ∧ 16 ≤ height ∧ height ≤ 4320 ∧ base % 32 = 0 ∧
    base + viewStride width * height ≤ addressTop)

/-- VIEW_WINDOW_SET (R129). -/
def viewWindowSetAct (v base width height : Nat) (s : State) : State × Answer :=
  if viewWindowArguments v base width height = false then refuse .badArgument s
  else if (viewAt s v).pending.on = true ∨ (viewAt s v).current.on = true then refuse .wrongState s
  else if overlapsAny { base := base, size := viewStride width * height }
      (controlPage s :: poolWindows s ++ viewWindows s (1 - v) ++ streamWindows s) then
    refuse .overlap s
  else
    (setView v { viewAt s v with
        window := some { base := base, width := width, height := height, stride := viewStride width }
        lastRow := none } s,
      .done (viewStride width))

/-- A VIEW_WINDOW_SET record taken (R129). -/
def takeViewWindowSet (view : BitVec 8) (base : BitVec 64) (width height : BitVec 16) (s : State) : State :=
  completeCommand 0x02 (viewWindowSetAct view.toNat base.toNat width.toNat height.toNat) s

/-- VIEW_WINDOW_SET (R129). -/
def execViewWindowSet (view : BitVec 8) (base : BitVec 64) (width height : BitVec 16) (s : State) :
    Host.Outcome State Fault Refusal :=
  .next (takeViewWindowSet view base width height s)

/-- Replace a view's pending settings. -/
def setPending (v : Nat) (x : Settings) (s : State) : State :=
  setView v { viewAt s v with pending := x } s

/-- The answer of a switch: detail 1 when it changed the pending copy, 0 otherwise (R130). -/
def switchAnswer (old new : Bool) : Answer :=
  .done (if old = new then 0 else 1)

/-- VIEW_ON (R130). -/
def viewOnAct (v : Nat) (s : State) : State × Answer :=
  if 1 < v then refuse .badArgument s
  else if (viewAt s v).window.isNone then refuse .notConfigured s
  else (setPending v { (viewAt s v).pending with on := true } s, switchAnswer (viewAt s v).pending.on true)

/-- VIEW_OFF (R130). -/
def viewOffAct (v : Nat) (s : State) : State × Answer :=
  if 1 < v then refuse .badArgument s
  else (setPending v { (viewAt s v).pending with on := false } s, switchAnswer (viewAt s v).pending.on false)

/-- ZONES_ON and ZONES_OFF (R130). -/
def zonesSwitchAct (x : Bool) (v : Nat) (s : State) : State × Answer :=
  if 1 < v then refuse .badArgument s
  else (setPending v { (viewAt s v).pending with zones := x } s, switchAnswer (viewAt s v).pending.zones x)

/-- A VIEW_ON record taken (R130). -/
def takeViewOn (view : BitVec 8) (s : State) : State :=
  completeCommand 0x60 (viewOnAct view.toNat) s

/-- VIEW_ON (R130). -/
def execViewOn (view : BitVec 8) (s : State) : Host.Outcome State Fault Refusal :=
  .next (takeViewOn view s)

/-- A VIEW_OFF record taken (R130). -/
def takeViewOff (view : BitVec 8) (s : State) : State :=
  completeCommand 0x61 (viewOffAct view.toNat) s

/-- VIEW_OFF (R130). -/
def execViewOff (view : BitVec 8) (s : State) : Host.Outcome State Fault Refusal :=
  .next (takeViewOff view s)

/-- A ZONES_ON record taken (R130). -/
def takeZonesOn (view : BitVec 8) (s : State) : State :=
  completeCommand 0x62 (zonesSwitchAct true view.toNat) s

/-- ZONES_ON (R130). -/
def execZonesOn (view : BitVec 8) (s : State) : Host.Outcome State Fault Refusal :=
  .next (takeZonesOn view s)

/-- A ZONES_OFF record taken (R130). -/
def takeZonesOff (view : BitVec 8) (s : State) : State :=
  completeCommand 0x63 (zonesSwitchAct false view.toNat) s

/-- ZONES_OFF (R130). -/
def execZonesOff (view : BitVec 8) (s : State) : Host.Outcome State Fault Refusal :=
  .next (takeZonesOff view s)

/-- VIEW_SOURCE (R130). -/
def viewSourceAct (v camera : Nat) (s : State) : State × Answer :=
  if 1 < v ∨ 15 < camera then refuse .badArgument s
  else if (cameraAt s camera).configured = false then refuse .notConfigured s
  else (setPending v { (viewAt s v).pending with camera := camera } s, .done 0)

/-- A VIEW_SOURCE record taken (R130). -/
def takeViewSource (view camera : BitVec 8) (s : State) : State :=
  completeCommand 0x69 (viewSourceAct view.toNat camera.toNat) s

/-- VIEW_SOURCE (R130). -/
def execViewSource (view camera : BitVec 8) (s : State) : Host.Outcome State Fault Refusal :=
  .next (takeViewSource view camera s)

/-- VIEW_GEOMETRY (R130). -/
def viewGeometryAct (v x0 y0 d : Nat) (hFlip vFlip : Bool) (s : State) : State × Answer :=
  if 1 < v ∨ 8191 < x0 ∨ 4319 < y0 ∨ ¬(d = 1 ∨ d = 2 ∨ d = 4) then refuse .badArgument s
  else
    (setPending v { (viewAt s v).pending with x0 := x0, y0 := y0, decimation := d, hFlip := hFlip, vFlip := vFlip } s,
      .done 0)

/-- A VIEW_GEOMETRY record taken (R130). -/
def takeViewGeometry (view : BitVec 8) (x0 y0 : BitVec 16) (decimation hFlip vFlip : BitVec 8) (s : State) : State :=
  completeCommand 0x64 (viewGeometryAct view.toNat x0.toNat y0.toNat decimation.toNat (flagOf hFlip.toNat)
    (flagOf vFlip.toNat)) s

/-- VIEW_GEOMETRY (R130). -/
def execViewGeometry (view : BitVec 8) (x0 y0 : BitVec 16) (decimation hFlip vFlip : BitVec 8) (s : State) :
    Host.Outcome State Fault Refusal :=
  .next (takeViewGeometry view x0 y0 decimation hFlip vFlip s)

/-- LOOK_SELECT (R131). -/
def lookSelectAct (v slot rate : Nat) (s : State) : State × Answer :=
  if 1 < v ∨ 7 < slot then refuse .badArgument s
  else
    (setPending v { (viewAt s v).pending with primary := slot, rate := clamp 0 256 rate } s,
      carriedOut [(3, clamp 0 256 rate != rate)] 0)

/-- A LOOK_SELECT record taken (R131). -/
def takeLookSelect (view slot : BitVec 8) (rate : BitVec 16) (s : State) : State :=
  completeCommand 0x68 (lookSelectAct view.toNat slot.toNat rate.toNat) s

/-- LOOK_SELECT (R131). -/
def execLookSelect (view slot : BitVec 8) (rate : BitVec 16) (s : State) : Host.Outcome State Fault Refusal :=
  .next (takeLookSelect view slot rate s)

/-- The bands of a BANDS_SET payload within its count; absent when a look of one of them is no code (R131). -/
def bandsOf (count start1 end1 look1 start2 end2 look2 : Nat) : Option (List Band) :=
  match count with
  | 0 => some []
  | 1 => (bandLookOf look1).map (fun l => [{ first := start1, last := end1, look := l }])
  | 2 =>
    match bandLookOf look1, bandLookOf look2 with
    | some l1, some l2 => some [{ first := start1, last := end1, look := l1 }, { first := start2, last := end2, look := l2 }]
    | _, _ => none
  | _ => none

/-- BANDS_SET (R131). -/
def bandsSetAct (v : Nat) (bands : Option (List Band)) (mode : Nat) (s : State) : State × Answer :=
  if 1 < v ∨ 1 < mode then refuse .badArgument s
  else
    match bands with
    | none => refuse .badArgument s
    | some bs =>
      (setView v { viewAt s v with
          pending := { (viewAt s v).pending with bands := bs, outsideBlack := mode == 1 }
          bandsReported := false } s,
        .done 0)

/-- A BANDS_SET record taken (R131). -/
def takeBandsSet (view count : BitVec 8) (start1 end1 : BitVec 16) (look1 : BitVec 8) (start2 end2 : BitVec 16)
    (look2 mode : BitVec 8) (s : State) : State :=
  completeCommand 0x65 (bandsSetAct view.toNat
    (bandsOf count.toNat start1.toNat end1.toNat look1.toNat start2.toNat end2.toNat look2.toNat) mode.toNat) s

/-- BANDS_SET (R131). -/
def execBandsSet (view count : BitVec 8) (start1 end1 : BitVec 16) (look1 : BitVec 8) (start2 end2 : BitVec 16)
    (look2 mode : BitVec 8) (s : State) : Host.Outcome State Fault Refusal :=
  .next (takeBandsSet view count start1 end1 look1 start2 end2 look2 mode s)

/-- OVERLAY_SET (R131). -/
def overlaySetAct (v address stride : Nat) (strip1 strip2 : Strip) (s : State) : State × Answer :=
  if 1 < v ∨ address % 32 ≠ 0 ∨ stride % 32 ≠ 0 ∨ stride = 0 ∨ 64 < strip1.count ∨ 64 < strip2.count ∨
      addressTop < address + 4320 * stride then
    refuse .badArgument s
  else
    (setView v { viewAt s v with
        pending := { (viewAt s v).pending with
          overlayAddress := address, overlayStride := stride, strip1 := strip1, strip2 := strip2 }
        overlayReported := false } s,
      .done 0)

/-- An OVERLAY_SET record taken (R131). -/
def takeOverlaySet (view : BitVec 8) (address : BitVec 64) (stride : BitVec 32) (start1 : BitVec 16) (count1 : BitVec 8)
    (start2 : BitVec 16) (count2 : BitVec 8) (s : State) : State :=
  completeCommand 0x66 (overlaySetAct view.toNat address.toNat stride.toNat
    { start := start1.toNat, count := count1.toNat } { start := start2.toNat, count := count2.toNat }) s

/-- OVERLAY_SET (R131). -/
def execOverlaySet (view : BitVec 8) (address : BitVec 64) (stride : BitVec 32) (start1 : BitVec 16)
    (count1 : BitVec 8) (start2 : BitVec 16) (count2 : BitVec 8) (s : State) : Host.Outcome State Fault Refusal :=
  .next (takeOverlaySet view address stride start1 count1 start2 count2 s)

/-- CLIP_MARK_SET (R131). -/
def clipMarkSetAct (v : Nat) (on : Bool) (colour : Rgb Nat) (s : State) : State × Answer :=
  if 1 < v ∨ 1023 < colour.r ∨ 1023 < colour.g ∨ 1023 < colour.b then refuse .badArgument s
  else (setPending v { (viewAt s v).pending with clipMark := on, markColour := colour } s, .done 0)

/-- A CLIP_MARK_SET record taken (R131). -/
def takeClipMarkSet (view on : BitVec 8) (colour : Rgb (BitVec 16)) (s : State) : State :=
  completeCommand 0x67 (clipMarkSetAct view.toNat (flagOf on.toNat)
    { r := colour.r.toNat, g := colour.g.toNat, b := colour.b.toNat }) s

/-- CLIP_MARK_SET (R131). -/
def execClipMarkSet (view on : BitVec 8) (colour : Rgb (BitVec 16)) (s : State) :
    Host.Outcome State Fault Refusal :=
  .next (takeClipMarkSet view on colour s)

/-! ### Validation of bands and strips (R135) -/

/-- The bands kept for a view of height h (R135). -/
def keptBands (h : Nat) (bands : List Band) : List Band :=
  match bands with
  | [] => []
  | b1 :: rest =>
    if b1.first ≤ b1.last ∧ b1.last < h then
      b1 :: rest.filter (fun b2 => decide (b1.last < b2.first ∧ b2.first ≤ b2.last ∧ b2.last < h))
    else []

/-- The strips of a setting that are present. -/
def presentStrips (x : Settings) : List Strip :=
  [x.strip1, x.strip2].filter (fun t => decide (0 < t.count))

/-- Whether strip 2 is kept, given where strip 1 ends (R135). -/
def secondStripFits (h after : Nat) (t : Strip) : Bool :=
  decide (0 < t.count ∧ after ≤ t.start ∧ t.start + t.count ≤ h)

/-- The strips kept for a view of height h (R135). -/
def keptStrips (h : Nat) (x : Settings) : List Strip :=
  if x.strip1.count = 0 then [x.strip2].filter (secondStripFits h 0)
  else if x.strip1.start + x.strip1.count ≤ h then
    x.strip1 :: [x.strip2].filter (secondStripFits h (x.strip1.start + x.strip1.count))
  else []

/-- A VIEW report of a view with its pin as it stands (R142). -/
def reportView (v : Nat) (kind : ViewKind) (detail : Nat) (s : State) : State :=
  createReport (.view v kind (viewAt s v).frameCount (viewAt s v).pin detail) s

/-- The bands' part of step 1: a drop is reported once, a boundary that drops nothing clears the flag (R135). -/
def validateBands (v h : Nat) (s : State) : State :=
  let bands := (viewAt s v).current.bands
  let kept := keptBands h bands
  if kept.length = bands.length then setView v { viewAt s v with bandsReported := false } s
  else if (viewAt s v).bandsReported then s
  else reportView v .bandsClamped kept.length (setView v { viewAt s v with bandsReported := true } s)

/-- The strips' part of step 1 (R135). -/
def validateStrips (v h : Nat) (s : State) : State :=
  let kept := keptStrips h (viewAt s v).current
  if kept.length = (presentStrips (viewAt s v).current).length then
    setView v { viewAt s v with overlayReported := false } s
  else if (viewAt s v).overlayReported then s
  else reportView v .overlayClamped kept.length (setView v { viewAt s v with overlayReported := true } s)

/-! ### The display frame boundary (R132 to R134) -/

/-- Step 1 of R132: the display frame count, the pending settings made current, the validation. -/
def beginFrame (v h : Nat) (s : State) : State :=
  let x := viewAt s v
  validateStrips v h (validateBands v h
    (setView v { x with frameCount := wrap32 x.frameCount 1, current := x.pending } s))

/-- The look mix stepped with primary slot p and ramp rate q (R133, Table 9-3). -/
def stepMix (x : Mix) (p q : Nat) : Mix :=
  match x.b with
  | none =>
    if p = x.a then x
    else if q = 0 then { a := p, b := none, m := 0 }
    else { a := x.a, b := some p, m := 0 }
  | some b =>
    if p = b then
      if min 256 (x.m + q) = 256 then { a := b, b := none, m := 0 } else { a := x.a, b := some b, m := min 256 (x.m + q) }
    else
      let w := if 128 ≤ x.m then b else x.a
      if p = w then { a := w, b := none, m := 0 }
      else if q = 0 then { a := p, b := none, m := 0 }
      else { a := w, b := some p, m := 0 }

/-- Step 2 of R132: the mix is stepped, or reset when the mix reset mark is set (R133, R144). -/
def mixStep (v : Nat) (s : State) : State :=
  let x := viewAt s v
  if x.mixReset then setView v { x with mix := Mix.reset, mixReset := false } s
  else setView v { x with mix := stepMix x.mix x.current.primary x.current.rate } s

/-- Step 3 of R132: the shuttle's boundary, with its ARRIVED report (R150, R154). -/
def shuttleStep (v : Nat) (s : State) : State :=
  let r := boundaryMotion s (viewAt s v).current.camera (motionAt s v)
  let t := setMotion v r.1 s
  match r.2 with
  | none => t
  | some f => reportView v .arrived f t

/-- The COMPLETE slots of camera c, in slot order, with their frame numbers. -/
def completeSlots (s : State) (c : Nat) : List (Nat × Nat) :=
  (List.range s.fiu.slots.length).filterMap (fun k =>
    if (frameSlotAt s k).state = .complete ∧ (frameSlotAt s k).camera = c then some (k, (frameSlotAt s k).frame) else none)

/-- The COMPLETE slot of camera c with frame number n, the lowest-numbered (R134, 1). -/
def exactSlot (s : State) (c n : Nat) : Option Nat :=
  ((completeSlots s c).find? (fun x => x.2 == n)).map (fun x => x.1)

/-- The COMPLETE slot of camera c with the greatest frame number below n, the lowest-numbered (R134, 2). -/
def lowerSlot (s : State) (c n : Nat) : Option Nat :=
  match greatestOf (((completeSlots s c).map (fun x => x.2)).filter (fun f => decide (f < n))) with
  | none => none
  | some f => exactSlot s c f

/-- A pin of slot k as it stands (R134). -/
def pinOf (s : State) (k : Nat) : Pin :=
  let f := frameSlotAt s k
  { slot := k, generation := f.generation, frame := f.frame, width := f.width, height := f.height, stride := f.stride }

/-- The previous pin, if its slot is still COMPLETE with the generation it had (R134, 3). -/
def previousPin (s : State) (p : Option Pin) : Option Pin :=
  p.filter (fun x => (frameSlotAt s x.slot).state == .complete && (frameSlotAt s x.slot).generation == x.generation)

/-- The source frame chosen for a view (R134). -/
def choosePin (s : State) (v : Nat) : Option Pin :=
  let x := viewAt s v
  if x.current.on = false ∨ s.fiu.pool.isNone then none
  else
    let c := x.current.camera
    let n := (motionAt s v).position / 256
    match exactSlot s c n with
    | some k => some (pinOf s k)
    | none =>
      match lowerSlot s c n with
      | some k => some (pinOf s k)
      | none => previousPin s x.pin

/-- The display frame copies of a view of height h (R134). -/
def takeCopies (s : State) (v h : Nat) : FrameCopies :=
  let x := viewAt s v
  { lookA := lookContents s x.mix.a
    lookB := x.mix.b.map (lookContents s)
    bands := (keptBands h x.current.bands).map (fun b =>
      { first := b.first, last := b.last, look := b.look.map (lookContents s) })
    strips := keptStrips h x.current
    zones := s.ctu.zones
    clipLevel := (cameraAt s x.current.camera).clipLevel }

/-- Step 4 of R132: the pin and the display frame copies (R134). -/
def pinStep (v h : Nat) (s : State) : State :=
  setView v { viewAt s v with pin := choosePin s v, copies := some (takeCopies s v h) } s

/-- A display frame boundary of view v of height h (R132). -/
def takeBoundary (v h : Nat) (s : State) : State :=
  pinStep v h (shuttleStep v (mixStep v (beginFrame v h s)))

/-! ### Serving a read (R136 to R140) -/

/-- Set the answer of the order-book entry with a tag (R7). -/
def setAnswer (tag : Nat) (a : UpAnswer) (s : State) : State :=
  s.withTu { s.tu with book := s.tu.book.map (fun e => if e.tag = tag then { e with answer := some a } else e) }

/-- The address of a slot of the pool. -/
def slotBase (s : State) (k : Nat) : Nat :=
  match s.fiu.pool with
  | none => 0
  | some p => p.base + k * p.size

/-- A read of n beats from an address, cut into requests of at most 16 beats in rising address order (R138). -/
def cutReads (address n : Nat) : List OwnRead :=
  (List.range ((n + 15) / 16)).map (fun i =>
    { overlay := false, addr := address + 512 * i, beats := min 16 (n - 16 * i), data := [] })

/-- VE's source reads for a read (R138). -/
def sourceReads (s : State) (r : ServedRead) : List OwnRead :=
  match r.pin with
  | none => []
  | some p =>
    match sourceBeats r p with
    | none => []
    | some span =>
      cutReads (slotBase s p.slot + 256 + sourceRow r * p.stride + 32 * span.1) (span.2 - span.1 + 1)

/-- VE's overlay read for a read whose row lies in a kept strip (R138). The address is the natural number of R138's formula,
also where an overlay stride below the row's length takes it past 2^40 - 1 (DESIGN CHOICE, log entry 27). -/
def overlayReads (r : ServedRead) : List OwnRead :=
  match r.copies with
  | none => []
  | some c =>
    if inStrip c r.row then
      [{ overlay := true, addr := r.settings.overlayAddress + r.row * r.settings.overlayStride + 4 * r.column,
         beats := r.beats, data := [] }]
    else []

/-- What a view read latches at its arrival (R136): the view as it stands, row r, first column c, k beats. -/
def latchRead (x : View) (w : ViewWindow) (tag row column beats : Nat) : ServedRead :=
  { tag := tag, row := row, column := column, beats := beats, width := w.width, height := w.height,
    settings := x.current, mix := x.mix, pin := x.pin, copies := x.copies, frameCount := x.frameCount,
    pinLost := false, reads := [] }

/-- The own reads that a latched read issues: none with the view off (R138). -/
def issuedReads (s : State) (r : ServedRead) : List OwnRead :=
  if r.settings.on then sourceReads s r ++ overlayReads r else []

/-- A read is latched and served (R136, R138): it is answered at once if it issues no read, or put in service with its
own reads in the arrival-ordered queue. -/
def serveRead (v : Nat) (r : ServedRead) (s : State) : State :=
  let own := issuedReads s r
  let q := { r with reads := own }
  if own.isEmpty then setAnswer r.tag (.read (answerRead q)) s
  else
    let t := setView v { viewAt s v with reads := (viewAt s v).reads ++ [q] } s
    t.withTu { t.tu with arrival := t.tu.arrival ++ (List.range own.length).map (ArrivalItem.viewRead r.tag) }

/-- A view read of view v arrives (R132, R136): row r of its window, first column c, k beats. -/
def viewRead (v tag row column beats : Nat) (w : ViewWindow) (s : State) : State :=
  let t := if row = 0 ∧ (viewAt s v).lastRow ≠ some 0 then takeBoundary v w.height s else s
  let u := setView v { viewAt t v with lastRow := some row } t
  serveRead v (latchRead (viewAt u v) w tag row column beats) u

/-! ### Own reads returning (R138, R140) -/

/-- An own read with more beats returned; beats past its length are dropped (log entry 20). -/
def appendBeats (beats : List ReadBeat) (o : OwnRead) : OwnRead :=
  { o with data := (o.data ++ beats).take o.beats }

/-- Whether every own read of a read has returned whole (R138). -/
def allReturned (r : ServedRead) : Bool :=
  r.reads.all (fun o => decide (o.beats ≤ o.data.length))

/-- The view that has a read with a tag in service. -/
def viewOfRead (s : State) (tag : Nat) : Option Nat :=
  s.ve.findIdx? (fun x => x.reads.any (fun r => r.tag == tag))

/-- A fetch fault of a read of view v, at its first ERROR (R140). -/
def fetchFault (v : Nat) (r : ServedRead) (s : State) : State :=
  let x := viewAt s v
  let n := satAdd 4294967295 x.fetchFaults 1
  if x.lastFetchFault = some r.frameCount then setView v { x with fetchFaults := n } s
  else
    createReport (.view v .fetchFault r.frameCount x.pin n)
      (setView v { x with fetchFaults := n, lastFetchFault := some r.frameCount } s)

/-- Beats of own read `index` of a read in service of view v return (R138, R140). -/
def returnBeats (v index : Nat) (beats : List ReadBeat) (r : ServedRead) (s : State) : State :=
  let q := { r with reads := r.reads.modify index (appendBeats beats) }
  let t := if fetchFailed r = false ∧ fetchFailed q = true then fetchFault v r s else s
  let others := fun (f : List ServedRead → List ServedRead) => setView v { viewAt t v with reads := f (viewAt t v).reads } t
  if allReturned q then
    setAnswer r.tag (.read (answerRead q)) (others (fun l => l.filter (fun y => y.tag != r.tag)))
  else others (fun l => l.map (fun y => if y.tag = r.tag then q else y))

/-- Whether own read `index` of a read is outstanding: issued, sent by the arbiter, and not returned whole. -/
def ownReadSent (s : State) (r : ServedRead) (index : Nat) : Bool :=
  !s.tu.arrival.contains (.viewRead r.tag index) && (r.reads[index]?).any (fun o => decide (o.data.length < o.beats))

/-- Data or a response of VE's own read `index` for the view read with a tag returns (R138). -/
def viewFetchReturn (tag index : Nat) (beats : List ReadBeat) (s : State) : State :=
  match viewOfRead s tag with
  | none => s
  | some v =>
    match (viewAt s v).reads.find? (fun r => r.tag == tag) with
    | none => s
    | some r => if ownReadSent s r index then returnBeats v index beats r s else s

/-- VIEW_FETCH_RETURN (R138). -/
def execViewFetchReturn (read index : Nat) (beats : List ReadBeat) (s : State) : Host.Outcome State Fault Refusal :=
  .next (viewFetchReturn read index beats s)

/-! ### The loss of a pin (R141) -/

/-- A read in service that latched the pin of the present display frame finds it lost (R141). -/
def loseRead (frameCount : Nat) (r : ServedRead) : ServedRead :=
  if r.pin.isSome = true ∧ r.frameCount = frameCount then { r with pinLost := true } else r

/-- The code of a slot's state in a SLOT_LOST detail (Table 12-6). -/
def slotStateCode : SlotState → Nat
  | .empty => 0
  | .filling => 1
  | .complete => 2
  | .bad => 3

/-- Notice of a header judgement on slot k reaches view v (R73, R141): if the view has it pinned, the pin is lost. -/
def noticeView (k v : Nat) (s : State) : State :=
  let x := viewAt s v
  match x.pin with
  | none => s
  | some p =>
    if p.slot = k then
      createReport (.view v .slotLost x.frameCount (some p) (slotStateCode (frameSlotAt s k).state))
        (setView v { x with pin := none, reads := x.reads.map (loseRead x.frameCount) } s)
    else s

/-- The views that have slot k pinned (R134). -/
def viewsPinning (s : State) (k : Nat) : List Nat :=
  (List.range s.ve.length).filter (fun v => (viewAt s v).pin.any (fun p => p.slot == k))

/-- Notice to the views that have slot k pinned; with two of them, in an order the spec leaves open (log entry 9). -/
def noticeViews (k : Nat) (s : State) : State :=
  let c := chooseOrder (viewsPinning s k) s
  c.1.foldl (fun t v => noticeView k v t) c.2

end Sys2Proof.Machine
end

