-- ==== Sys2Proof/Machine/Panel.lean ====
section
/-! DEFINITION. The Panel Unit (Chapter 11): keys and their repeat (R159, R160), PANEL_TIMING and PANEL_BIND (R161), the
bound actions (R162, R163), the jog wheel (R164) and PANEL reports (R165). A key event whose time has not come changes
nothing (log entry 1). -/

namespace Sys2Proof.Machine

/-! ### Bound actions (R162, R163) -/

/-- The READY slot that LOOK_NEXT finds from pending primary slot p: p + 1 and on to 7, then 0 to p (R162). -/
def nextReadyLook (s : State) (p : Nat) : Option Nat :=
  ((List.range 8).map (fun i => (p + 1 + i) % 8)).find? (fun k => (lookSlotAt s k).state == .ready)

/-- LOOK_NEXT (R162). -/
def lookNext (v : Nat) (s : State) : State × Option Nat :=
  match nextReadyLook s (viewAt s v).pending.primary with
  | none => (s, none)
  | some k => (setPending v { (viewAt s v).pending with primary := k } s, some k)

/-- ZONES_TOGGLE (R162). -/
def zonesToggle (v : Nat) (s : State) : State × Option Nat :=
  let p := (viewAt s v).pending
  (setPending v { p with zones := !p.zones } s, some (if p.zones then 0 else 1))

/-- BANDS_TOGGLE (R162). -/
def bandsToggle (v : Nat) (s : State) : State × Option Nat :=
  let p := (viewAt s v).pending
  (setPending v { p with outsideBlack := !p.outsideBlack } s, some (if p.outsideBlack then 0 else 1))

/-- SHUTTLE_FWD and SHUTTLE_REV: a continuous move, with target / 256 as the result (R162). -/
def shuttlePress (d : Direction) (v : Nat) (s : State) : State × Option Nat :=
  let m := goMotion 0 d (motionAt s v)
  (setMotion v m s, some (m.target.getD 0 / 256))

/-- SHUTTLE_STOP (R162). -/
def stopPress (v : Nat) (s : State) : State × Option Nat :=
  (setMotion v (stopMotion (motionAt s v)).1 s, some (stopMotion (motionAt s v)).2)

/-- HOLD_TOGGLE: the result is 1, RELEASED, from HELD and 0, HELD, from any other phase (R162, Table 12-6). -/
def holdToggle (v : Nat) (s : State) : State × Option Nat :=
  let m := motionAt s v
  if m.phase = .held then (setMotion v (releaseMotion m).1 s, some 1) else (setMotion v (holdMotion m).1 s, some 0)

/-- The frame that FAULT_NEXT and FAULT_PREV search from (R163). -/
def fromFrame (m : Motion) : Nat :=
  m.pendingLocate.getD m.displayed

/-- FAULT_NEXT and FAULT_PREV with the frame found, if any (R163). -/
def locatePress (found : Option Nat) (v : Nat) (s : State) : State × Option Nat :=
  match found with
  | none => (s, none)
  | some f => (setMotion v (locateMotion f (motionAt s v)) s, some f)

/-- ACK_HERE (R163). -/
def ackHere (v : Nat) (s : State) : State × Option Nat :=
  let r := ackFrame (viewAt s v).current.camera (motionAt s v).displayed s
  (r.1, some r.2)

/-- A bound action carried out on view v, with its result (R162, R163). -/
def doAction (a : PanelAction) (v : Nat) (s : State) : State × Option Nat :=
  match a with
  | .nothing => (s, none)
  | .lookNext => lookNext v s
  | .shuttleFwd => shuttlePress .forward v s
  | .shuttleRev => shuttlePress .reverse v s
  | .shuttleStop => stopPress v s
  | .holdToggle => holdToggle v s
  | .faultNext => locatePress (nextFault s (viewAt s v).current.camera (fromFrame (motionAt s v))) v s
  | .faultPrev => locatePress (previousFault s (viewAt s v).current.camera (fromFrame (motionAt s v))) v s
  | .ackHere => ackHere v s
  | .zonesToggle => zonesToggle v s
  | .bandsToggle => bandsToggle v s

/-- The bound action of a key is carried out and its PANEL report created after it (R159, R160, R165). -/
def actAndReport (k : Nat) (e : PanelEvent) (held : Option Nat) (s : State) : State :=
  let b := bindingAt s k
  createReport (.panel k e b.action (some b.view) none (doAction b.action b.view s).2 held) (doAction b.action b.view s).1

/-! ### Keys (R159, R160) -/

/-- KEY[k] takes a level (R159). -/
def keyChange (k : Nat) (low : Bool) (s : State) : State :=
  let x := keyAt s k
  setKey k { x with low := low, changePending := changeAfter low x.pressed x.changePending s.time } s

/-- KEY_CHANGE (R159). -/
def execKeyChange (key : Fin 16) (low : Bool) (s : State) : Host.Outcome State Fault Refusal :=
  .next (keyChange key.val low s)

/-- A key just pressed, its repeat due set when its binding repeats (R159). -/
def pressedKey (s : State) (k : Nat) : Key :=
  { keyAt s k with
    pressed := true
    changePending := none
    pressTime := some s.time
    repeatDue := if (bindingAt s k).repeatOn then some (wrap32 s.time s.pu.repeatDelay) else none }

/-- A press of key k is taken, when its debounce has run out (R159). -/
def keyPress (k : Nat) (s : State) : State :=
  if (keyAt s k).pressed = false ∧ changeDue s (keyAt s k).changePending = true then
    actAndReport k .down none (setKey k (pressedKey s k) s)
  else s

/-- KEY_PRESS (R159). -/
def execKeyPress (key : Fin 16) (s : State) : Host.Outcome State Fault Refusal :=
  .next (keyPress key.val s)

/-- The milliseconds since a key's press time (R165). -/
def heldTime (s : State) (k : Nat) : Nat :=
  elapsed s.time ((keyAt s k).pressTime.getD s.time)

/-- A release of key k is taken, when its debounce has run out (R159). The UP report carries the view of the key's binding as
it stands at the release (DESIGN CHOICE, log entry 28; R165 says 0 or 1). -/
def keyRelease (k : Nat) (s : State) : State :=
  if (keyAt s k).pressed = true ∧ changeDue s (keyAt s k).changePending = true then
    createReport (.panel k .up .nothing (some (bindingAt s k).view) none none (some (heldTime s k)))
      (setKey k { keyAt s k with pressed := false, changePending := none, pressTime := none, repeatDue := none } s)
  else s

/-- KEY_RELEASE (R159). -/
def execKeyRelease (key : Fin 16) (s : State) : Host.Outcome State Fault Refusal :=
  .next (keyRelease key.val s)

/-- Whether a held key's repeat has fallen due (R160). -/
def repeatReached (s : State) (x : Key) : Bool :=
  match x.pressTime, x.repeatDue with
  | some p, some d => x.pressed && decide (elapsed d p ≤ elapsed s.time p)
  | _, _ => false

/-- A repeat of key k falls due (R160). -/
def keyRepeat (k : Nat) (s : State) : State :=
  if repeatReached s (keyAt s k) then
    if (bindingAt s k).repeatOn then
      actAndReport k .rep (some (heldTime s k))
        (setKey k { keyAt s k with repeatDue := (keyAt s k).repeatDue.map (fun d => wrap32 d s.pu.repeatInterval) } s)
    else setKey k { keyAt s k with repeatDue := none } s
  else s

/-- KEY_REPEAT (R160). -/
def execKeyRepeat (key : Fin 16) (s : State) : Host.Outcome State Fault Refusal :=
  .next (keyRepeat key.val s)

/-! ### PANEL_TIMING and PANEL_BIND (R161) -/

/-- PANEL_TIMING (R161). -/
def panelTimingAct (debounce delay interval : Nat) (s : State) : State × Answer :=
  let d := clamp 1 31 debounce
  let r := clamp 100 2000 delay
  let i := clamp 20 500 interval
  (s.withPu { s.pu with debounce := d, repeatDelay := r, repeatInterval := i },
    carriedOut [(1, d != debounce), (2, r != delay), (3, i != interval)] 0)

/-- A PANEL_TIMING record taken (R161). -/
def takePanelTiming (debounce delay interval : BitVec 16) (s : State) : State :=
  completeCommand 0x81 (panelTimingAct debounce.toNat delay.toNat interval.toNat) s

/-- PANEL_TIMING (R161). -/
def execPanelTiming (debounce delay interval : BitVec 16) (s : State) : Host.Outcome State Fault Refusal :=
  .next (takePanelTiming debounce delay interval s)

/-- The jog binding that a PANEL_BIND of key 16 makes (R161). -/
def jogBindingOf (a : PanelAction) (v : Nat) : Option (PanelAction × Nat) :=
  if a = .nothing then none else some (a, v)

/-- PANEL_BIND (R161). -/
def panelBindAct (key : Nat) (action : Option PanelAction) (v rep : Nat) (s : State) : State × Answer :=
  if 16 < key ∨ 1 < v ∨ 1 < rep then refuse .badArgument s
  else
    match action with
    | none => refuse .badArgument s
    | some a =>
      if key = 16 then (s.withPu { s.pu with jogBinding := jogBindingOf a v }, .done 0)
      else
        (s.withPu { s.pu with bindings := s.pu.bindings.set key { action := a, view := v, repeatOn := rep == 1 } }, .done 0)

/-- A PANEL_BIND record taken (R161). -/
def takePanelBind (key action view rep : BitVec 8) (s : State) : State :=
  completeCommand 0x80 (panelBindAct key.toNat (actionOf action.toNat) view.toNat rep.toNat) s

/-- PANEL_BIND (R161). -/
def execPanelBind (key action view rep : BitVec 8) (s : State) : Host.Outcome State Fault Refusal :=
  .next (takePanelBind key action view rep s)

/-! ### The jog wheel (R164) -/

/-- The direction of a valid transition from one pair (A, B) to another; none when both lines changed (R164). -/
def transitionOf (before after : Bool × Bool) : Option Direction :=
  match before, after with
  | (false, false), (true, false) => some .forward
  | (true, false), (true, true) => some .forward
  | (true, true), (false, true) => some .forward
  | (false, true), (false, false) => some .forward
  | (true, false), (false, false) => some .reverse
  | (true, true), (true, false) => some .reverse
  | (false, true), (true, true) => some .reverse
  | (false, false), (false, true) => some .reverse
  | _, _ => none

/-- A detent formed in a direction is routed and reported (R164, R165). -/
def routeDetent (d : Direction) (s : State) : State :=
  match s.pu.jogBinding with
  | none => createReport (.panel 16 .detent .nothing none (some d) (some 0) none) s
  | some b =>
    let m := motionAt s b.2
    createReport (.panel 16 .detent b.1 (some b.2) (some d) (some (if acceptsDetent m then 1 else 0)) none)
      (setMotion b.2 (jogDetentMotion d m) s)

/-- The step count after a valid transition, before a detent is formed (R164). -/
def stepsAfter (u : Panel) (d : Direction) : Nat :=
  if u.jogDirection = some d then u.jogSteps + 1 else 1

/-- A valid transition in a direction (R164). -/
def jogStep (d : Direction) (sample : Bool × Bool) (s : State) : State :=
  if 4 ≤ stepsAfter s.pu d then
    routeDetent d (s.withPu { s.pu with jogLast := some sample, jogSteps := 0, jogDirection := some d })
  else s.withPu { s.pu with jogLast := some sample, jogSteps := stepsAfter s.pu d, jogDirection := some d }

/-- A sample of (JOG_A, JOG_B) against the last one (R164); the first after hard reset is only kept (R166). -/
def compareSample (sample : Bool × Bool) (s : State) : State :=
  match s.pu.jogLast with
  | none => s.withPu { s.pu with jogLast := some sample }
  | some last =>
    if sample = last then s
    else
      match transitionOf last sample with
      | some d => jogStep d sample s
      | none => s.withPu { s.pu with jogLast := some sample, jogSteps := 0, jogDirection := none }

/-- The sample of the present millisecond (R164): each millisecond of the time base has one, and another changes nothing
(log entry 12). -/
def jogSample (sample : Bool × Bool) (s : State) : State :=
  if s.pu.jogDue then compareSample sample (s.withPu { s.pu with jogLines := sample, jogDue := false }) else s

/-- JOG_DETENT (R164): the sample that forms a detent. -/
def execJogDetent (a b : Bool) (s : State) : Host.Outcome State Fault Refusal :=
  .next (jogSample (a, b) s)

/-- JOG_TRANSITION (R164): a sample that forms none. -/
def execJogTransition (a b : Bool) (s : State) : Host.Outcome State Fault Refusal :=
  .next (jogSample (a, b) s)

end Sys2Proof.Machine
end

