-- ==== Sys2Proof/Machine/Frames.lean ====
section
/-! DEFINITION. The Frame Inspection Unit (Chapter 5): POOL_SET (R67), beats in the pool (R69), headers (R70 to R73),
raster beats and their measurement (R74 to R78), write responses (R79) and the end of a frame (R80, R81). -/

namespace Sys2Proof.Machine

/-! ### POOL_SET (R67) -/

/-- The first row of Table 5-1. -/
def poolSetArguments (base count size : Nat) : Bool :=
  decide (1 ≤ count ∧ count ≤ 256 ∧ size % 4096 = 0 ∧ 4096 ≤ size ∧ base % 4096 = 0 ∧ base + count * size ≤ addressTop)

/-- Whether a view has a slot pinned (Table 5-1). -/
def anyPinned (s : State) : Bool :=
  (viewAt s 0).pin.isSome || (viewAt s 1).pin.isSome

/-- The number of slots in a state. -/
def slotsIn (s : State) (st : SlotState) : Nat :=
  s.fiu.slots.countP (fun f => f.state == st)

/-- The unit after a POOL_SET that passes (R67): new slots EMPTY with generation 0, the serial up by 1. -/
def placedPool (p : Pool) (u : FrameInspection) : FrameInspection :=
  { u with pool := some p, serial := wrap32 u.serial 1, slots := List.replicate p.count FrameSlot.empty }

/-- POOL_SET (R67, Table 5-1). -/
def poolSetAct (base count size : Nat) (s : State) : State × Answer :=
  if poolSetArguments base count size = false then refuse .badArgument s
  else if anyPinned s then refuse .busy s
  else if overlapsAny (poolSpan { base := base, count := count, size := size })
      (controlPage s :: viewWindows s 0 ++ viewWindows s 1 ++ streamWindows s) then
    refuse .overlap s
  else (s.withFiu (placedPool { base := base, count := count, size := size } s.fiu), .done (slotsIn s .filling))

/-- A POOL_SET record taken (R67). -/
def takePoolSet (base : BitVec 64) (slotCount : BitVec 16) (slotSize : BitVec 64) (s : State) : State :=
  completeCommand 0x01 (poolSetAct base.toNat slotCount.toNat slotSize.toNat) s

/-- POOL_SET (R67). -/
def execPoolSet (base : BitVec 64) (slotCount : BitVec 16) (slotSize : BitVec 64) (s : State) :
    Host.Outcome State Fault Refusal :=
  .next (takePoolSet base slotCount slotSize s)

/-! ### Stray writes (R75) -/

/-- The pool stray-write count rises by 1, stopping at 2^32 - 1 (R75). -/
def countStray (s : State) : State :=
  s.withFiu { s.fiu with stray := satAdd 4294967295 s.fiu.stray 1 }

/-! ### Headers (R70 to R73, R169) -/

/-- The eye of a header's eye byte; a byte above 2 is none (R169). -/
def eyeOf (code : Nat) : Option Eye :=
  match code with
  | 0 => some .mono
  | 1 => some .left
  | 2 => some .right
  | _ => none

/-- The timecode of a header, bytes 12 to 15 (Table 12-7). -/
def headerTimecode (d : BeatData) : Timecode :=
  { hh := beatField d 12 8, mm := beatField d 13 8, ss := beatField d 14 8, ff := beatField d 15 8 }

/-- Steps 2 and 3 of R71: the generation rises, late fault raised is cleared, the fields are read and the clip holding
the label is taken. An eye byte that is no eye leaves the eye, which a BAD slot does not use (log entry 17). -/
def readHeader (s : State) (d : BeatData) (f : FrameSlot) : FrameSlot :=
  { f with
    generation := (f.generation + 1) % 256
    lateFault := false
    camera := beatField d 0 8
    eye := (eyeOf (beatField d 1 8)).getD f.eye
    label := beatField d 4 32
    clip := clipOfLabel s (beatField d 4 32)
    frame := beatField d 8 32
    timecode := headerTimecode d
    width := beatField d 16 16
    height := beatField d 18 16
    stride := beatField d 20 32 }

/-- The geometry test of Table 5-4, for a slot size and the eye byte. -/
def geometryPasses (slotSize eyeByte : Nat) (f : FrameSlot) : Bool :=
  decide (16 ≤ f.width ∧ f.width ≤ 8192 ∧ 16 ≤ f.height ∧ f.height ≤ 4320 ∧ f.stride % 32 = 0 ∧ f.width * 8 ≤ f.stride ∧
    eyeByte ≤ 2 ∧ 256 + f.height * f.stride ≤ slotSize)

/-- The camera test of Table 5-4. -/
def cameraPasses (s : State) (f : FrameSlot) : Bool :=
  decide (f.camera ≤ 15) && (cameraAt s f.camera).configured

/-- The fault of the first header test that fails, if any (R72). -/
def headerFault (s : State) (slotSize eyeByte : Nat) (f : FrameSlot) : Option FaultKind :=
  if geometryPasses slotSize eyeByte f = false then some .frameGeometry
  else if cameraPasses s f = false then some .cameraUnknown
  else none

/-- The finding of a header that fails a test: the header's camera only when it is 0 to 15 (R72). -/
def headerFinding (s : State) (kind : FaultKind) (k : Nat) (f : FrameSlot) : Finding :=
  { frameFinding s kind f none k with camera := if f.camera ≤ 15 then some f.camera else none }

/-- A slot whose header passed its tests: FILLING, with every accumulator cleared (R71, step 5). -/
def fillingSlot (f : FrameSlot) : FrameSlot :=
  { f with
    state := .filling
    expected := f.height * f.stride / 32
    counted := 0
    zones := [0, 0, 0, 0, 0, 0]
    clipped := 0
    lumaSum := 0
    signature := 0
    candidates := []
    candidatesOver := false }

/-- The slot size of the pool, 0 without one. -/
def slotSizeOf (s : State) : Nat :=
  match s.fiu.pool with
  | none => 0
  | some p => p.size

/-- Step 1 of R71: a FILLING slot's frame is abandoned. -/
def abandonFrame (k : Nat) (s : State) : State :=
  if (frameSlotAt s k).state = .filling then raiseFrame .frameAbandoned (frameSlotAt s k) k s else s

/-- Steps 4 and 5 of R71 for a header just read into f. -/
def settleHeader (k eyeByte : Nat) (f : FrameSlot) (s : State) : State :=
  match headerFault s (slotSizeOf s) eyeByte f with
  | some kind => raiseFault true (headerFinding s kind k f) (setFrameSlot k { f with state := .bad } s)
  | none =>
    let t := setFrameSlot k (fillingSlot f) s
    if f.clip.isNone then raiseFrame .orphanFrame f k t else t

/-- A whole header with first beat d is taken on slot k (R71). -/
def takeHeader (k : Nat) (d : BeatData) (s : State) : State :=
  let t := abandonFrame k s
  noticeViews k (settleHeader k (beatField d 1 8) (readHeader t d (frameSlotAt t k)) t)

/-- The finding of a header written otherwise on a slot that is not FILLING (R70). -/
def anonymousHeaderFinding (k : Nat) : Finding :=
  { kind := .frameHeader, camera := none, clip := none, frame := none, position := none, detail := k }

/-- A header written otherwise on slot k (R70): the slot is BAD and FRAME_HEADER is raised. -/
def spoilHeader (k : Nat) (s : State) : State :=
  let f := frameSlotAt s k
  let t := setFrameSlot k { f with state := .bad } s
  noticeViews k
    (if f.state = .filling then raiseFrame .frameHeader f k t else raiseFault true (anonymousHeaderFinding k) t)

/-- Whether the header beats of a request, judged at its beat `last` at offset o of the slot with the beats that have
arrived, are a whole header: all 8 with all strobes set (R70). -/
def isWholeHeader (beats : List WriteBeat) (last o : Nat) : Bool :=
  decide (o = 224 ∧ 7 ≤ last) && ((beats.drop (last - 7)).take 8).all (fun b => fullStrobes b.strobes)

/-- The tag of a request in slot k as it stands (R79). -/
def frameMark (s : State) (k : Nat) : Mark :=
  .frame s.fiu.serial k (frameSlotAt s k).generation

/-- A header beat, the `i`-th of its request, at offset o of slot k (R70): judged when it is the request's last header
beat there. -/
def headerBeat (req : Request) (beats : List WriteBeat) (i k o : Nat) (s : State) : State × Option Mark :=
  if i + 1 < beatCount req ∧ o + 32 < 256 then (s, none)
  else if isWholeHeader beats i o then
    let t := takeHeader k (((beats[i - 7]?).map (fun b => b.data)).getD 0) s
    (t, some (frameMark t k))
  else (spoilHeader k s, none)

/-! ### Measuring a raster beat (R76 to R78) -/

/-- The six bytes of R, G and B of pixel place j have their strobes set (R76). -/
def pixelWritten (st : Strobes) (j : Nat) : Bool :=
  (List.range 6).all (fun b => st.getLsbD (8 * j + b))

/-- The written pixels of a beat whose first column is x0, as columns and pixels (R76). -/
def writtenPixels (d : BeatData) (st : Strobes) (x0 width : Nat) : List (Nat × Rgb Nat) :=
  ((List.range 4).filter (fun j => decide (x0 + j < width) && pixelWritten st j)).map (fun j => (x0 + j, rasterPixel d j))

/-- A slot after one written pixel is measured (R76): its zone's count, clipped count and luma sum. -/
def measurePixel (zones : List Zone) (clipLevel : Nat) (f : FrameSlot) (p : Nat × Rgb Nat) : FrameSlot :=
  let y := luma p.2
  { f with
    zones := f.zones.modify (zoneOf zones y) (fun n => satAdd 4294967295 n 1)
    clipped := if clipLevel ≤ p.2.r ∨ clipLevel ≤ p.2.g ∨ clipLevel ≤ p.2.b then satAdd 4294967295 f.clipped 1 else f.clipped
    lumaSum := satAdd 281474976710655 f.lumaSum y }

/-- Whether the pixel at column x is a candidate among the written pixels of its beat (R77). -/
def isCandidate (hotLevel : Nat) (pixels : List (Nat × Rgb Nat)) (p : Nat × Rgb Nat) : Bool :=
  decide (hotLevel ≤ luma p.2) &&
    pixels.all (fun q => q.1 == p.1 || decide (luma q.2 < hotLevel / 2))

/-- A candidate position enters the candidate list (R77). -/
def addCandidate (f : FrameSlot) (p : Nat × Nat) : FrameSlot :=
  if f.candidates.contains p then f
  else if f.candidates.length < 8 then { f with candidates := f.candidates ++ [p] }
  else { f with candidatesOver := true }

/-- The sum of a beat's eight words, bytes with clear strobes taken as 0 (R78). -/
def beatSum (d : BeatData) (st : Strobes) : Nat :=
  ((List.range 8).map (maskedWord d st)).foldl (fun a w => (a + w) % two32) 0

/-- A slot after its raster beat with index b is counted and measured (R74, R76 to R78). -/
def countBeat (s : State) (d : BeatData) (st : Strobes) (b : Nat) (f : FrameSlot) : FrameSlot :=
  let row := b * 32 / f.stride
  let cam := cameraAt s f.camera
  let pixels := writtenPixels d st (b * 32 % f.stride / 8) f.width
  let g := pixels.foldl (measurePixel s.ctu.zones cam.clipLevel) { f with counted := f.counted + 1 }
  let h := ((pixels.filter (isCandidate cam.hotLevel pixels)).map (fun p => (p.1, row))).foldl addCandidate g
  { h with signature := wrap32 h.signature (beatSum d st * (b + 1)) }

/-! ### The end of a frame (R80, R81) -/

/-- The mean luma of a frame (R80, step 2). -/
def meanLuma (f : FrameSlot) : Nat :=
  clamp 0 65535 (f.lumaSum / (f.width * f.height))

/-- The clip fraction of a frame (R80, step 2). -/
def clipFraction (f : FrameSlot) : Nat :=
  clamp 0 1024 (f.clipped * 1024 / (f.width * f.height))

/-- Step 4 of R80: a FRAME report when the camera's frame reports setting is on. -/
def reportFrame (k : Nat) (f : FrameSlot) (s : State) : State :=
  if (cameraAt s f.camera).frameReports then createReport (.frame k f (clipFraction f) (meanLuma f)) s else s

/-- A frame ends in slot k with the record f, whose last beat is counted (R80). -/
def endFrame (k : Nat) (f : FrameSlot) (s : State) : State :=
  let g := { f with state := SlotState.complete }
  trackFrame g (clipFraction g) (meanLuma g) (reportFrame k g (countFrame g.clip g.label (setFrameSlot k g s)))

/-! ### Raster beats (R74, R75) -/

/-- The bytes of a slot's header and raster. -/
def frameEnd (f : FrameSlot) : Nat :=
  256 + f.height * f.stride

/-- FRAME_OVERWRITE: a raster beat past the expected count (R74). -/
def overwriteFrame (k : Nat) (s : State) : State :=
  raiseFrame .frameOverwrite (frameSlotAt s k) k (setFrameSlot k { frameSlotAt s k with state := .bad } s)

/-- A beat behind the header, the `i`-th of its request, at offset o of slot k (R74, R75). -/
def bodyBeat (req : Request) (i k o : Nat) (d : BeatData) (st : Strobes) (s : State) : State × Option Mark :=
  let f := frameSlotAt s k
  if f.state ≠ .filling ∨ frameEnd f ≤ o then (countStray s, none)
  else if f.expected ≤ f.counted then (overwriteFrame k s, none)
  else
    let g := countBeat s d st ((o - 256) / 32) f
    let t := setFrameSlot k g s
    (if g.counted = g.expected ∧ ¬(i + 1 < beatCount req ∧ o + 32 < frameEnd f) then endFrame k g s else t,
      some (frameMark t k))

/-- A tapped write beat in the pool, the `i`-th of its request, whose beats so far are given (R69). -/
def poolBeat (req : Request) (beats : List WriteBeat) (i : Nat) (d : BeatData) (st : Strobes) (p : Pool) (s : State) :
    State × Option Mark :=
  let a := beatAddress req i - p.base
  let k := a / p.size
  let o := a % p.size
  if o < 256 then headerBeat req beats i k o s else bodyBeat req i k o d st s

/-! ### Write responses (R79) -/

/-- A write response shown to FIU for a request tagged to generation g of slot k under a pool serial (R79). -/
def frameResponse (serial k g : Nat) (ok : Bool) (s : State) : State :=
  let f := frameSlotAt s k
  if ok = true ∨ serial ≠ s.fiu.serial ∨ g ≠ f.generation then s
  else
    match f.state with
    | .filling => raiseFrame .frameWriteFault f k (setFrameSlot k { f with state := .bad } s)
    | .complete =>
      if f.lateFault then s else raiseFrame .frameWriteFault f k (setFrameSlot k { f with lateFault := true } s)
    | .bad => s
    | .empty => s

end Sys2Proof.Machine
end

