-- ==== Sys2Proof/Machine/Snapshot.lean ====
section
/-! DEFINITION. Reports on their way to the ring: REPORT_MADE_READY (R24), REPORT_WRITE_RESPONSE (R25), and SNAPSHOT
with its end (R28). -/

namespace Sys2Proof.Machine

/-! ### REPORT_MADE_READY (R24) -/

/-- REPORT_MADE_READY (R24): the three conditions are tested again (log entry 2). -/
def execReportMadeReady (s : State) : Host.Outcome State Fault Refusal :=
  .next (makeReady s)

/-! ### SNAPSHOT (R28) -/

/-- The sum of the cameras' frames dropped from tracking, stopping at 65535 (R28). -/
def droppedFrames (s : State) : Nat :=
  s.ctu.cameras.foldl (fun n c => satAdd 65535 n c.framesDropped) 0

/-- What a SNAPSHOT records at its execution (R28). -/
def snapshotValues (s : State) : SnapshotValues :=
  { streams := s.su.table.countP Option.isSome
    clips := s.ct.clips.countP Option.isSome
    filling := slotsIn s .filling
    complete := slotsIn s .complete
    bad := slotsIn s .bad
    faults := s.fl.records.length
    tracker := s.ctu.tracker.length
    pendingReports := s.cir.queue.length
    stray := s.fiu.stray
    framesDropped := droppedFrames s
    fetchFaults0 := (viewAt s 0).fetchFaults
    fetchFaults1 := (viewAt s 1).fetchFaults
    unlisted := s.fl.unlisted
    p := s.cir.p
    c := s.cir.c }

/-- The named detail QUEUE_FULL (Table 12-6). -/
def detailQueueFull : Nat := 1

/-- The named detail WRITE_FAULT (Table 12-6). -/
def detailWriteFault : Nat := 2

/-- The end of a SNAPSHOT whose record has a sequence: its COMPLETION is created (R28). -/
def endSnapshot (sequence : Nat) (a : Answer) (s : State) : State :=
  createReport (.completion sequence 0x90 a) s

/-- The start of a SNAPSHOT's operation (R28); with the pending queue full its report is dropped and it ends at once. -/
def startSnapshot (sequence : Nat) (s : State) : State :=
  if 32 ≤ s.cir.queue.length then
    endSnapshot sequence (.refused .noRoom detailQueueFull) (createReport (.snapshot sequence (snapshotValues s)) s)
  else
    createReport (.snapshot sequence (snapshotValues s))
      (s.withCir { s.cir with snapshots := s.cir.snapshots ++ [sequence] })

/-- A SNAPSHOT record taken (R28). -/
def takeSnapshot (s : State) : State :=
  startSnapshot s.cir.expected (advanceSequence s)

/-- SNAPSHOT (R28). -/
def execSnapshot (s : State) : Host.Outcome State Fault Refusal :=
  .next (takeSnapshot s)

/-! ### REPORT_WRITE_RESPONSE (R25) -/

/-- The report with a sequence, if this sent write is its write. -/
def sentReport (sequence : Nat) (w : SentWrite) : Option ReadyReport :=
  match w with
  | .report r => if r.sequence = sequence then some r else none
  | .forwarded _ => none

/-- A report write is answered: an ERROR loses the report, and the dropped count rises (R25). -/
def countLoss (ok : Bool) (s : State) : State :=
  if ok then s else s.withCir { s.cir with dropped := satAdd 65535 s.cir.dropped 1 }

/-- The operation that a written report ends: a SNAPSHOT's, by the response (R28). -/
def endOperation (r : ReadyReport) (ok : Bool) (s : State) : State :=
  match r.body with
  | .snapshot command _ =>
    endSnapshot command (if ok then .done 0 else .refused .noRoom detailWriteFault)
      (s.withCir { s.cir with snapshots := s.cir.snapshots.erase command })
  | _ => s

/-- The write response of a report write is shown to CIR (R25, R28). -/
def reportResponse (r : ReadyReport) (ok : Bool) (s : State) : State :=
  endOperation r ok (countLoss ok s)

/-- A write is no longer waiting for its response. -/
def forgetSent (i : Nat) (s : State) : State :=
  s.withTu { s.tu with sentWrites := s.tu.sentWrites.eraseIdx i }

/-- The memory answers the sent write of the report with a sequence (R25). -/
def reportWriteResponse (sequence : Nat) (ok : Bool) (s : State) : State :=
  match s.tu.sentWrites.findIdx? (fun w => (sentReport sequence w).isSome) with
  | none => s
  | some i =>
    match s.tu.sentWrites[i]? with
    | some (.report r) => reportResponse r ok (forgetSent i s)
    | _ => s

/-- REPORT_WRITE_RESPONSE (R25). -/
def execReportWriteResponse (sequence : BitVec 32) (resp : Resp) (s : State) : Host.Outcome State Fault Refusal :=
  .next (reportWriteResponse sequence.toNat (respOk resp) s)

end Sys2Proof.Machine
end

