-- ==== Sys2Proof/Machine/Reset.lean ====
section
/-! DEFINITION. The two resets: ENGINE_RESET (R29, with each unit's own effects) and HARD_RESET (R30, R11). -/

namespace Sys2Proof.Machine

/-! ### ENGINE_RESET (R29) -/

/-- SU drops every running stream and empties the closing list; the open serial is kept (R48). -/
def resetStreams (u : StreamUnit) : StreamUnit :=
  { u with table := u.table.map (fun _ => none), closing := [] }

/-- A card slot that holds a card starts a new session (R66). -/
def renewSession (c : CardSlot) : CardSlot :=
  if c.present then { c with session := (c.session + 1) % 65536 } else c

/-- CT frees every clip and starts new sessions (R66). -/
def resetClips (u : ClipTracker) : ClipTracker :=
  { clips := u.clips.map (fun _ => none), slots := u.slots.map renewSession }

/-- A frame slot after ENGINE_RESET: EMPTY with its generation kept (R83). -/
def emptiedSlot (f : FrameSlot) : FrameSlot :=
  { FrameSlot.empty with generation := f.generation }

/-- FIU empties every slot and raises the pool serial (R83). -/
def resetFrames (u : FrameInspection) : FrameInspection :=
  { u with serial := wrap32 u.serial 1, slots := u.slots.map emptiedSlot }

/-- CTU clears running fields, pairing queues and the tracker (R100). -/
def resetTracks (u : CameraTrack) : CameraTrack :=
  { u with cameras := u.cameras.map clearRunning, tracker := [], pairs := u.pairs.map (fun p => { p with queue := [] }) }

/-- A read in service that latched a pin finds it lost (R144). -/
def loseLatched (r : ServedRead) : ServedRead :=
  if r.pin.isSome then { r with pinLost := true } else r

/-- VE's effects on a view (R144). -/
def resetView (x : View) : View :=
  { x with
    pending := { x.pending with on := false, primary := 0 }
    mixReset := true
    pin := none
    reads := x.reads.map loseLatched }

/-- SH's effects on a motion context: IDLE, with position, displayed frame, direction and profile kept (R158). -/
def resetMotion (m : Motion) : Motion :=
  { m with phase := .idle, start := none, target := none, heldPhase := none, continuous := false, looping := false,
           stageCounter := 0, dwellCounter := 0, pendingLocate := none, pendingJog := 0 }

/-- Every unit's ENGINE_RESET effects, before the lamps are computed (R29). -/
def resetUnits (s : State) : State :=
  (((((((s.withSu (resetStreams s.su)).withCt (resetClips s.ct)).withFiu (resetFrames s.fiu)).withCtu
    (resetTracks s.ctu)).withFl { s.fl with records := [] }).withVe (s.ve.map resetView)).withSh
    (s.sh.map resetMotion))

/-- ENGINE_RESET (R29): the effects, then the lamps in ascending slot order. -/
def engineResetAct (s : State) : State × Answer :=
  (computeLamps (List.range 8) (resetUnits s), .done 0)

/-- An ENGINE_RESET record taken (R29). -/
def takeEngineReset (s : State) : State :=
  completeCommand 0x91 engineResetAct s

/-- ENGINE_RESET (R29). -/
def execEngineReset (s : State) : Host.Outcome State Fault Refusal :=
  .next (takeEngineReset s)

/-! ### HARD_RESET (R30) -/

/-- A card slot right after hard reset with its CARD_DET pin as it stands: a low input has its change pending set at
time base 0 (R66). -/
def CardSlot.resetWith (low : Bool) : CardSlot :=
  { CardSlot.reset with detLow := low, changePending := if low then some 0 else none }

/-- A key right after hard reset with its pin as it stands (R166). -/
def Key.resetWith (low : Bool) : Key :=
  { Key.reset with low := low, changePending := if low then some 0 else none }

/-- The forwarded reads sent on the memory port and not answered. -/
def sentReads (s : State) : Nat :=
  s.tu.book.countP (fun e => e.kind == .forwarded && e.dir == .read && e.answer.isNone &&
    !s.tu.arrival.contains (.forwarded e.tag))

/-- The look fetches sent and not returned whole. -/
def sentFetches (s : State) : Nat :=
  (List.range s.ls.length).countP (fun k => (lookSlotAt s k).state == .loading && !fetchWaiting s k)

/-- VE's own reads sent and not returned whole, for one read in service. -/
def sentOwnReads (s : State) (r : ServedRead) : Nat :=
  (List.range r.reads.length).countP (ownReadSent s r)

/-- The requests sent on the memory port and not answered, which a hard reset leaves to return to nobody (R9). -/
def unansweredRequests (s : State) : Nat :=
  s.tu.sentWrites.length + sentReads s + sentFetches s +
    ((s.ve.flatMap (fun x => x.reads)).map (sentOwnReads s)).sum

/-- HARD_RESET with the straps sampled (R30, R11): every unit takes its hard-reset state; the input pins stand as they
stood (log entry 11); responses to requests already sent will be discarded (R9). The order book and the writes under way
are emptied too (DESIGN CHOICE, log entry 25). -/
def hardReset (straps : Nat) (s : State) : State :=
  { State.reset with
    pending := s.pending
    free := s.free
    tu := { Transit.reset straps with stale := s.tu.stale + unansweredRequests s }
    ct := { ClipTracker.reset with slots := s.ct.slots.map (fun c => CardSlot.resetWith c.detLow) }
    pu := { Panel.reset with keys := s.pu.keys.map (fun k => Key.resetWith k.low), jogLines := s.pu.jogLines } }

/-- HARD_RESET (R30). -/
def execHardReset (straps : BitVec 8) (s : State) : Host.Outcome State Fault Refusal :=
  .next (hardReset straps.toNat s)

end Sys2Proof.Machine
end

