-- ==== Sys2Proof/Machine/Intake.lean ====
section
/-! DEFINITION. Command Intake (Chapter 2): the judgement of command slots (R15 to R17), the execution of a record (R19)
and the consumed count (R26); with COMMAND_RECORD_IGNORED, COMMAND_SLOT_PARTIAL, UNKNOWN_COMMAND and
CONSUMED_COUNT_WRITE. -/

namespace Sys2Proof.Machine

/-! ### UNKNOWN_COMMAND (R19) -/

/-- A record taken whose code is not in the code table (R19, R167). -/
def takeUnknown (code : Nat) (s : State) : State :=
  completeCommand code (refuse .unknownCommand) s

/-- UNKNOWN_COMMAND (R19); a code of the code table is no such event (log entry 1). -/
def execUnknownCommand (code : BitVec 16) (s : State) : Host.Outcome State Fault Refusal :=
  .next (if isCommandCode code.toNat then s else takeUnknown code.toNat s)

/-! ### The execution of a record (R19) -/

/-- A record taken is executed by the block that owns its command (R19). The rows that are no command record stand for
nothing here: `decodeRecord` never answers one. -/
def executeRecord (i : Instr) (s : State) : State :=
  match i with
  | .poolSet base count size => takePoolSet base count size s
  | .viewWindowSet view base width height => takeViewWindowSet view base width height s
  | .streamOpen clip role dest base length expected => takeStreamOpen clip role dest base length expected s
  | .streamClose stream final => takeStreamClose stream final s
  | .streamAbort stream => takeStreamAbort stream s
  | .clipOpen label slot camera required => takeClipOpen label slot camera required s
  | .clipRetire clip => takeClipRetire clip s
  | .cameraSet camera clipLevel hot base high hyst persistence reports =>
    takeCameraSet camera clipLevel hot base high hyst persistence reports s
  | .pairSet pair left right tolerance => takePairSet pair left right tolerance s
  | .zonesSet bounds colours => takeZonesSet bounds colours s
  | .trackerClear => takeTrackerClear s
  | .faultAck id => takeFaultAck id s
  | .clipFaultsAck clip => takeClipFaultsAck clip s
  | .lookLoad slot address => takeLookLoad slot address s
  | .viewOn view => takeViewOn view s
  | .viewOff view => takeViewOff view s
  | .zonesOn view => takeZonesOn view s
  | .zonesOff view => takeZonesOff view s
  | .viewSource view camera => takeViewSource view camera s
  | .viewGeometry view x0 y0 d h v => takeViewGeometry view x0 y0 d h v s
  | .lookSelect view slot rate => takeLookSelect view slot rate s
  | .bandsSet view count s1 e1 l1 s2 e2 l2 mode => takeBandsSet view count s1 e1 l1 s2 e2 l2 mode s
  | .overlaySet view address stride s1 c1 s2 c2 => takeOverlaySet view address stride s1 c1 s2 c2 s
  | .clipMarkSet view on colour => takeClipMarkSet view on colour s
  | .shuttleProfile view s0 s1 s2 s3 s4 n pre post stop => takeShuttleProfile view s0 s1 s2 s3 s4 n pre post stop s
  | .shuttleGo view distance direction => takeShuttleGo view distance direction s
  | .shuttleStop view => takeShuttleStop view s
  | .shuttleHold view => takeShuttleHold view s
  | .shuttleRelease view => takeShuttleRelease view s
  | .shuttleLocate view frame => takeShuttleLocate view frame s
  | .panelBind key action view rep => takePanelBind key action view rep s
  | .panelTiming debounce delay interval => takePanelTiming debounce delay interval s
  | .snapshot => takeSnapshot s
  | .engineReset => takeEngineReset s
  | .unknownCommand code => takeUnknown code.toNat s
  | .hardReset _ | .writeRequestAddress _ | .readRequest _ | .writeBeat _ _ | .writeResponse _ _
  | .forwardedReadData _ _ | .orderBookRelease _ _ | .arbiterSend | .preResetResponse | .reportMadeReady
  | .reportWriteResponse _ _ | .lookFetchBeat _ _ _ | .viewFetchReturn _ _ _ | .commandRecordIgnored _ _
  | .commandSlotPartial _ _ | .consumedCountWrite _ | .cardDetChange _ _ | .cardInsertion _ | .cardRemoval _
  | .keyChange _ _ | .keyPress _ | .keyRelease _ | .keyRepeat _ | .jogDetent _ _ | .timeBaseTick
  | .jogTransition _ _ => s

/-! ### Slots (R15 to R17) -/

/-- The slot that the record with a sequence belongs in, (s - 1) mod 64 (R16). -/
def slotOfSequence (sequence : Nat) : Nat :=
  (sequence + 63) % 64

/-- A fully written slot that is not taken: the cause is SEQUENCE, or SLOT when the sequence is right (R16). -/
def ignoreRecord (k sequence : Nat) (s : State) : State :=
  createReport (.ignored k (if sequence = s.cir.expected then .slot else .sequence) sequence s.cir.expected) s

/-- Whether a record with a sequence in slot k is taken (R16). -/
def isExpected (k sequence : Nat) (s : State) : Bool :=
  decide (sequence = s.cir.expected ∧ k = slotOfSequence sequence)

/-- A fully written slot is judged (R16). -/
def judgeRecord (k : Nat) (record : BitVec 512) (s : State) : State :=
  if isExpected k (recordSequence record).toNat s then executeRecord (decodeRecord record) s
  else ignoreRecord k (recordSequence record).toNat s

/-- A partly written slot is judged, with the sequence seen (R17). -/
def judgePartial (k seen : Nat) (s : State) : State :=
  createReport (.ignored k .partly seen s.cir.expected) s

/-- The sequence seen in a partly written slot: unwritten bytes are 0 (R17). -/
def sequenceSeen (first : Option WriteBeat) : Nat :=
  match first with
  | none => 0
  | some b => maskedWord b.data b.strobes 0

/-- A slot that a request touches is judged from those of its two beats that the request holds (R15). -/
def judgeSlot (k : Nat) (first second : Option WriteBeat) (s : State) : State :=
  match first, second with
  | some a, some b =>
    if fullStrobes a.strobes && fullStrobes b.strobes then judgeRecord k (recordOf a.data b.data) s
    else judgePartial k (sequenceSeen first) s
  | _, _ => judgePartial k (sequenceSeen first) s

/-- The beat of a request at an address, from those that have arrived. -/
def beatAt (req : Request) (beats : List WriteBeat) (a : Nat) : Option WriteBeat :=
  if req.addr.toNat ≤ a then beats[(a - req.addr.toNat) / 32]? else none

/-- The slots that a request touches, up to its last ring beat at address `last`, in order (R15). -/
def slotsTouched (ring : Nat) (req : Request) (last : Nat) : List Nat :=
  let low := (max req.addr.toNat ring - ring) / 64
  (List.range ((last - ring) / 64 + 1 - low)).map (fun i => low + i)

/-- The command-ring part of a request is judged, its last ring beat having arrived (R15). -/
def judgeRing (ring : Nat) (req : Request) (beats : List WriteBeat) (last : Nat) (s : State) : State :=
  (slotsTouched ring req last).foldl
    (fun t k => judgeSlot k (beatAt req beats (ring + 64 * k)) (beatAt req beats (ring + 64 * k + 32)) t) s

/-- The `i`-th beat of a request falls in the command ring: the judgement waits for the last such beat (R15). -/
def ringBeat (req : Request) (beats : List WriteBeat) (i : Nat) (s : State) : State :=
  let ring := (controlPage s).base
  if i + 1 < beatCount req ∧ beatAddress req i + 32 < ring + 4096 then s
  else judgeRing ring req beats (beatAddress req i) s

/-- COMMAND_RECORD_IGNORED (R16); a record that would be taken is no such event (log entry 1). -/
def execCommandRecordIgnored (slot : Fin 64) (sequence : BitVec 32) (s : State) : Host.Outcome State Fault Refusal :=
  .next (if isExpected slot.val sequence.toNat s then s else ignoreRecord slot.val sequence.toNat s)

/-- COMMAND_SLOT_PARTIAL (R17). -/
def execCommandSlotPartial (slot : Fin 64) (seen : BitVec 32) (s : State) : Host.Outcome State Fault Refusal :=
  .next (judgePartial slot.val seen.toNat s)

/-! ### The consumed count (R26) -/

/-- C after a consumed count v is written (R26): v, or P when v lies beyond P, or C as it stands when v lies behind. -/
def consumedAfter (s : State) (v : Nat) : Nat :=
  let d := (two32 + v - s.cir.c) % two32
  if d ≤ reportsOutstanding s then v
  else if d < 2147483648 then s.cir.p
  else s.cir.c

/-- The server's consumed count is taken, and R24's conditions are tested again (R26). -/
def consumedCount (v : Nat) (s : State) : State :=
  makeReady (s.withCir { s.cir with c := consumedAfter s v })

/-- A beat to the consumed line: it acts when it is the line's first beat with the count's four strobes set (R26). -/
def consumedBeat (a : Nat) (d : BeatData) (st : Strobes) (s : State) : State :=
  if a = (controlPage s).base + 8128 ∧ st.toNat % 16 = 15 then consumedCount (beatField d 0 32) s else s

/-- CONSUMED_COUNT_WRITE (R26). -/
def execConsumedCountWrite (count : BitVec 32) (s : State) : Host.Outcome State Fault Refusal :=
  .next (consumedCount count.toNat s)

end Sys2Proof.Machine
end

