-- ==== Sys2Proof/Machine/Reports.lean ====
section
/-! DEFINITION. The 64-byte report records (Section 12.3): the header of Table 12-4, the payloads of Table 12-5 and the
codes of Tables 12-3 and 12-6 (R168), as the two beats of a report write. -/

namespace Sys2Proof.Machine

/-! ### Packing (Section 12.1) -/

/-- An absent one-byte identifier is written 0xFF (Section 12.1; log entry 15). -/
def identifier (x : Option Nat) : Nat :=
  x.getD 255

/-- Any other absent field is written 0 (Section 12.1). -/
def orZero (x : Option Nat) : Nat :=
  x.getD 0

/-- A flag as a number. -/
def bit (b : Bool) : Nat :=
  if b then 1 else 0

/-! ### Codes (Tables 12-3, 12-6) -/

/-- COMPLETION reasons. -/
def reasonCode : Reason → Nat
  | .unknownCommand => 1
  | .badArgument => 2
  | .noRoom => 3
  | .overlap => 4
  | .busy => 5
  | .unknownClip => 6
  | .unknownStream => 7
  | .wrongState => 8
  | .alreadyVerified => 9
  | .noCard => 10
  | .notConfigured => 11

/-- IGNORED causes. -/
def ignoreCode : IgnoreCause → Nat
  | .sequence => 0
  | .slot => 1
  | .partly => 2

/-- Stream roles (Table 12-3). -/
def roleCode : Role → Nat
  | .source => 0
  | .dest _ => 1

/-- The destination index of a role, absent for SOURCE. -/
def destinationOf : Role → Option Nat
  | .source => none
  | .dest d => some d

/-- STREAM_END outcomes. -/
def outcomeCode : StreamOutcome → Nat
  | .good => 0
  | .disordered => 1
  | .overrun => 2
  | .length => 3
  | .aborted => 4
  | .faulted => 5

/-- CLIP_STATE states; an absent state is FREE. -/
def clipStateCode : Option ClipState → Nat
  | none => 0
  | some .opened => 1
  | some .sourced => 2
  | some .verified => 3
  | some .spoiled => 4

/-- CLIP_STATE causes. -/
def clipCauseCode : ClipCause → Nat
  | .opened => 0
  | .sourceFinal => 1
  | .sourceFailed => 2
  | .sourceReopened => 3
  | .verified => 4
  | .held => 5
  | .verdict => 6
  | .retired => 7

/-- CLIP_STATE verdicts, with bit 7 set when a result is held. -/
def verdictCode (x : Dest) : Nat :=
  (match x.verdict with
    | .unset => 0
    | .pending => 1
    | .matched => 2
    | .mismatch => 3
    | .unverifiable => 4) + 128 * bit x.held.isSome

/-- Lamps. -/
def lampCode : Lamp → Nat
  | .off => 0
  | .amber => 1
  | .amberFlash => 2
  | .green => 3
  | .red => 4

/-- FAULT kinds. -/
def faultCode : FaultKind → Nat
  | .gap => 1
  | .duplicateNumber => 2
  | .backstep => 3
  | .tcBreak => 4
  | .tcInvalid => 5
  | .frozenFrame => 6
  | .exposureClip => 7
  | .stuckPixel => 8
  | .stereoUnpaired => 9
  | .stereoExposure => 10
  | .frameGeometry => 11
  | .frameHeader => 12
  | .frameAbandoned => 13
  | .frameOverwrite => 14
  | .frameWriteFault => 15
  | .cameraUnknown => 16
  | .orphanFrame => 17
  | .sourceUnverifiable => 18
  | .cardPulled => 19
  | .copyMismatch => 20
  | .copyWriteFault => 21

/-- FAULT severities. -/
def severityCode : Severity → Nat
  | .note => 0
  | .warn => 1
  | .critical => 2

/-- FRAME eyes. -/
def eyeCode : Eye → Nat
  | .mono => 0
  | .left => 1
  | .right => 2

/-- PANEL events. -/
def panelEventCode : PanelEvent → Nat
  | .down => 0
  | .up => 1
  | .rep => 2
  | .detent => 3

/-- Panel actions (Table 12-3). -/
def actionCode : PanelAction → Nat
  | .nothing => 0
  | .lookNext => 1
  | .shuttleFwd => 2
  | .shuttleRev => 3
  | .shuttleStop => 4
  | .holdToggle => 5
  | .faultNext => 6
  | .faultPrev => 7
  | .ackHere => 8
  | .zonesToggle => 9
  | .bandsToggle => 10

/-- Directions (Table 12-3). -/
def directionCode : Direction → Nat
  | .forward => 0
  | .reverse => 1

/-- VIEW kinds. -/
def viewKindCode : ViewKind → Nat
  | .bandsClamped => 0
  | .overlayClamped => 1
  | .fetchFault => 2
  | .slotLost => 3
  | .arrived => 4

/-! ### Payloads (Table 12-5) -/

/-- The outcome, reason, field number clamped and detail of a COMPLETION. -/
def answerFields : Answer → List (Nat × Nat)
  | .done d => [(1, 0), (1, 0), (1, 0), (4, d)]
  | .clamped f d => [(1, 1), (1, 0), (1, f), (4, d)]
  | .refused r d => [(1, 2), (1, reasonCode r), (1, 0), (4, d)]

/-- A timecode's four bytes. -/
def timecodeFields (t : Timecode) : List (Nat × Nat) :=
  [(1, t.hh), (1, t.mm), (1, t.ss), (1, t.ff)]

/-- The payload of a CLIP_STATE report. -/
def clipStateFields (i : Nat) (c : Clip) (old new : Option ClipState) (cause : ClipCause) : List (Nat × Nat) :=
  [(1, i), (4, c.label), (1, c.slot), (2, c.session), (1, c.camera), (1, c.required), (1, clipStateCode old),
    (1, clipStateCode new), (1, clipCauseCode cause)] ++ c.dests.map (fun x => (1, verdictCode x)) ++
  [(1, c.matchCount), (4, c.frames), (2, c.critOpen), (2, c.warnCount)]

/-- The presence byte of a FAULT report. -/
def faultPresence (r : FaultRecord) (evicted : Option Nat) (counts : Option (Nat × Nat)) : Nat :=
  bit r.frame.isSome + 2 * bit r.position.isSome + 4 * bit evicted.isSome + 8 * bit counts.isSome

/-- The payload of a FAULT report. -/
def faultFields (r : FaultRecord) (listed : Bool) (evicted : Option Nat) (counts : Option (Nat × Nat)) :
    List (Nat × Nat) :=
  [(4, r.id), (1, faultCode r.kind), (1, severityCode (severityOf r.kind)), (1, identifier r.camera),
    (1, identifier r.clip), (1, bit listed), (1, faultPresence r evicted counts),
    (4, orZero (r.frame.map (fun x => x.1)))] ++
  timecodeFields ((r.frame.map (fun x => x.2)).getD { hh := 0, mm := 0, ss := 0, ff := 0 }) ++
  [(2, orZero (r.position.map (fun x => x.1))), (2, orZero (r.position.map (fun x => x.2))), (4, r.detail),
    (4, orZero evicted), (2, orZero (counts.map (fun x => x.1))), (2, orZero (counts.map (fun x => x.2)))]

/-- The payload of a FRAME report. -/
def frameFields (slot : Nat) (f : FrameSlot) (clipFraction mean : Nat) : List (Nat × Nat) :=
  [(1, slot), (1, f.generation), (1, f.camera), (1, eyeCode f.eye), (1, identifier f.clip), (4, f.frame)] ++
  timecodeFields f.timecode ++ f.zones.map (fun n => (4, n)) ++
  [(2, clipFraction), (2, mean), (4, f.signature), (1, f.candidates.length + 128 * bit f.candidatesOver)]

/-- The payload of a SNAPSHOT report. -/
def snapshotFields (x : SnapshotValues) : List (Nat × Nat) :=
  [(1, x.streams), (1, x.clips), (2, x.filling), (2, x.complete), (2, x.bad), (2, x.faults), (1, x.tracker),
    (1, x.pendingReports), (4, x.stray), (2, x.framesDropped), (4, x.fetchFaults0), (4, x.fetchFaults1),
    (4, x.unlisted), (4, x.p), (4, x.c)]

/-- The kind and payload of a report (Tables 12-4, 12-5). -/
def reportFields : ReportBody → Nat × List (Nat × Nat)
  | .completion sequence code answer => (1, [(4, sequence), (2, code)] ++ answerFields answer)
  | .ignored slot cause seen expected => (2, [(1, slot), (1, ignoreCode cause), (4, seen), (4, expected)])
  | .streamEnd stream clip role outcome tailSeen bytes expected fingerprint offending =>
    (3, [(1, stream), (1, clip), (1, roleCode role), (1, identifier (destinationOf role)), (1, outcomeCode outcome),
      (1, bit tailSeen), (6, bytes), (6, expected), (8, orZero fingerprint), (8, orZero offending)])
  | .clipState index clip old new cause => (4, clipStateFields index clip old new cause)
  | .lamp slot old new session => (5, [(1, slot), (1, lampCode old), (1, lampCode new), (2, session)])
  | .fault record listed evicted counts => (6, faultFields record listed evicted counts)
  | .frame slot record clipFraction mean => (7, frameFields slot record clipFraction mean)
  | .panel key event action view direction result held =>
    (8, [(1, key), (1, panelEventCode event), (1, actionCode action), (1, identifier view),
      (1, orZero (direction.map directionCode)), (1, bit result.isSome + 2 * bit held.isSome), (4, orZero result),
      (4, orZero held)])
  | .view view kind frameCount pin detail =>
    (9, [(1, view), (1, viewKindCode kind), (4, frameCount), (1, identifier (pin.map (fun p => p.slot))),
      (1, orZero (pin.map (fun p => p.generation))), (4, orZero (pin.map (fun p => p.frame))), (4, detail)])
  | .snapshot _ values => (10, snapshotFields values)

/-- The report header (Table 12-4). -/
def headerFields (r : ReadyReport) : List (Nat × Nat) :=
  [(4, r.sequence), (1, (reportFields r.body).1), (1, 0), (2, r.dropped), (4, r.time), (4, 0)]

/-- The 64 bytes of a report record as one number, byte 0 least significant. -/
def reportRecord (r : ReadyReport) : Nat :=
  packFields (headerFields r ++ (reportFields r.body).2)

/-- The first beat of a report write. -/
def reportFirst (r : ReadyReport) : BeatData :=
  BitVec.ofNat 256 (reportRecord r)

/-- The second beat of a report write. -/
def reportSecond (r : ReadyReport) : BeatData :=
  BitVec.ofNat 256 (reportRecord r >>> 256)

end Sys2Proof.Machine
end

