-- ==== Sys2Proof/Machine/Transit.lean ====
section
/-! DEFINITION. The Transit Unit (Chapter 1): request addresses (R3 to R5, R7), write data beats on both ports (R2, R5),
responses (R5 to R8), the order book's release (R7) and the memory-port arbiter (R9). -/

namespace Sys2Proof.Machine

/-! ### The order book (R7) -/

/-- Whether the order book holds 64 entries, so that no further request address is accepted (R7). -/
def bookFull (s : State) : Bool :=
  decide (64 ≤ s.tu.book.length)

/-- A new entry of the order book. -/
def newEntry (s : State) (dir : Dir) (req : Request) (kind : EntryKind) (answer : Option UpAnswer) : BookEntry :=
  { tag := s.tu.nextTag, dir := dir, req := req, kind := kind, writeBeats := [], readBeats := [], marks := [],
    answer := answer }

/-- A request takes its place in the order book, with the next tag (R7). -/
def enterBook (dir : Dir) (req : Request) (kind : EntryKind) (answer : Option UpAnswer) (s : State) : State :=
  s.withTu { s.tu with book := s.tu.book ++ [newEntry s dir req kind answer], nextTag := s.tu.nextTag + 1 }

/-- The entry with a tag. -/
def entryOf (s : State) (tag : Nat) : Option BookEntry :=
  s.tu.book.find? (fun e => e.tag == tag)

/-- Change the entry with a tag. -/
def changeEntry (tag : Nat) (f : BookEntry → BookEntry) (s : State) : State :=
  s.withTu { s.tu with book := s.tu.book.map (fun e => if e.tag = tag then f e else e) }

/-- The NL30's ERROR answer to a request (R1, R3): one zero beat per requested beat for a read. -/
def errorAnswer (dir : Dir) (req : Request) : UpAnswer :=
  match dir with
  | .write => .write .slverr
  | .read => .read (List.replicate (beatCount req) { data := 0, resp := .slverr })

/-! ### Request addresses (R3 to R5) -/

/-- What an untapped request does to the owners of the windows it touches (R4, R37, R75), whether it is then forwarded or, as
one that touches a view window too, answered ERROR (R3). -/
def untappedEffect (req : Request) (s : State) : State :=
  if isTapped req then s
  else
    let t := untappedStreams req s
    if touchesPool s req then countStray t else t

/-- A request is forwarded: it enters the order book and joins the tail of the arrival-ordered queue (R5). -/
def forwardRequest (dir : Dir) (req : Request) (s : State) : State :=
  let tag := s.tu.nextTag
  let t := enterBook dir req .forwarded none s
  t.withTu { t.tu with arrival := t.tu.arrival ++ [.forwarded tag] }

/-- A write request whose data beats are to come (R2, R67). -/
def awaitData (req : Request) (discard : Bool) (tag : Nat) (s : State) : State :=
  s.withTu { s.tu with inWrites := s.tu.inWrites ++ [{ tag := tag, req := req, discard := discard, arrived := 0 }] }

/-- A write request address arrives upstream (R3, R4, R5); with the order book full it is not accepted (log entry 6). -/
def writeAddress (req : Request) (s : State) : State :=
  if bookFull s then s
  else if touchesView s req then
    awaitData req true s.tu.nextTag
      (enterBook .write req .answered (some (errorAnswer .write req)) (untappedEffect req s))
  else awaitData req false s.tu.nextTag (forwardRequest .write req (untappedEffect req s))

/-- WRITE_REQUEST_ADDRESS (R5). -/
def execWriteRequestAddress (req : Request) (s : State) : Host.Outcome State Fault Refusal :=
  .next (writeAddress req s)

/-- Whether every beat of a tapped request lies in a window (R3). -/
def liesIn (req : Request) (w : Span) : Bool :=
  decide (w.base ≤ req.addr.toNat ∧ req.addr.toNat + 32 * beatCount req ≤ w.base + w.size)

/-- The view window that a tapped read lies in whole and in one row of, if any, with its index (R3). -/
def servedBy (s : State) (req : Request) : Option (Nat × ViewWindow) :=
  (([0, 1] : List Nat).filterMap (fun v => (viewAt s v).window.map (fun w => (v, w)))).find? (fun x =>
    liesIn req (viewSpan x.2) &&
      (beatAddress req 0 - x.2.base) / x.2.stride == (beatAddress req (beatCount req - 1) - x.2.base) / x.2.stride)

/-- A read that touches a view window is settled as a whole (R3): handed to VE, or answered ERROR. -/
def settleViewRead (req : Request) (s : State) : State :=
  match servedBy s req with
  | some x =>
    if isTapped req then
      let o := req.addr.toNat - x.2.base
      viewRead x.1 s.tu.nextTag (o / x.2.stride) (o % x.2.stride / 4) (beatCount req) x.2
        (enterBook .read req .viewRead none s)
    else enterBook .read req .answered (some (errorAnswer .read req)) s
  | none => enterBook .read req .answered (some (errorAnswer .read req)) s

/-- A read request address arrives upstream (R3, R4, R5); with the order book full it is not accepted (log entry 6). -/
def readAddress (req : Request) (s : State) : State :=
  if bookFull s then s
  else if touchesView s req then settleViewRead req (untappedEffect req s)
  else forwardRequest .read req (untappedEffect req s)

/-- READ_REQUEST (R3, R5). -/
def execReadRequest (req : Request) (s : State) : Host.Outcome State Fault Refusal :=
  .next (readAddress req s)

/-! ### Write data beats (R2) -/

/-- A tapped write beat is handed to the owner of the window it falls in (R2, Table 1-4): the `i`-th beat of a request,
with the request's beats so far and its tags; the answer is the tag to add. -/
def routeBeat (req : Request) (beats : List WriteBeat) (marks : List Mark) (i : Nat) (b : WriteBeat) (s : State) :
    State × Option Mark :=
  match ownerOf s (beatAddress req i) with
  | .commandRing => (ringBeat req beats i s, none)
  | .reportRing => (s, none)
  | .consumedLine => (consumedBeat (beatAddress req i) b.data b.strobes s, none)
  | .pool =>
    match s.fiu.pool with
    | some p => poolBeat req beats i b.data b.strobes p s
    | none => (s, none)
  | .stream id => streamBeat id (beatAddress req i) b.data b.strobes marks s
  | .view _ => (s, none)
  | .nowhere => (s, none)

/-- Tag a request, once for each tag (R35, R79). -/
def addMark (tag : Nat) (m : Option Mark) (s : State) : State :=
  match m with
  | none => s
  | some x => changeEntry tag (fun e => if e.marks.contains x then e else { e with marks := e.marks ++ [x] }) s

/-- The front of the write requests after a beat of it has arrived: removed at its last beat. -/
def countArrival (w : InWrite) (rest : List InWrite) : List InWrite :=
  if w.arrived + 1 < beatCount w.req then { w with arrived := w.arrived + 1 } :: rest else rest

/-- The data beats of a sent write that have arrived, with the number of beats it has (R5): a forwarded write's own,
strobes and data unchanged; the two full beats of a report write. -/
def dataOf (s : State) : SentWrite → List WriteBeat × Nat
  | .forwarded tag =>
    match entryOf s tag with
    | some e => (e.writeBeats, beatCount e.req)
    | none => ([], 0)
  | .report r =>
    ([{ data := reportFirst r, strobes := BitVec.allOnes 32 }, { data := reportSecond r, strobes := BitVec.allOnes 32 }], 2)

/-- The write data that can be sent, and what is left to send: the writes in the order in which they were sent, each one's
beats in order (R5), up to the first write with beats still to arrive. -/
def dataReady (s : State) : List DataWrite → List WriteBeat × List DataWrite
  | [] => ([], [])
  | d :: rest =>
    let x := dataOf s d.write
    if x.1.length < x.2 then (x.1.drop d.sent, { d with sent := x.1.length } :: rest)
    else (x.1.drop d.sent ++ (dataReady s rest).1, (dataReady s rest).2)

/-- The memory port's write data channel takes every beat that can be sent (R5; when it does is log entry 14). -/
def driveData (s : State) : State :=
  let r := dataReady s s.tu.dataQueue
  s.withTu { s.tu with dataQueue := r.2, memData := if r.1.isEmpty then s.tu.memData else r.1 }

/-- A data beat of a forwarded write arrives (R2, R5): it is kept, sent on as far as the order of the writes allows, and, if
tapped, handed to its owner. -/
def forwardedBeat (w : InWrite) (b : WriteBeat) (s : State) : State :=
  let t := driveData (changeEntry w.tag (fun e => { e with writeBeats := e.writeBeats ++ [b] }) s)
  match entryOf t w.tag with
  | none => t
  | some e =>
    if isTapped w.req then
      let r := routeBeat w.req e.writeBeats e.marks w.arrived b t
      addMark w.tag r.2 r.1
    else t

/-- The next write data beat arrives upstream (R2): of the oldest write request whose data has not all arrived
(log entry 8). -/
def dataBeat (b : WriteBeat) (s : State) : State :=
  match s.tu.inWrites with
  | [] => s
  | w :: rest =>
    let t := s.withTu { s.tu with inWrites := countArrival w rest }
    if w.discard then t else forwardedBeat w b t

/-- WRITE_BEAT (R2). -/
def execWriteBeat (data : BeatData) (strobes : Strobes) (s : State) : Host.Outcome State Fault Refusal :=
  .next (dataBeat { data := data, strobes := strobes } s)

/-! ### Responses from memory (R5, R6, R9) -/

/-- Whether a sent write is a forwarded one with an ID. -/
def isSentWrite (s : State) (id : Nat) (w : SentWrite) : Bool :=
  match w with
  | .forwarded tag => (entryOf s tag).any (fun e => e.req.id == id)
  | .report _ => false

/-- A write response is shown to the owner of one of a request's tags (R5, R44, R45, R79). -/
def showMark (ok : Bool) (m : Mark) (s : State) : State :=
  match m with
  | .stream serial => streamResponse serial ok s
  | .frame serial slot generation => frameResponse serial slot generation ok s

/-- A write response is shown to the owners of a request's tags, in an order the spec leaves open (R5; log entry 9). -/
def showOwners (marks : List Mark) (ok : Bool) (s : State) : State :=
  let c := chooseOrder marks s
  c.1.foldl (fun t m => showMark ok m t) c.2

/-- Whether the data beats of a write have all arrived. -/
def dataArrived (s : State) (tag : Nat) : Bool :=
  s.tu.inWrites.all (fun w => w.tag != tag)

/-- The response of a forwarded write returns: it is placed in the order book and shown to the owners (R5). -/
def returnWrite (tag i : Nat) (resp : Resp) (s : State) : State :=
  match entryOf s tag with
  | none => s
  | some e =>
    if dataArrived s tag then showOwners e.marks (respOk resp) (setAnswer tag (.write resp) (forgetSent i s)) else s

/-- The memory answers the oldest sent forwarded write with an ID (R5; log entry 4). -/
def writeResponse (id : Nat) (resp : Resp) (s : State) : State :=
  match s.tu.sentWrites.findIdx? (isSentWrite s id) with
  | none => s
  | some i =>
    match s.tu.sentWrites[i]? with
    | some (.forwarded tag) => returnWrite tag i resp s
    | _ => s

/-- WRITE_RESPONSE (R5). -/
def execWriteResponse (id : Nat) (resp : Resp) (s : State) : Host.Outcome State Fault Refusal :=
  .next (writeResponse id resp s)

/-- Whether an entry is a forwarded read with an ID that was sent and is not answered. -/
def awaitsRead (s : State) (id : Nat) (e : BookEntry) : Bool :=
  e.kind == .forwarded && e.dir == .read && e.req.id == id && e.answer.isNone && !s.tu.arrival.contains (.forwarded e.tag)

/-- An entry with more read data; its response is ready when every beat has returned (R6). -/
def addReadData (beats : List ReadBeat) (e : BookEntry) : BookEntry :=
  let d := (e.readBeats ++ beats).take (beatCount e.req)
  { e with readBeats := d, answer := if d.length = beatCount e.req then some (.read d) else none }

/-- Data of the oldest sent forwarded read with an ID returns (R6; log entry 4). -/
def readData (id : Nat) (beats : List ReadBeat) (s : State) : State :=
  match s.tu.book.find? (awaitsRead s id) with
  | none => s
  | some e => changeEntry e.tag (addReadData beats) s

/-- FORWARDED_READ_DATA (R6). -/
def execForwardedReadData (id : Nat) (beats : List ReadBeat) (s : State) : Host.Outcome State Fault Refusal :=
  .next (readData id beats s)

/-- A response to a request sent before a hard reset is discarded (R9). -/
def preResetResponse (s : State) : State :=
  s.withTu { s.tu with stale := s.tu.stale - 1 }

/-- PRE_RESET_RESPONSE (R9). -/
def execPreResetResponse (s : State) : Host.Outcome State Fault Refusal :=
  .next (preResetResponse s)

/-! ### Release upstream (R7) -/

/-- Whether an entry has a direction and an ID. -/
def inOrder (dir : Dir) (id : Nat) (e : BookEntry) : Bool :=
  e.dir == dir && e.req.id == id

/-- The first entry with a direction and an ID leaves upstream, if its response is ready (R7). -/
def releaseEntry (dir : Dir) (id : Nat) (s : State) : State :=
  match s.tu.book.find? (inOrder dir id) with
  | none => s
  | some e =>
    match e.answer with
    | none => s
    | some a =>
      s.withTu { s.tu with book := s.tu.book.eraseP (inOrder dir id), upOut := some { dir := dir, id := id, answer := a } }

/-- ORDER_BOOK_RELEASE (R7). -/
def execOrderBookRelease (dir : Dir) (id : Nat) (s : State) : Host.Outcome State Fault Refusal :=
  .next (releaseEntry dir id s)

/-! ### The arbiter (R9) -/

/-- The address of report ring slot w (Table 12-1). -/
def reportAddress (s : State) (w : Nat) : Nat :=
  (controlPage s).base + 4096 + 64 * w

/-- The request that a background item is (R8). -/
def backgroundRequest (s : State) : BackgroundItem → MemRequest
  | .report r => .reportWrite (reportAddress s r.slot) (reportFirst r) (reportSecond r)
  | .lookFetch _ address => .lookFetch address

/-- The write that a background item is, if it is one. -/
def writesOf : BackgroundItem → List SentWrite
  | .report r => [.report r]
  | .lookFetch _ _ => []

/-- The writes whose data is to be sent, after a list of writes was sent (R5). -/
def dataAfter (l : List DataWrite) (sent : List SentWrite) : List DataWrite :=
  l ++ sent.map (fun w => { write := w, sent := 0 })

/-- The oldest background request is sent, and the run count returns to 0; a report write sent lets the next report be
made ready (R9, R24), and its data follows it (R5). -/
def sendBackground (b : BackgroundItem) (rest : List BackgroundItem) (s : State) : State :=
  makeReady (driveData (s.withTu { s.tu with
    background := rest, runCount := 0, sentWrites := s.tu.sentWrites ++ writesOf b
    dataQueue := dataAfter s.tu.dataQueue (writesOf b), memOut := some (backgroundRequest s b) }))

/-- The own read `index` of the view read with a tag. -/
def ownReadOf (s : State) (tag index : Nat) : Option OwnRead :=
  (((s.ve.flatMap (fun x => x.reads)).find? (fun r => r.tag == tag)).map (fun r => r.reads)).bind (fun l => l[index]?)

/-- The request that an entry of the arrival-ordered queue is (R5, R8). -/
def arrivalRequest (s : State) : ArrivalItem → Option MemRequest
  | .forwarded tag => (entryOf s tag).map (fun e => .forwarded e.dir e.req)
  | .viewRead tag index => (ownReadOf s tag index).map (fun o => .viewRead o.addr o.beats)

/-- The write that an entry of the arrival-ordered queue is, if it is one. -/
def forwardedWrites (s : State) : ArrivalItem → List SentWrite
  | .forwarded tag => if (entryOf s tag).any (fun e => e.dir == .write) then [.forwarded tag] else []
  | .viewRead _ _ => []

/-- The head of the arrival-ordered queue is sent, and the run count rises by 1 (R9); a write's data follows it (R5). -/
def sendArrival (a : ArrivalItem) (rest : List ArrivalItem) (s : State) : State :=
  driveData (s.withTu { s.tu with
    arrival := rest, runCount := s.tu.runCount + 1, sentWrites := s.tu.sentWrites ++ forwardedWrites s a
    dataQueue := dataAfter s.tu.dataQueue (forwardedWrites s a), memOut := arrivalRequest s a })

/-- The memory port's request channel is free: the arbiter sends one request by R9, or nothing. -/
def arbiterSend (s : State) : State :=
  match s.tu.background, s.tu.arrival with
  | [], [] => s
  | b :: bs, [] => sendBackground b bs s
  | [], a :: as => sendArrival a as s
  | b :: bs, a :: as => if 8 ≤ s.tu.runCount then sendBackground b bs s else sendArrival a as s

/-- ARBITER_SEND (R9). -/
def execArbiterSend (s : State) : Host.Outcome State Fault Refusal :=
  .next (arbiterSend s)

end Sys2Proof.Machine
end

