-- ==== Sys2Proof/Machine/Dispatch.lean ====
section
/-! DEFINITION. The dispatch: one arm for each row of spec/opcode_table.json, each one call of its meaning. -/

namespace Sys2Proof.Machine

/-- The effect of a command on everything but the queue of waiting commands. -/
def exec (i : Instr) (s : State) : Host.Outcome State Fault Refusal :=
  match i with
  | .hardReset straps => Sys2Proof.Machine.execHardReset straps s
  | .writeRequestAddress req => Sys2Proof.Machine.execWriteRequestAddress req s
  | .readRequest req => Sys2Proof.Machine.execReadRequest req s
  | .writeBeat data strobes => Sys2Proof.Machine.execWriteBeat data strobes s
  | .writeResponse id resp => Sys2Proof.Machine.execWriteResponse id resp s
  | .forwardedReadData id beats => Sys2Proof.Machine.execForwardedReadData id beats s
  | .orderBookRelease dir id => Sys2Proof.Machine.execOrderBookRelease dir id s
  | .arbiterSend => Sys2Proof.Machine.execArbiterSend s
  | .preResetResponse => Sys2Proof.Machine.execPreResetResponse s
  | .reportMadeReady => Sys2Proof.Machine.execReportMadeReady s
  | .reportWriteResponse sequence resp => Sys2Proof.Machine.execReportWriteResponse sequence resp s
  | .lookFetchBeat slot data resp => Sys2Proof.Machine.execLookFetchBeat slot data resp s
  | .viewFetchReturn read index beats => Sys2Proof.Machine.execViewFetchReturn read index beats s
  | .commandRecordIgnored slot sequence => Sys2Proof.Machine.execCommandRecordIgnored slot sequence s
  | .commandSlotPartial slot seen => Sys2Proof.Machine.execCommandSlotPartial slot seen s
  | .consumedCountWrite count => Sys2Proof.Machine.execConsumedCountWrite count s
  | .unknownCommand code => Sys2Proof.Machine.execUnknownCommand code s
  | .poolSet base slotCount slotSize => Sys2Proof.Machine.execPoolSet base slotCount slotSize s
  | .viewWindowSet view base width height => Sys2Proof.Machine.execViewWindowSet view base width height s
  | .streamOpen clip role destination base length expected => Sys2Proof.Machine.execStreamOpen clip role destination base length expected s
  | .streamClose stream finalLength => Sys2Proof.Machine.execStreamClose stream finalLength s
  | .streamAbort stream => Sys2Proof.Machine.execStreamAbort stream s
  | .clipOpen label slot camera required => Sys2Proof.Machine.execClipOpen label slot camera required s
  | .clipRetire clip => Sys2Proof.Machine.execClipRetire clip s
  | .cameraSet camera clipLevel hotLevel base exposureHigh hysteresis persistence frameReports => Sys2Proof.Machine.execCameraSet camera clipLevel hotLevel base exposureHigh hysteresis persistence frameReports s
  | .pairSet pair left right tolerance => Sys2Proof.Machine.execPairSet pair left right tolerance s
  | .zonesSet bounds colours => Sys2Proof.Machine.execZonesSet bounds colours s
  | .trackerClear => Sys2Proof.Machine.execTrackerClear s
  | .faultAck id => Sys2Proof.Machine.execFaultAck id s
  | .clipFaultsAck clip => Sys2Proof.Machine.execClipFaultsAck clip s
  | .lookLoad slot address => Sys2Proof.Machine.execLookLoad slot address s
  | .viewOn view => Sys2Proof.Machine.execViewOn view s
  | .viewOff view => Sys2Proof.Machine.execViewOff view s
  | .zonesOn view => Sys2Proof.Machine.execZonesOn view s
  | .zonesOff view => Sys2Proof.Machine.execZonesOff view s
  | .viewSource view camera => Sys2Proof.Machine.execViewSource view camera s
  | .viewGeometry view x0 y0 decimation hFlip vFlip => Sys2Proof.Machine.execViewGeometry view x0 y0 decimation hFlip vFlip s
  | .lookSelect view slot rate => Sys2Proof.Machine.execLookSelect view slot rate s
  | .bandsSet view count start1 end1 look1 start2 end2 look2 mode => Sys2Proof.Machine.execBandsSet view count start1 end1 look1 start2 end2 look2 mode s
  | .overlaySet view address stride start1 count1 start2 count2 => Sys2Proof.Machine.execOverlaySet view address stride start1 count1 start2 count2 s
  | .clipMarkSet view on colour => Sys2Proof.Machine.execClipMarkSet view on colour s
  | .shuttleProfile view s0 s1 s2 s3 s4 n preDwell postDwell stopOnFault => Sys2Proof.Machine.execShuttleProfile view s0 s1 s2 s3 s4 n preDwell postDwell stopOnFault s
  | .shuttleGo view distance direction => Sys2Proof.Machine.execShuttleGo view distance direction s
  | .shuttleStop view => Sys2Proof.Machine.execShuttleStop view s
  | .shuttleHold view => Sys2Proof.Machine.execShuttleHold view s
  | .shuttleRelease view => Sys2Proof.Machine.execShuttleRelease view s
  | .shuttleLocate view frame => Sys2Proof.Machine.execShuttleLocate view frame s
  | .panelBind key action view rep => Sys2Proof.Machine.execPanelBind key action view rep s
  | .panelTiming debounce delay interval => Sys2Proof.Machine.execPanelTiming debounce delay interval s
  | .snapshot => Sys2Proof.Machine.execSnapshot s
  | .engineReset => Sys2Proof.Machine.execEngineReset s
  | .cardDetChange slot low => Sys2Proof.Machine.execCardDetChange slot low s
  | .cardInsertion slot => Sys2Proof.Machine.execCardInsertion slot s
  | .cardRemoval slot => Sys2Proof.Machine.execCardRemoval slot s
  | .keyChange key low => Sys2Proof.Machine.execKeyChange key low s
  | .keyPress key => Sys2Proof.Machine.execKeyPress key s
  | .keyRelease key => Sys2Proof.Machine.execKeyRelease key s
  | .keyRepeat key => Sys2Proof.Machine.execKeyRepeat key s
  | .jogDetent a b => Sys2Proof.Machine.execJogDetent a b s
  | .timeBaseTick => Sys2Proof.Machine.execTimeBaseTick s
  | .jogTransition a b => Sys2Proof.Machine.execJogTransition a b s

end Sys2Proof.Machine
end

