-- ==== Sys2Proof/Safety.lean ====
section
/-! DEFINITION. The terms that the statements use: what a step reports, what it leaves as it was, and the laws that every
step keeps (R14, R24, R64 and the sizes of the tables). -/

namespace Sys2Proof.Machine

/-! ### What a step reports and leaves -/

/-- The report of a background request that is a report write, as it was created: its timestamp and body. -/
def BackgroundItem.created : BackgroundItem → Option Report
  | .report r => some { time := r.time, body := r.body }
  | .lookFetch _ _ => none

/-- The reports made ready and not yet sent, then the reports waiting in the pending queue: in the order they were
created (R23, R24). A report created with room in the pending queue stands last. -/
def reportsOnWay (s : State) : List Report :=
  s.tu.background.filterMap BackgroundItem.created ++ s.cir.queue

/-- The pending queue has room for n more reports (R23). -/
def Room (n : Nat) (s : State) : Prop :=
  s.cir.queue.length + n ≤ 32

/-- What the ring does between two states in which no report was dropped and none was sent (R24): nothing, or one
report is made ready, with the next sequence, the next ring slot and the dropped count, and its write is queued. -/
def RingMoved (s t : State) : Prop :=
  (t.cir.p = s.cir.p ∧ t.cir.w = s.cir.w ∧ t.cir.dropped = s.cir.dropped ∧ t.tu.background = s.tu.background) ∨
    (reportsOutstanding s < 63 ∧ reportWaiting s = false ∧ t.cir.p = (s.cir.p + 1) % 4294967296 ∧
      t.cir.w = (s.cir.w + 1) % 63 ∧ t.cir.dropped = 0 ∧
      ∃ r : ReadyReport, r.sequence = (s.cir.p + 1) % 4294967296 ∧ r.slot = s.cir.w ∧ r.dropped = s.cir.dropped ∧
        t.tu.background = s.tu.background ++ [.report r])

/-- The reports l were created between two states, in order, each with the time base's count, all of them kept; the
ring moved as R24 says, and the consumed count and the operations in flight are as they were. -/
def Created (s t : State) (l : List ReportBody) : Prop :=
  reportsOnWay t = reportsOnWay s ++ l.map (fun b => { time := s.time, body := b }) ∧ RingMoved s t ∧
    t.cir.c = s.cir.c ∧ t.cir.snapshots = s.cir.snapshots

/-- A record is taken and answered: the expected sequence has risen, and after the reports l that its execution created
comes its COMPLETION (R16, R18, R19). -/
def Completed (s t : State) (l : List ReportBody) (code : Nat) (a : Answer) : Prop :=
  t.cir.expected = (s.cir.expected + 1) % 4294967296 ∧
    Created s t (l ++ [.completion s.cir.expected code a])

/-- t is x but for CIR's own state and the background queue that CIR's report writes join. -/
def SameButReports (x t : State) : Prop :=
  (t.withCir x.cir).withTu { t.tu with background := x.tu.background } = x

/-- What taking a record at s and answering it leaves in t (R16, R18 to R20, R23): the expected sequence has risen; all but
CIR's own state and the report writes it queues is as in x, whether or not the reports found room; and, when the pending
queue has room for them, the reports l and then the COMPLETION join the reports on their way. -/
structure Answered (s t : State) (l : List ReportBody) (code : Nat) (a : Answer) (x : State) : Prop where
  taken : t.cir.expected = (s.cir.expected + 1) % 4294967296
  effect : SameButReports x t
  reports : Room (l.length + 1) s → Created s t (l ++ [.completion s.cir.expected code a])

/-- What an event that is no record leaves in t: the expected sequence stands; all but CIR's own state and the report
writes it queues is as in x; and, when the pending queue has room for them, the reports l join the reports on their way. -/
structure Told (s t : State) (l : List ReportBody) (x : State) : Prop where
  expected : t.cir.expected = s.cir.expected
  effect : SameButReports x t
  reports : Room l.length s → Created s t l

/-- Whether the lamp of card slot k is not the one that Table 4-6 gives for the state; slot 8 has no lamp. -/
def lampStale (k : Nat) (s : State) : Bool :=
  decide (k < 8 ∧ lampOf s k ≠ (cardSlotAt s k).lamp)

/-- The state with the lamp of card slot k as Table 4-6 gives it (R64). -/
def relit (k : Nat) (s : State) : State :=
  if lampStale k s then setCardSlot k { cardSlotAt s k with lamp := lampOf s k } s else s

/-- The LAMP report of that change, if there is one (R65). -/
def lampReport (k : Nat) (s : State) : List ReportBody :=
  if lampStale k s then [.lamp k (cardSlotAt s k).lamp (lampOf s k) (cardSlotAt s k).session] else []

/-- The state with several lamps as Table 4-6 gives them. -/
def relitAll (ks : List Nat) (s : State) : State :=
  ks.foldl (fun t k => relit k t) s

/-- The LAMP reports of those changes, in the order of the slots given (R65). -/
def lampReports : List Nat → State → List ReportBody
  | [], _ => []
  | k :: ks, s => lampReport k s ++ lampReports ks (relit k s)

/-! ### The laws -/

/-- The tables keep the sizes the spec gives them (R31, R50, R61, R68, R84, R86, R92, R96, R104, R112, R128, R145, R159,
R161). -/
structure TableLaw (s : State) : Prop where
  streams : s.su.table.length = 24
  clips : s.ct.clips.length = 64
  cards : s.ct.slots.length = 8
  frameSlots : s.fiu.slots.length = (s.fiu.pool.map (fun p => p.count)).getD 0
  cameras : s.ctu.cameras.length = 16
  zones : s.ctu.zones.length = 6
  pairs : s.ctu.pairs.length = 8
  tracker : s.ctu.tracker.length ≤ 32
  faults : s.fl.records.length ≤ 256
  looks : s.ls.length = 8
  views : s.ve.length = 2
  motions : s.sh.length = 2
  keys : s.pu.keys.length = 16
  bindings : s.pu.bindings.length = 16

/-- The law of the report ring (R23 to R26): the counts in their ranges, P - C within 0 to 63, at most one report write
waiting, and a report left in the pending queue only while the ring is full or a report write waits. -/
structure RingLaw (s : State) : Prop where
  produced : s.cir.p < 4294967296
  consumed : s.cir.c < 4294967296
  slot : s.cir.w < 63
  outstanding : reportsOutstanding s ≤ 63
  queue : s.cir.queue.length ≤ 32
  dropped : s.cir.dropped ≤ 65535
  waiting : s.tu.background.countP BackgroundItem.isReport ≤ 1
  drained : s.cir.queue = [] ∨ reportsOutstanding s = 63 ∨ reportWaiting s = true

/-- The look slot of a background request that is a look fetch. -/
def BackgroundItem.fetchSlot : BackgroundItem → Option Nat
  | .report _ => none
  | .lookFetch k _ => some k

/-- The law of the background queue (R10): at most one report write, and at most one fetch of each of the eight look
slots, which is LOADING. -/
structure BackgroundLaw (s : State) : Prop where
  looks : s.ls.length = 8
  reports : s.tu.background.countP BackgroundItem.isReport ≤ 1
  fetches : (s.tu.background.filterMap BackgroundItem.fetchSlot).Nodup
  loading : ∀ k ∈ s.tu.background.filterMap BackgroundItem.fetchSlot, (lookSlotAt s k).state = .loading

/-- The window set (R12). -/
def windowSet (s : State) : List Span :=
  controlPage s :: (poolWindows s ++ viewWindows s 0 ++ viewWindows s 1 ++ streamWindows s)

/-- The law of the window set (R14): no two windows overlap. -/
def WindowLaw (s : State) : Prop :=
  (windowSet s).Pairwise (fun a b => a.overlaps b = false)

/-- The law of the lamps (R64, R65): each lamp is the one that Table 4-6 gives for the state. -/
def LampLaw (s : State) : Prop :=
  ∀ k, k < 8 → (cardSlotAt s k).lamp = lampOf s k

/-- The law of a clip's verdicts (Section 4.3): the match count is the number of MATCH verdicts, none without a final
source; a final source leaves no held result; and a VERIFIED clip has at least its required number of them. -/
structure VerdictLaw (c : Clip) : Prop where
  dests : c.dests.length = 4
  counted : c.matchCount = c.dests.countP (fun x => x.verdict == .matched)
  early : c.state = .opened ∨ c.state = .spoiled → c.matchCount = 0
  final : c.state = .sourced ∨ c.state = .verified → c.source.isSome ∧ c.dests.all (fun x => x.held.isNone)
  verified : c.state = .verified → c.required ≤ c.matchCount

/-- The law of clips and streams (Sections 3.3, 4.3, 4.4): every clip keeps the law of its verdicts; a running stream's
clip is in use, no two running streams read back one destination or ingest one source; a clip with a running SOURCE
stream is OPEN, and a destination being read back is PENDING with no held result. -/
structure ClipLaw (s : State) : Prop where
  verdicts : ∀ i c, clipAt s i = some c → VerdictLaw c
  one : ∀ i j e f, streamAt s i = some e → streamAt s j = some f → e.clip = f.clip → e.role = f.role → i = j
  source : ∀ i e, streamAt s i = some e → e.role = .source → ∃ c, clipAt s e.clip = some c ∧ c.state = .opened
  dest : ∀ i e d, streamAt s i = some e → e.role = .dest d →
    d < 4 ∧ ∃ c, clipAt s e.clip = some c ∧ destAt c d = { verdict := .pending, held := none }

/-- The law of a frame slot (Section 5.6): the beats counted never exceed the beats expected, and a COMPLETE slot has
counted them all. -/
def FrameLaw (s : State) : Prop :=
  ∀ f ∈ s.fiu.slots, f.counted ≤ f.expected ∧ (f.state = .complete → f.counted = f.expected)

/-- The law of the pixel tracker (R92): at most 32 entries, no two of one camera and position, hits 1 to 255 and misses
0 to 2. -/
structure TrackLaw (s : State) : Prop where
  size : s.ctu.tracker.length ≤ 32
  distinct : s.ctu.tracker.Pairwise (fun a b => ¬(a.camera = b.camera ∧ a.x = b.x ∧ a.y = b.y))
  ranges : ∀ e ∈ s.ctu.tracker, 1 ≤ e.hits ∧ e.hits ≤ 255 ∧ e.misses ≤ 2

/-- The law of the fault list (R104, R105): at most 256 records; each running stream and each closing note that names a
clip names one in use; and every clip's crit_open is at least the number of NEW CRITICAL records in the list that name
the clip with the retired mark clear (none for a FREE entry, whose crit_open reads 0). -/
structure FaultLaw (s : State) : Prop where
  size : s.fl.records.length ≤ 256
  streams : ∀ i e, streamAt s i = some e → (clipAt s e.clip).isSome
  notes : ∀ n ∈ s.su.closing, ∀ i, n.clip = some i → (clipAt s i).isSome
  critical : ∀ i, s.fl.records.countP (fun r => newCritical r && r.clip == some i && !r.retired) ≤ critOpenOf (some i) s

/-- A position on the side of a target that a move in a direction comes from, or at it. -/
def onSide (d : Direction) (position target : Nat) : Prop :=
  match d with
  | .forward => position ≤ target
  | .reverse => target ≤ position

/-- A motion context in which no move is in progress, nor will be on its release. -/
def resting (m : Motion) : Bool :=
  m.phase == .idle ||
    (m.phase == .held && (m.heldPhase == none || m.heldPhase == some .idle || m.heldPhase == some .held))

/-- The law of a motion context (R145, R147, R153): the position lies in its range and never past the target, nor does
the start that a looping move will return to; a context has a target exactly while it is not at rest; and only a HELD
context holds a phase. -/
structure MotionLaw (m : Motion) : Prop where
  position : m.position ≤ positionTop
  locate : ∀ f, m.pendingLocate = some f → f < 4294967296
  target : ∀ t, m.target = some t → t ≤ positionTop ∧ onSide m.direction m.position t
  loops : m.looping = true ∨ m.phase = .postroll ∨ m.heldPhase = some .postroll →
    ∀ t st, m.target = some t → m.start = some st → st ≤ positionTop ∧ onSide m.direction st t
  rest : resting m = true ↔ m.target = none
  holds : m.heldPhase ≠ none → m.phase = .held

/-- Frame numbers are 32 bits wide wherever they are held (Tables 5-2, 7-1, R96). -/
structure NumberLaw (s : State) : Prop where
  slots : ∀ f ∈ s.fiu.slots, f.frame < 4294967296
  held : ∀ p ∈ s.ctu.pairs, ∀ h ∈ p.queue, h.frame < 4294967296
  faults : ∀ r ∈ s.fl.records, ∀ x, r.frame = some x → x.1 < 4294967296

/-- The law of both motion contexts (R153), with that of the frame numbers that a locate may take. -/
structure ShuttleLaw (s : State) : Prop where
  motions : ∀ m ∈ s.sh, MotionLaw m
  numbers : NumberLaw s

end Sys2Proof.Machine
end

