-- ==== Sys2Proof/WellFormed.lean ====
section
/-! DEFINITION. Which commands the world outside the NL30 can send. The types of the operands carry most of it (a burst
of 1 to 16 beats, a payload field of its stated width, one of sixteen keys); the checks left are these three. -/

namespace Sys2Proof

/-- The highest byte address a request can name lies in the 40-bit space (Section 1.5): its burst does not run past
address 2^40 - 1. -/
def Request.fits (r : Request) : Bool :=
  match r.burst with
  | .incr => decide (r.addr.toNat / 2 ^ r.size.val * 2 ^ r.size.val + (r.len.val + 1) * 2 ^ r.size.val ≤ 2 ^ 40)
  | _ => true

/-- A returned piece of read data is 1 to 16 beats (R1). -/
def beatsFit (beats : List ReadBeat) : Bool :=
  decide (1 ≤ beats.length) && decide (beats.length ≤ 16)

/-- A command that can be sent: a request that stays in the address space, read data of 1 to 16 beats, at most nine own
reads for a view read (R138), and an UNKNOWN_COMMAND whose code is not in the code table (R19). -/
def Instr.wellFormed : Instr → Bool
  | .writeRequestAddress req => req.fits
  | .readRequest req => req.fits
  | .forwardedReadData _ beats => beatsFit beats
  | .viewFetchReturn _ index beats => decide (index < 9) && beatsFit beats
  | .unknownCommand code => !isCommandCode code.toNat
  | _ => true

end Sys2Proof
end

