-- ==== Sys2Proof/Certificates/Slice0/Obligations.lean ====
section
/-! DEFINITION. The statements for the provers, chapter by chapter: what each command does in every state, with its frame (a
command answered leaves all but its reports exactly as the written-out state has it), and what every step keeps. -/

open Sys2Proof Sys2Proof.Machine

/-! ### One step and the resets -/

/-- The step of a block: a command at the front of the queue runs on the state with the queue's rest; an empty queue idles
(DESIGN CHOICE, log entry 3); and every command is carried out in every state, leaving the queue as it is: none stops the
part. -/
def Obligations.StepRunsTheFrontCommand : Prop :=
  (∀ (s : State) (c : Instr) (rest : List Instr), step (s.withPending (c :: rest)) = exec c (s.withPending rest)) ∧
  (∀ s : State, s.pending = [] → step s = .next s) ∧
  ∀ (c : Instr) (s : State), ∃ t, exec c s = .next t ∧ t.pending = s.pending

/-- R29, R48, R66, R83, R100, R111, R144 and R158: an ENGINE_RESET is carried out in every state: streams, closing notes,
clips, frames, running fields, pairing queues, tracker and fault list are emptied, each present card starts a new session,
the pool serial rises, the views are set off and unpinned, the shuttles stand IDLE, all else is kept; then the lamps are
computed. R30, R11 and the chapters' reset tables: a HARD_RESET leaves every unit in the state written out here, for the
straps sampled. Model's choices: the frame fields of an EMPTY slot (log entry 18), what a hard reset keeps of the input pins
and counts of unanswered requests, and the jog sample of the first millisecond still to come (log entry 11), that it empties
the order book and the writes under way (log entry 25), a clear pair's tolerance 0 (log entry 16). -/
def Obligations.ResetsLeaveTheStatedState : Prop :=
  ∀ (s : State) (straps : BitVec 8),
    let noFrame : FrameSlot :=
      { state := .empty, generation := 0, camera := 0, eye := .mono, label := 0, clip := none, frame := 0,
        timecode := { hh := 0, mm := 0, ss := 0, ff := 0 }, width := 0, height := 0, stride := 0, expected := 0,
        counted := 0, zones := List.replicate 6 0, clipped := 0, lumaSum := 0, signature := 0, candidates := [],
        candidatesOver := false, lateFault := false }
    let u : State := { s with
      su := { s.su with table := s.su.table.map (fun _ => none), closing := [] }
      ct := { clips := s.ct.clips.map (fun _ => none)
              slots := s.ct.slots.map (fun c =>
                if c.present = true then { c with session := (c.session + 1) % 65536 } else c) }
      fiu := { s.fiu with serial := (s.fiu.serial + 1) % 2 ^ 32
                          slots := s.fiu.slots.map (fun f => { noFrame with generation := f.generation }) }
      ctu := { s.ctu with
        cameras := s.ctu.cameras.map (fun c => { c with firstFrame := true, lastNumber := none, lastCount := none,
                                                        lastSignature := none, warning := false, framesSeen := 0,
                                                        framesDropped := 0 })
        tracker := []
        pairs := s.ctu.pairs.map (fun p => { p with queue := [] }) }
      fl := { s.fl with records := [] }
      ve := s.ve.map (fun x => { x with
        pending := { x.pending with on := false, primary := 0 }, mixReset := true, pin := none
        reads := x.reads.map (fun r => if r.pin ≠ none then { r with pinLost := true } else r) })
      sh := s.sh.map (fun m => { m with
        phase := .idle, start := none, target := none, heldPhase := none, continuous := false, looping := false,
        stageCounter := 0, dwellCounter := 0, pendingLocate := none, pendingJog := 0 }) }
    let rows := fun (a b c : Nat) => ({ r := a, g := b, b := c } : Rgb Nat)
    let identity : Look :=
      { lift := { r := 0, g := 0, b := 0 }, gain := rows 16384 16384 16384
        curve := { r := (List.range 33).map (fun i => min (2048 * i) 65535), g := (List.range 33).map (fun i => min (2048 * i) 65535)
                   b := (List.range 33).map (fun i => min (2048 * i) 65535) }
        matrix := { r := { r := 4096, g := 0, b := 0 }, g := { r := 0, g := 4096, b := 0 }, b := { r := 0, g := 0, b := 4096 } }
        curveBypass := false, matrixBypass := false }
    let settings : Settings :=
      { on := false, zones := false, camera := 0, x0 := 0, y0 := 0, decimation := 1, hFlip := false, vFlip := false,
        primary := 0, rate := 0, bands := [], outsideBlack := false, overlayAddress := 0, overlayStride := 32,
        strip1 := { start := 0, count := 0 }, strip2 := { start := 0, count := 0 }, clipMark := false,
        markColour := rows 1023 0 1023 }
    (∃ t, exec .engineReset s = .next t ∧
      Answered s t (lampReports (List.range 8) u) 0x91 (.done 0) (relitAll (List.range 8) u)) ∧
    (∃ t, exec (.hardReset straps) s = .next t ∧ t.pending = s.pending ∧ t.free = s.free ∧ t.time = 0 ∧
      t.tu = { cpBase := straps.toNat, book := [], inWrites := [], arrival := [], background := [], runCount := 0,
               sentWrites := [], nextTag := 0, stale := s.tu.stale + unansweredRequests s, dataQueue := [],
               memOut := none, memData := [], upOut := none } ∧
      t.cir = { expected := 1, p := 0, w := 0, c := 0, queue := [], dropped := 0, snapshots := [] } ∧
      t.su = { table := List.replicate 24 none, openSerial := 0, closing := [] } ∧
      t.ct = { clips := List.replicate 64 none
               slots := s.ct.slots.map (fun c =>
                 { detLow := c.detLow, present := false, session := 0
                   changePending := if c.detLow = true then some 0 else none, lamp := .off }) } ∧
      t.fiu = { pool := none, serial := 0, slots := [], stray := 0 } ∧
      t.ctu = { cameras := List.replicate 16
                  { configured := false, clipLevel := 65535, hotLevel := 65535, base := 24, exposureHigh := 1023,
                    hysteresis := 0, persistence := 15, frameReports := false, firstFrame := true, lastNumber := none,
                    lastCount := none, lastSignature := none, warning := false, framesSeen := 0, framesDropped := 0 }
                zones := [⟨0, rows 400 0 600⟩, ⟨2048, rows 0 0 800⟩, ⟨12000, rows 300 300 300⟩, ⟨30000, rows 0 700 0⟩,
                          ⟨48000, rows 900 800 0⟩, ⟨62000, rows 1023 0 0⟩]
                tracker := []
                pairs := List.replicate 8 { isSet := false, left := 16, right := 16, tolerance := 0, queue := [] } } ∧
      t.fl = { records := [], nextId := 1, unlisted := 0 } ∧
      t.ls = { state := .ready, active := some identity, prior := none, loadSequence := none, staged := [], failed := false } ::
        List.replicate 7
          { state := .empty, active := none, prior := none, loadSequence := none, staged := [], failed := false } ∧
      t.ve = List.replicate 2
        { window := none, pending := settings, current := settings, mix := { a := 0, b := none, m := 0 }, mixReset := false,
          pin := none, copies := none, lastRow := none, frameCount := 0, fetchFaults := 0, lastFetchFault := none,
          bandsReported := false, overlayReported := false, reads := [] } ∧
      t.sh = List.replicate 2
        { profile := { s0 := 64, s1 := 256, s2 := 512, s3 := 1024, s4 := 2048, n := 12, preDwell := 0, postDwell := 63,
                       stopOnFault := false }
          position := 0, displayed := 0, direction := .forward, phase := .idle, start := none, target := none,
          continuous := false, looping := false, stageCounter := 0, dwellCounter := 0, heldPhase := none,
          pendingLocate := none, pendingJog := 0 } ∧
      t.pu = { keys := s.pu.keys.map (fun k =>
                 { low := k.low, pressed := false, changePending := if k.low = true then some 0 else none
                   pressTime := none, repeatDue := none })
               bindings := List.replicate 16 { action := .nothing, view := 0, repeatOn := false }
               jogBinding := none, debounce := 5, repeatDelay := 500, repeatInterval := 50
               jogLines := s.pu.jogLines, jogDue := true, jogLast := none, jogSteps := 0, jogDirection := none })

/-- The state after hard reset meets every law that the steps keep. -/
def Obligations.ResetMeetsTheLaws : Prop :=
  TableLaw State.reset ∧ RingLaw State.reset ∧ BackgroundLaw State.reset ∧ WindowLaw State.reset ∧ LampLaw State.reset ∧
    ClipLaw State.reset ∧ FrameLaw State.reset ∧ TrackLaw State.reset ∧ FaultLaw State.reset ∧ ShuttleLaw State.reset

/-! ### The Transit Unit (Chapter 1) -/

/-- R3 to R5, R7, R37, R75: a request address enters the order book behind what it holds. An untapped one first tells the
owners of the windows it touches, the streams in an order the spec leaves open (log entry 9). One that touches a view window
is not forwarded: a write is answered ERROR, its answer ready at once and its data discarded (log entry 7, DEDUCED), and so
is a read unless the View Engine serves it. Any other is forwarded at the tail of the arrival-ordered queue. With 64 entries
held it is not accepted, and is presented again (log entry 6). -/
def Obligations.RequestsAreForwardedOrAnswered : Prop :=
  ∀ (s : State) (req : Request),
    let tapped := req.burst = .incr ∧ req.size.val = 5 ∧ req.addr.toNat % 32 = 0 ∧ req.exclusive = false
    let n := req.len.val + 1
    let full := 64 ≤ s.tu.book.length
    let inView := ∃ w ∈ viewWindows s 0 ++ viewWindows s 1, (requestSpan req).overlaps w = true
    let inPool := ∃ w ∈ poolWindows s, (requestSpan req).overlaps w = true
    let entry := fun (dir : Dir) (kind : EntryKind) (answer : Option UpAnswer) =>
      ({ tag := s.tu.nextTag, dir := dir, req := req, kind := kind, writeBeats := [], readBeats := [], marks := [],
         answer := answer } : BookEntry)
    let coming := fun (discard : Bool) => ({ tag := s.tu.nextTag, req := req, discard := discard, arrived := 0 } : InWrite)
    let enter := fun (e : BookEntry) (t : State) =>
      t.withTu { t.tu with book := t.tu.book ++ [e], nextTag := t.tu.nextTag + 1 }
    let forward := fun (dir : Dir) (t : State) =>
      t.withTu { t.tu with
        book := t.tu.book ++ [entry dir .forwarded none], nextTag := t.tu.nextTag + 1
        arrival := t.tu.arrival ++ [.forwarded s.tu.nextTag] }
    let dataOf := fun (discard : Bool) (t : State) => t.withTu { t.tu with inWrites := t.tu.inWrites ++ [coming discard] }
    let told := (chooseOrder (streamsTouched s req) s).1.foldl
      (fun t i => endStream i .disordered (some req.addr.toNat) none t) (chooseOrder (streamsTouched s req) s).2
    let stray := told.withFiu { told.fiu with stray := min (2 ^ 32 - 1) (told.fiu.stray + 1) }
    let owners := fun (u : State) =>
      (tapped → u = s) ∧ (¬tapped → inPool → u = stray) ∧ (¬tapped → ¬inPool → u = told)
    let errors := UpAnswer.read (List.replicate n { data := 0, resp := .slverr })
    let whole := fun (w : ViewWindow) => w.base ≤ req.addr.toNat ∧ req.addr.toNat + 32 * n ≤ w.base + w.stride * w.height ∧
      (req.addr.toNat - w.base) / w.stride = (req.addr.toNat + 32 * (n - 1) - w.base) / w.stride
    let held := fun (v : Nat) (w : ViewWindow) => (viewAt s v).window = some w
    (∀ i, i ∈ streamsTouched s req ↔ ∃ e, i < s.su.table.length ∧ streamAt s i = some e ∧
      (requestSpan req).overlaps { base := e.base, size := e.length } = true) ∧
    ((streamsTouched s req).Pairwise (· < ·)) ∧
    (∃ t, exec (.writeRequestAddress req) s = .next t ∧
      (full → t = s) ∧
      (¬full → inView → ∃ u, owners u ∧ t = dataOf true (enter (entry .write .answered (some (.write .slverr))) u)) ∧
      (¬full → ¬inView → ∃ u, owners u ∧ t = dataOf false (forward .write u))) ∧
    (∃ t, exec (.readRequest req) s = .next t ∧
      (full → t = s) ∧
      (¬full → ¬inView → ∃ u, owners u ∧ t = forward .read u) ∧
      (¬full → inView → (¬tapped ∨ ∀ v w, v < 2 → held v w → ¬whole w) →
        ∃ u, owners u ∧ t = enter (entry .read .answered (some errors)) u) ∧
      (∀ v w, ¬full → inView → tapped → v < 2 → held v w → whole w →
        (∀ v' w', v' < v → held v' w' → ¬whole w') →
        t = viewRead v s.tu.nextTag ((req.addr.toNat - w.base) / w.stride) ((req.addr.toNat - w.base) % w.stride / 4) n w
          (enter (entry .read .viewRead none) s)))

/-- R2 and R5: a write data beat belongs to the oldest write whose data has not all arrived. A discarded write's beat is
only counted, whether or not its entry still stands in the order book (log entry 7); a forwarded one's is kept and sent on
as far as the order of the writes allows (driveData, as ArbiterSendsByTheRunCount writes it out), and if tapped is handed to
the owner of the window it falls in as the window set stands, by its part of the control page, and the owner's tag is added
to the request once. A beat in a view window placed after its address arrived is handed to nobody (log entry 10, DEDUCED). A
beat with no write before it, which AXI4 allows and the model does not use, changes nothing (log entry 8). -/
def Obligations.WriteBeatsReachTheirOwners : Prop :=
  ∀ (s : State) (d : BeatData) (st : Strobes),
    let b : WriteBeat := { data := d, strobes := st }
    (∃ t, exec (.writeBeat d st) s = .next t ∧ (s.tu.inWrites = [] → t = s) ∧
      (∀ w rest, s.tu.inWrites = w :: rest →
        let req := w.req
        let left := if w.arrived + 1 < req.len.val + 1 then { w with arrived := w.arrived + 1 } :: rest else rest
        let change := fun (f : BookEntry → BookEntry) (t : State) =>
          t.withTu { t.tu with book := t.tu.book.map (fun x => if x.tag = w.tag then f x else x) }
        let counted := s.withTu { s.tu with inWrites := left }
        let u := driveData (change (fun x => { x with writeBeats := x.writeBeats ++ [b] }) counted)
        let tapped := req.burst = .incr ∧ req.size.val = 5 ∧ req.addr.toNat % 32 = 0 ∧ req.exclusive = false
        (w.discard = true → t = counted) ∧
        (∀ e, w.discard = false → s.tu.book.find? (fun e => e.tag == w.tag) = some e →
          let r := routeBeat req (e.writeBeats ++ [b]) e.marks w.arrived b u
          (¬tapped → t = u) ∧
          (tapped → t = match r.2 with
            | none => r.1
            | some m => change (fun x => if m ∈ x.marks then x else { x with marks := x.marks ++ [m] }) r.1)))) ∧
    (∀ (req : Request) (beats : List WriteBeat) (marks : List Mark) (i : Nat),
      let a := req.addr.toNat + 32 * i
      let page := 2 ^ 32 * s.tu.cpBase
      let route := routeBeat req beats marks i b s
      let inPage := page ≤ a ∧ a < page + 8192
      let inPool := ∃ p, s.fiu.pool = some p ∧ p.base ≤ a ∧ a < p.base + p.count * p.size
      let inStream := fun (k : Nat) => ∃ e, streamAt s k = some e ∧ e.base ≤ a ∧ a < e.base + e.length
      (page ≤ a → a < page + 4096 → route = (ringBeat req beats i s, none)) ∧
      (page + 4096 ≤ a → a < page + 8128 → route = (s, none)) ∧
      (page + 8128 ≤ a → a < page + 8192 → route = (if a = page + 8128 ∧ st.toNat % 16 = 15 then
        consumedCount (d.toNat % 2 ^ 32) s else s, none)) ∧
      (∀ p, ¬inPage → s.fiu.pool = some p → p.base ≤ a → a < p.base + p.count * p.size →
        let k := (a - p.base) / p.size
        let o := (a - p.base) % p.size
        route = if o < 256 then headerBeat req beats i k o s else bodyBeat req i k o d st s) ∧
      (∀ k, ¬inPage → ¬inPool → k < s.su.table.length → inStream k → (∀ j, j < k → ¬inStream j) →
        route = streamBeat k a d st marks s) ∧
      (¬inPage → ¬inPool → (∀ k, k < s.su.table.length → ¬inStream k) → route = (s, none)))

/-- R5, R8 and R9: the memory port's channel being free, the oldest background request is sent when the arrival-ordered
queue is empty or the run count is 8 or more, and the run count returns to 0; otherwise the head of that queue is sent and
the run count rises; with both queues empty nothing is sent. A report write sent may let the next report be made ready
(R24), within the same command (log entry 2, DEDUCED). The data of the writes sent follows in the order in which they were
sent, each one's beats in order with their strobes, up to the first write with beats still to arrive; that it follows at
once, and the fields memOut and memData that show what was last driven, are the model's (log entry 14). -/
def Obligations.ArbiterSendsByTheRunCount : Prop :=
  ∀ (s : State),
    let page := 2 ^ 32 * s.tu.cpBase
    let queued := fun (w : SentWrite) => s.tu.dataQueue ++ [{ write := w, sent := 0 }]
    let full := fun (d : BeatData) => ({ data := d, strobes := BitVec.allOnes 32 } : WriteBeat)
    (∃ t, exec .arbiterSend s = .next t ∧
      (s.tu.background = [] → s.tu.arrival = [] → t = s) ∧
      (∀ r rest, s.tu.background = .report r :: rest → s.tu.arrival = [] ∨ 8 ≤ s.tu.runCount →
        t = makeReady (driveData (s.withTu { s.tu with
          background := rest, runCount := 0, sentWrites := s.tu.sentWrites ++ [.report r], dataQueue := queued (.report r)
          memOut := some (.reportWrite (page + 4096 + 64 * r.slot) (reportFirst r) (reportSecond r)) }))) ∧
      (∀ k address rest, s.tu.background = .lookFetch k address :: rest → s.tu.arrival = [] ∨ 8 ≤ s.tu.runCount →
        t = makeReady (driveData (s.withTu { s.tu with
          background := rest, runCount := 0, memOut := some (.lookFetch address) }))) ∧
      (∀ tag rest e, s.tu.background = [] ∨ s.tu.runCount < 8 → s.tu.arrival = .forwarded tag :: rest →
        s.tu.book.find? (fun e => e.tag == tag) = some e →
        t = driveData (s.withTu { s.tu with
          arrival := rest, runCount := s.tu.runCount + 1, memOut := some (.forwarded e.dir e.req)
          sentWrites := if e.dir = .write then s.tu.sentWrites ++ [.forwarded tag] else s.tu.sentWrites
          dataQueue := if e.dir = .write then queued (.forwarded tag) else s.tu.dataQueue })) ∧
      (∀ tag index rest r o, s.tu.background = [] ∨ s.tu.runCount < 8 → s.tu.arrival = .viewRead tag index :: rest →
        (s.ve.flatMap (fun x => x.reads)).find? (fun r => r.tag == tag) = some r → r.reads[index]? = some o →
        t = driveData (s.withTu { s.tu with
          arrival := rest, runCount := s.tu.runCount + 1, memOut := some (.viewRead o.addr o.beats) }))) ∧
    (∀ l : List DataWrite,
      let r := dataReady s l
      (l = [] → r = ([], [])) ∧
      (∀ tag n rest e, l = { write := .forwarded tag, sent := n } :: rest →
        s.tu.book.find? (fun e => e.tag == tag) = some e →
        r = if e.writeBeats.length < e.req.len.val + 1 then
            (e.writeBeats.drop n, { write := .forwarded tag, sent := e.writeBeats.length } :: rest)
          else (e.writeBeats.drop n ++ (dataReady s rest).1, (dataReady s rest).2)) ∧
      (∀ x n rest, l = { write := .report x, sent := n } :: rest →
        r = ([full (reportFirst x), full (reportSecond x)].drop n ++ (dataReady s rest).1, (dataReady s rest).2))) ∧
    driveData s = s.withTu { s.tu with
      dataQueue := (dataReady s s.tu.dataQueue).2
      memData := if (dataReady s s.tu.dataQueue).1 = [] then s.tu.memData else (dataReady s s.tu.dataQueue).1 }

/-- R5 to R7 and R9: a write response goes to the oldest sent forwarded write with its ID, is placed in the order book and
is shown to the owners of the request's tags, in an order the spec leaves open (log entry 9); read data goes to the oldest
sent forwarded read with its ID (which request an ID names is log entry 4, PRESUMED), whose response is ready when every
beat has returned, any data past them dropped (log entry 20); the first entry with a direction and an ID leaves upstream
once its response is ready, the release naming the two (log entry 5); and a response to a request sent before a hard reset
is discarded, which the model counts off tu.stale (log entry 11). -/
def Obligations.ResponsesReturnAndLeave : Prop :=
  ∀ (s : State) (id : Nat) (resp : Resp) (beats : List ReadBeat) (dir : Dir),
    let entry := fun (tag : Nat) => s.tu.book.find? (fun e => e.tag == tag)
    let names := fun (w : SentWrite) => ∃ tag e, w = .forwarded tag ∧ entry tag = some e ∧ e.req.id = id
    let ok := decide (resp = .okay ∨ resp = .exokay)
    let showTo := fun (t : State) (m : Mark) => match m with
      | .stream serial => streamResponse serial ok t
      | .frame serial slot generation => frameResponse serial slot generation ok t
    let awaiting := fun (e : BookEntry) => e.kind = .forwarded ∧ e.dir = .read ∧ e.req.id = id ∧ e.answer = none ∧
      ArrivalItem.forwarded e.tag ∉ s.tu.arrival
    let inOrder := fun (e : BookEntry) => e.dir = dir ∧ e.req.id = id
    (∃ t, exec (.writeResponse id resp) s = .next t ∧
      ((∀ w ∈ s.tu.sentWrites, ¬names w) → t = s) ∧
      (∀ before tag behind e, s.tu.sentWrites = before ++ .forwarded tag :: behind → (∀ w ∈ before, ¬names w) →
        entry tag = some e → e.req.id = id →
        let u := s.withTu { s.tu with
          sentWrites := before ++ behind
          book := s.tu.book.map (fun x => if x.tag = tag then { x with answer := some (.write resp) } else x) }
        ((∃ w ∈ s.tu.inWrites, w.tag = tag) → t = s) ∧
        ((∀ w ∈ s.tu.inWrites, w.tag ≠ tag) →
          t = (chooseOrder e.marks u).1.foldl showTo (chooseOrder e.marks u).2))) ∧
    (∀ (l : List Mark), ((chooseOrder l s).1 = l ∧ l.length ≤ 1 ∧ (chooseOrder l s).2 = s) ∨
      (1 < l.length ∧ ((chooseOrder l s).1 = l ∨ (chooseOrder l s).1 = l.reverse) ∧
        (chooseOrder l s).2 = s.withFree (s.free + 1))) ∧
    (∃ t, exec (.forwardedReadData id beats) s = .next t ∧
      ((∀ e ∈ s.tu.book, ¬awaiting e) → t = s) ∧
      (∀ before e behind, s.tu.book = before ++ e :: behind → (∀ x ∈ before, ¬awaiting x) → awaiting e →
        (∀ x ∈ before ++ behind, x.tag ≠ e.tag) →
        let n := e.req.len.val + 1
        let d := (e.readBeats ++ beats).take n
        t = s.withTu { s.tu with
          book := before ++ { e with readBeats := d, answer := if d.length = n then some (.read d) else none } :: behind })) ∧
    (∃ t, exec (.orderBookRelease dir id) s = .next t ∧
      ((∀ e ∈ s.tu.book, ¬inOrder e) → t = s) ∧
      (∀ before e behind, s.tu.book = before ++ e :: behind → (∀ x ∈ before, ¬inOrder x) → inOrder e →
        (e.answer = none → t = s) ∧
        (∀ a, e.answer = some a → t = s.withTu { s.tu with
          book := before ++ behind, upOut := some { dir := dir, id := id, answer := a } }))) ∧
    exec .preResetResponse s = .next (s.withTu { s.tu with stale := s.tu.stale - 1 })

/-! ### Command Intake and Report Writer (Chapters 2 and 12) -/

/-- R15 to R19: the command-ring beats of a request are judged when the last of them has arrived, slot by slot in ring
order. A fully written slot is taken when its sequence is the expected one and the slot is that sequence's, and its record
then runs as the command it decodes to; otherwise it is ignored, SEQUENCE or SLOT; a partly written one is ignored, PARTIAL.
The row events COMMAND_RECORD_IGNORED and COMMAND_SLOT_PARTIAL are those ignorals, and do nothing where their condition does
not hold (log entry 1). -/
def Obligations.RingSlotsAreJudgedAndRun : Prop :=
  ∀ (s : State) (req : Request) (beats : List WriteBeat) (i : Nat) (slot : Fin 64) (n : BitVec 32) (record : BitVec 512),
    let ring := 2 ^ 32 * s.tu.cpBase
    let start := req.addr.toNat
    let last := start + 32 * i
    let low := (max start ring - ring) / 64
    let high := (last - ring) / 64
    let beat := fun (a : Nat) => if start ≤ a then beats[(a - start) / 32]? else none
    let ignored := fun (k : Nat) (cause : IgnoreCause) (seen : Nat) (t : State) =>
      createReport (.ignored k cause seen t.cir.expected) t
    let cause := fun (sequence : Nat) (t : State) => if sequence = t.cir.expected then IgnoreCause.slot else .sequence
    let whole := fun (k : Nat) (record : BitVec 512) (t : State) =>
      let sequence := record.toNat % 2 ^ 32
      if sequence = t.cir.expected ∧ k = (sequence + 63) % 64 then executeRecord (decodeRecord record) t
      else ignored k (cause sequence t) sequence t
    let byte := fun (b : WriteBeat) (j : Nat) => if b.strobes.getLsbD j then b.data.toNat / 2 ^ (8 * j) % 256 else 0
    let seen := fun (b : WriteBeat) => byte b 0 + 256 * byte b 1 + 65536 * byte b 2 + 16777216 * byte b 3
    let judge := fun (t : State) (k : Nat) => match beat (ring + 64 * k), beat (ring + 64 * k + 32) with
      | some a, some b =>
        if a.strobes = BitVec.allOnes 32 ∧ b.strobes = BitVec.allOnes 32 then whole k (b.data ++ a.data) t
        else ignored k .partly (seen a) t
      | some a, none => ignored k .partly (seen a) t
      | none, _ => ignored k .partly 0 t
    (i + 1 < req.len.val + 1 → last + 32 < ring + 4096 → ringBeat req beats i s = s) ∧
    (¬(i + 1 < req.len.val + 1 ∧ last + 32 < ring + 4096) →
      ringBeat req beats i s = ((List.range (high + 1 - low)).map (fun j => low + j)).foldl judge s) ∧
    exec (decodeRecord record) s = .next (executeRecord (decodeRecord record) s) ∧
    exec (.commandRecordIgnored slot n) s = .next
      (if n.toNat = s.cir.expected ∧ slot.val = (n.toNat + 63) % 64 then s
       else ignored slot.val (cause n.toNat s) n.toNat s) ∧
    exec (.commandSlotPartial slot n) s = .next (ignored slot.val .partly n.toNat s)

/-- R19, R20 and R167: a record of no code of the code table is refused UNKNOWN_COMMAND, with its code; that the row with a
code of the table is no such record, and changes nothing, is the model's choice (log entry 1); and whatever the record, a
command that a record carries and that is answered REFUSED has created no report of its own and changed nothing but what
taking any record changes. -/
def Obligations.RefusedRecordsChangeNothing : Prop :=
  ∀ (s t : State) (c : Instr) (code : BitVec 16),
    (∃ u, exec (.unknownCommand code) s = .next u ∧
      (code.toNat ∈ codeTable → u = s) ∧
      (code.toNat ∉ codeTable → Answered s u [] code.toNat (.refused .unknownCommand 0) s)) ∧
    (∀ r d n l, commandFields c ≠ none → exec c s = .next t → Room 1 s →
      Created s t (l ++ [.completion s.cir.expected n (.refused r d)]) →
      l = [] ∧ SameButReports s t ∧ t.cir.expected = (s.cir.expected + 1) % 2 ^ 32)

/-- R23, R24, R26, R27: a report joins the pending queue with the time base's count, or is counted as dropped when the queue
holds 32; the head report is made ready while P - C is below 63 and no report write waits, with sequence P + 1, ring slot W
and the dropped count, which returns to 0; a consumed count moves C forward, never past P; and REPORT_PENDING is asserted
while P differs from C. REPORT_MADE_READY repeats the test that every such event has already made (log entry 2, DEDUCED). -/
def Obligations.ReportsAreMadeReadyOrDropped : Prop :=
  ∀ (s : State) (body : ReportBody) (v : BitVec 32),
    let c := s.cir
    let room := (2 ^ 32 + c.p - c.c) % 2 ^ 32 < 63
    let idle := ∀ r, BackgroundItem.report r ∉ s.tu.background
    let d := (2 ^ 32 + v.toNat - c.c) % 2 ^ 32
    let o := (2 ^ 32 + c.p - c.c) % 2 ^ 32
    (∃ t, exec .reportMadeReady s = .next t ∧ t = makeReady s ∧
      (c.queue = [] → t = s) ∧ (¬room → t = s) ∧ (¬idle → t = s) ∧
      (∀ r rest, c.queue = r :: rest → room → idle →
        t = (s.withTu { s.tu with
            background := s.tu.background ++ [.report { sequence := (c.p + 1) % 2 ^ 32, slot := c.w, time := r.time,
                                                        dropped := c.dropped, body := r.body }] }).withCir
          { c with p := (c.p + 1) % 2 ^ 32, w := (c.w + 1) % 63, queue := rest, dropped := 0 })) ∧
    (32 ≤ c.queue.length → createReport body s = s.withCir { c with dropped := min 65535 (c.dropped + 1) }) ∧
    (c.queue.length < 32 →
      createReport body s = makeReady (s.withCir { c with queue := c.queue ++ [{ time := s.time, body := body }] })) ∧
    exec (.consumedCountWrite v) s = .next (makeReady (s.withCir { c with
      c := if d ≤ o then v.toNat else if d < 2 ^ 31 then c.p else c.c })) ∧
    (reportPending s = true ↔ c.p ≠ c.c)

/-- R25 and R28: an ERROR answer to a report write counts the report as dropped, and the answer to a SNAPSHOT's report ends
its operation. That the answer names the report by its sequence, and changes nothing where no sent report has it, is the
model's choice (log entry 5). SNAPSHOT records what it records as it stands, and creates its report; with the pending queue
full the report is dropped and it ends at once. -/
def Obligations.ReportWritesAreAnsweredAndSnapshotsEnd : Prop :=
  ∀ (s : State) (sequence : BitVec 32) (resp : Resp),
    let ok := resp = .okay ∨ resp = .exokay
    let names := fun (w : SentWrite) => ∃ r, w = .report r ∧ r.sequence = sequence.toNat
    let x := s.withCir { s.cir with expected := (s.cir.expected + 1) % 2 ^ 32 }
    let inState := fun (st : SlotState) => (s.fiu.slots.filter (fun f => decide (f.state = st))).length
    let values : SnapshotValues :=
      { streams := (s.su.table.filter (fun e => e.isSome)).length, clips := (s.ct.clips.filter (fun e => e.isSome)).length
        filling := inState .filling, complete := inState .complete, bad := inState .bad
        faults := s.fl.records.length, tracker := s.ctu.tracker.length, pendingReports := s.cir.queue.length
        stray := s.fiu.stray, framesDropped := min 65535 (s.ctu.cameras.map (fun c => c.framesDropped)).sum
        fetchFaults0 := (viewAt s 0).fetchFaults, fetchFaults1 := (viewAt s 1).fetchFaults
        unlisted := s.fl.unlisted, p := s.cir.p, c := s.cir.c }
    let n := s.cir.expected
    (∃ t, exec (.reportWriteResponse sequence resp) s = .next t ∧
      ((∀ w ∈ s.tu.sentWrites, ¬names w) → t = s) ∧
      (∀ before r behind, s.tu.sentWrites = before ++ .report r :: behind → (∀ w ∈ before, ¬names w) →
        r.sequence = sequence.toNat →
        let u := s.withTu { s.tu with sentWrites := before ++ behind }
        let v := u.withCir { u.cir with dropped := if ok then u.cir.dropped else min 65535 (u.cir.dropped + 1) }
        ((∀ m y, r.body ≠ .snapshot m y) → t = v) ∧
        (∀ m y, r.body = .snapshot m y →
          t = createReport (.completion m 0x90 (if ok then .done 0 else .refused .noRoom 2))
            (v.withCir { v.cir with snapshots := v.cir.snapshots.erase m })))) ∧
    (∃ t, exec .snapshot s = .next t ∧
      (s.cir.queue.length < 32 → t = createReport (.snapshot n values)
        (x.withCir { x.cir with snapshots := x.cir.snapshots ++ [n] })) ∧
      (32 ≤ s.cir.queue.length →
        t = x.withCir { x.cir with dropped := min 65535 (min 65535 (s.cir.dropped + 1) + 1) } ∧
        t = createReport (.completion n 0x90 (.refused .noRoom 1)) (createReport (.snapshot n values) x)))

/-- Section 12.3 (Tables 12-4, 12-5): every field of every kind of report stands in its record at its offset and width, in
the two beats of the report write, with the codes of Tables 12-3 and 12-6 (R168). A one-byte identifier that is absent is
written 0xFF and any other absent field 0, as Section 12.1 says; which fields are such identifiers is log entry 15
(DEDUCED). -/
def Obligations.ReportRecordsAreWrittenByTheTables : Prop :=
  ([Reason.unknownCommand, .badArgument, .noRoom, .overlap, .busy, .unknownClip, .unknownStream, .wrongState,
      .alreadyVerified, .noCard, .notConfigured].map reasonCode = List.range' 1 11 ∧
    [IgnoreCause.sequence, .slot, .partly].map ignoreCode = List.range 3 ∧
    [StreamOutcome.good, .disordered, .overrun, .length, .aborted, .faulted].map outcomeCode = List.range 6 ∧
    [none, some ClipState.opened, some .sourced, some .verified, some .spoiled].map clipStateCode = List.range 5 ∧
    [ClipCause.opened, .sourceFinal, .sourceFailed, .sourceReopened, .verified, .held, .verdict, .retired].map clipCauseCode =
      List.range 8 ∧
    (∀ f : Fingerprint, [Verdict.unset, .pending, .matched, .mismatch, .unverifiable].map
      (fun v => (verdictCode { verdict := v, held := none }, verdictCode { verdict := v, held := some f })) =
      (List.range 5).map (fun n => (n, 128 + n))) ∧
    [Lamp.off, .amber, .amberFlash, .green, .red].map lampCode = List.range 5 ∧
    [FaultKind.gap, .duplicateNumber, .backstep, .tcBreak, .tcInvalid, .frozenFrame, .exposureClip, .stuckPixel,
      .stereoUnpaired, .stereoExposure, .frameGeometry, .frameHeader, .frameAbandoned, .frameOverwrite, .frameWriteFault,
      .cameraUnknown, .orphanFrame, .sourceUnverifiable, .cardPulled, .copyMismatch, .copyWriteFault].map faultCode =
      List.range' 1 21 ∧
    [Severity.note, .warn, .critical].map severityCode = List.range 3 ∧
    [Eye.mono, .left, .right].map eyeCode = List.range 3 ∧
    [PanelEvent.down, .up, .rep, .detent].map panelEventCode = List.range 4 ∧
    [PanelAction.nothing, .lookNext, .shuttleFwd, .shuttleRev, .shuttleStop, .holdToggle, .faultNext, .faultPrev, .ackHere,
      .zonesToggle, .bandsToggle].map actionCode = List.range 11 ∧
    [ViewKind.bandsClamped, .overlayClamped, .fetchFault, .slotLost, .arrived].map viewKindCode = List.range 5) ∧
  ∀ (r : ReadyReport),
    let record := (reportFirst r).toNat + 2 ^ 256 * (reportSecond r).toNat
    let holds := fun (l : List (Nat × Nat × Nat)) => ∀ f ∈ l, record / 256 ^ f.1 % 256 ^ f.2.1 = f.2.2 % 256 ^ f.2.1
    let id := fun (x : Option Nat) => x.getD 255
    let flag := fun (b : Bool) => if b then 1 else 0
    holds [(0, 4, r.sequence), (5, 1, 0), (6, 2, r.dropped), (8, 4, r.time), (12, 4, 0)] ∧
    (∀ n code a, r.body = .completion n code a → holds [(4, 1, 1), (16, 4, n), (20, 2, code)] ∧
      (∀ d, a = .done d → holds [(22, 1, 0), (23, 1, 0), (24, 1, 0), (25, 4, d)]) ∧
      (∀ f d, a = .clamped f d → holds [(22, 1, 1), (23, 1, 0), (24, 1, f), (25, 4, d)]) ∧
      (∀ x d, a = .refused x d → holds [(22, 1, 2), (23, 1, reasonCode x), (24, 1, 0), (25, 4, d)])) ∧
    (∀ slot cause seen expected, r.body = .ignored slot cause seen expected →
      holds [(4, 1, 2), (16, 1, slot), (17, 1, ignoreCode cause), (18, 4, seen), (22, 4, expected)]) ∧
    (∀ stream clip role outcome tail bytes expected fp offending,
      r.body = .streamEnd stream clip role outcome tail bytes expected fp offending →
      holds [(4, 1, 3), (16, 1, stream), (17, 1, clip), (18, 1, if role = .source then 0 else 1), (20, 1, outcomeCode outcome),
        (21, 1, flag tail), (22, 6, bytes), (28, 6, expected), (34, 8, fp.getD 0), (42, 8, offending.getD 0)] ∧
      (role = .source → holds [(19, 1, 255)]) ∧ (∀ d, role = .dest d → holds [(19, 1, d)])) ∧
    (∀ i c old new cause d0 d1 d2 d3, r.body = .clipState i c old new cause → c.dests = [d0, d1, d2, d3] →
      holds [(4, 1, 4), (16, 1, i), (17, 4, c.label), (21, 1, c.slot), (22, 2, c.session), (24, 1, c.camera), (25, 1, c.required),
        (26, 1, clipStateCode old), (27, 1, clipStateCode new), (28, 1, clipCauseCode cause), (29, 1, verdictCode d0),
        (30, 1, verdictCode d1), (31, 1, verdictCode d2), (32, 1, verdictCode d3), (33, 1, c.matchCount), (34, 4, c.frames),
        (38, 2, c.critOpen), (40, 2, c.warnCount)]) ∧
    (∀ slot old new session, r.body = .lamp slot old new session →
      holds [(4, 1, 5), (16, 1, slot), (17, 1, lampCode old), (18, 1, lampCode new), (19, 2, session)]) ∧
    (∀ x listed evicted counts, r.body = .fault x listed evicted counts →
      holds [(4, 1, 6), (16, 4, x.id), (20, 1, faultCode x.kind), (21, 1, severityCode (severityOf x.kind)), (22, 1, id x.camera),
        (23, 1, id x.clip), (24, 1, flag listed),
        (25, 1, flag x.frame.isSome + 2 * flag x.position.isSome + 4 * flag evicted.isSome + 8 * flag counts.isSome),
        (26, 4, (x.frame.map (fun f => f.1)).getD 0), (34, 2, (x.position.map (fun p => p.1)).getD 0),
        (36, 2, (x.position.map (fun p => p.2)).getD 0), (38, 4, x.detail), (42, 4, evicted.getD 0),
        (46, 2, (counts.map (fun n => n.1)).getD 0), (48, 2, (counts.map (fun n => n.2)).getD 0)] ∧
      (∀ n tc, x.frame = some (n, tc) → holds [(30, 1, tc.hh), (31, 1, tc.mm), (32, 1, tc.ss), (33, 1, tc.ff)]) ∧
      (x.frame = none → holds [(30, 1, 0), (31, 1, 0), (32, 1, 0), (33, 1, 0)])) ∧
    (∀ k f clipped mean z0 z1 z2 z3 z4 z5, r.body = .frame k f clipped mean → f.zones = [z0, z1, z2, z3, z4, z5] →
      holds [(4, 1, 7), (16, 1, k), (17, 1, f.generation), (18, 1, f.camera), (19, 1, eyeCode f.eye), (20, 1, id f.clip),
        (21, 4, f.frame), (25, 1, f.timecode.hh), (26, 1, f.timecode.mm), (27, 1, f.timecode.ss), (28, 1, f.timecode.ff),
        (29, 4, z0), (33, 4, z1), (37, 4, z2), (41, 4, z3), (45, 4, z4), (49, 4, z5), (53, 2, clipped), (55, 2, mean),
        (57, 4, f.signature), (61, 1, f.candidates.length + 128 * flag f.candidatesOver)]) ∧
    (∀ key event action view direction result held, r.body = .panel key event action view direction result held →
      holds [(4, 1, 8), (16, 1, key), (17, 1, panelEventCode event), (18, 1, actionCode action), (19, 1, id view),
        (20, 1, if direction = some .reverse then 1 else 0), (21, 1, flag result.isSome + 2 * flag held.isSome),
        (22, 4, result.getD 0), (26, 4, held.getD 0)]) ∧
    (∀ v kind n pin detail, r.body = .view v kind n pin detail →
      holds [(4, 1, 9), (16, 1, v), (17, 1, viewKindCode kind), (18, 4, n), (28, 4, detail)] ∧
      (pin = none → holds [(22, 1, 255), (23, 1, 0), (24, 4, 0)]) ∧
      (∀ p, pin = some p → holds [(22, 1, p.slot), (23, 1, p.generation), (24, 4, p.frame)])) ∧
    (∀ n x, r.body = .snapshot n x →
      holds [(4, 1, 10), (16, 1, x.streams), (17, 1, x.clips), (18, 2, x.filling), (20, 2, x.complete), (22, 2, x.bad),
        (24, 2, x.faults), (26, 1, x.tracker), (27, 1, x.pendingReports), (28, 4, x.stray), (32, 2, x.framesDropped),
        (34, 4, x.fetchFaults0), (38, 4, x.fetchFaults1), (42, 4, x.unlisted), (46, 4, x.p), (50, 4, x.c)])

/-- The record of every well-formed command that Table 12-2 gives one decodes to that command, whatever the sequence and
with each field at every value its width admits, and carries its sequence. -/
def Obligations.RecordsDecodeToTheirCommands : Prop :=
  ∀ (i : Instr) (sequence : BitVec 32) (r : BitVec 512), i.wellFormed = true → encodeRecord sequence i = some r →
    decodeRecord r = i ∧ recordSequence r = sequence

/-! ### Streams and clips (Chapters 3 and 4) -/

/-- R32 and R33: STREAM_OPEN is refused by the first test of Table 3-2 that fails; otherwise it makes the entry under the
lowest free id with the next serial, tells the Clip Tracker (R53, R56), and is DONE with the id after its reports. -/
def Obligations.StreamOpenTestsAndOpens : Prop :=
  ∀ (s : State) (clip role destination : BitVec 8) (base length : BitVec 64) (expected : BitVec 48),
    let i := clip.toNat
    let d := destination.toNat
    let a := base.toNat
    let n := length.toNat
    let held := (clipAt s i).map (fun c => c.state)
    let verdict := (clipAt s i).map (fun c => (destAt c d).verdict)
    let test : Option Reason :=
      if ¬(i ≤ 63 ∧ (role = 0 ∨ role = 1 ∧ d ≤ 3) ∧ a % 32 = 0 ∧ n % 32 = 0 ∧ 4096 ≤ n ∧ n ≤ 2 ^ 32 ∧ a + n ≤ 2 ^ 40) then
        some .badArgument
      else if clipAt s i = none then some .unknownClip
      else if s.su.table.all (fun x => x.isSome) then some .noRoom
      else if role = 0 ∧ (held = some .sourced ∨ held = some .verified ∨ sourceRunning s i = true) then some .wrongState
      else if role = 0 ∧ held = some .spoiled ∧ streamRunning s i = true then some .busy
      else if role = 1 ∧ held = some .spoiled then some .wrongState
      else if role = 1 ∧ verdict = some .matched then some .alreadyVerified
      else if role = 1 ∧ destRunning s i d = true then some .busy
      else if ∃ w ∈ windowSet s, 0 < w.size ∧ w.base < a + n ∧ a < w.base + w.size then some .overlap
      else none
    ∃ t, exec (.streamOpen clip role destination base length expected) s = .next t ∧
      (∀ r, test = some r → Answered s t [] 0x10 (.refused r 0) s) ∧
      (∀ c id, test = none → clipAt s i = some c → id < s.su.table.length → streamAt s id = none →
        (∀ j, j < id → streamAt s j ≠ none) →
        let e : Stream :=
          { serial := s.su.openSerial, clip := i, role := if role = 0 then .source else .dest d, base := a, length := n,
            next := a, bytes := 0, expected := expected.toNat, tailSeen := false, a := 1, b := 0, outstanding := 0 }
        let u := s.withSu
          { s.su with table := s.su.table.set id (some e), openSerial := (s.su.openSerial + 1) % 2 ^ 32 }
        let x := cardSlotAt s c.slot
        let reopened :=
          { c with
            state := .opened, dests := List.replicate 4 { verdict := .unset, held := none }, matchCount := 0
            session := if c.slot < 8 ∧ x.present = true then x.session else c.session }
        let asked := { c with dests := c.dests.set d { verdict := .pending, held := none } }
        if role = 1 then
          Answered s t [.clipState i asked (some c.state) (some c.state) .verdict] 0x10 (.done id) (setClip i (some asked) u)
        else if c.state = .spoiled then
          let v := setClip i (some reopened) u
          Answered s t ([.clipState i reopened (some .spoiled) (some .opened) .sourceReopened] ++ lampReport c.slot v) 0x10
            (.done id) (relit c.slot v)
        else Answered s t (lampReport c.slot u) 0x10 (.done id) (relit c.slot u))

/-- R34 to R36, R38 and R39: a beat handed to a running stream ends it by the first test of Table 3-3 that fails, or is
taken: its bytes are fed as little-endian words, the last padded with zeros, it is counted, next expected goes round the
window, a short beat sets tail-seen, the first of its request tags it, and reaching the expected length ends it GOOD. -/
def Obligations.StreamBeatsAreJudgedAndTaken : Prop :=
  ∀ (s : State) (id addr : Nat) (d : BeatData) (st : Strobes) (marks : List Mark) (e : Stream),
    let p := 4294967291
    let run := fun (n : Nat) => 1 ≤ n ∧ n ≤ 32 ∧ st.toNat = 2 ^ n - 1
    let limit := if e.expected = 0 then 2 ^ 48 - 1 else e.expected
    let byte := fun (n i : Nat) => if i < n then d.toNat / 256 ^ i % 256 else 0
    let word := fun (n j : Nat) =>
      byte n (4 * j) + 256 * byte n (4 * j + 1) + 65536 * byte n (4 * j + 2) + 16777216 * byte n (4 * j + 3)
    let feed := fun (ab : Nat × Nat) (w : Nat) => ((ab.1 + w) % p, (ab.2 + (ab.1 + w) % p) % p)
    let sums := fun (n : Nat) => ((List.range ((n + 3) / 4)).map (word n)).foldl feed (e.a, e.b)
    let fresh := Mark.stream e.serial ∉ marks
    let taken := fun (n : Nat) =>
      { e with
        a := (sums n).1, b := (sums n).2, bytes := e.bytes + n
        next := if e.next + 32 = e.base + e.length then e.base else e.next + 32
        tailSeen := e.tailSeen || decide (n < 32)
        outstanding := if fresh then e.outstanding + 1 else e.outstanding }
    let beat := streamBeat id addr d st marks s
    let ends := fun (o : StreamOutcome) => (endStream id o (some addr) none s, (none : Option Mark))
    streamAt s id = some e →
    (addr ≠ e.next → beat = ends .disordered) ∧
    ((∀ n, ¬run n) → beat = ends .disordered) ∧
    (e.tailSeen = true → beat = ends .disordered) ∧
    (∀ n, addr = e.next → run n → e.tailSeen = false → limit < e.bytes + n → beat = ends .overrun) ∧
    (∀ n, addr = e.next → run n → e.tailSeen = false → e.bytes + n ≤ limit →
      let u := setStream id (some (taken n)) s
      beat = (if e.expected ≠ 0 ∧ e.bytes + n = e.expected then endStream id .good none none u else u,
        if fresh then some (.stream e.serial) else none))

/-- R43 with R40 and R41: a stream's end creates STREAM_END, frees the entry, hands the outcome to the Clip Tracker and
leaves a closing note if writes are unanswered; STREAM_CLOSE ends a stream GOOD or LENGTH, STREAM_ABORT ends it ABORTED. The
entry is freed before the Clip Tracker acts, so that its lamp no longer counts the stream (log entry 13, DEDUCED). -/
def Obligations.StreamsEndAndAreClosed : Prop :=
  ∀ (s : State) (stream : BitVec 8) (finalLength : BitVec 48),
    let i := stream.toNat
    let note := fun (e : Stream) (o : StreamOutcome) =>
      ({ serial := e.serial, stream := i, clip := some e.clip, role := e.role, outcome := o,
         outstanding := e.outstanding, faultRaised := false } : ClosingNote)
    let endsWith := fun (s : State) (e : Stream) (o : StreamOutcome) (offending pulled : Option Nat) =>
      let t := createReport (.streamEnd i e.clip e.role o e.tailSeen e.bytes e.expected
        (if o = .good then some (2 ^ 32 * e.b + e.a) else none) offending) (setStream i none s)
      let fp : Fingerprint := { b := e.b, a := e.a, length := e.bytes }
      let u := match e.role with
        | .source => if o = .good then sourceGood e.clip fp t else sourceFailed e.clip i pulled t
        | .dest d => if o = .good then destGood e.clip d fp t else destFailed e.clip d t
      if e.outstanding = 0 then u else u.withSu { u.su with closing := u.su.closing ++ [note e o] }
    (∀ o offending pulled, (streamAt s i = none → endStream i o offending pulled s = s) ∧
      ∀ e, streamAt s i = some e → endStream i o offending pulled s = endsWith s e o offending pulled) ∧
    (∃ t, exec (.streamClose stream finalLength) s = .next t ∧
      (23 < i → Answered s t [] 0x11 (.refused .badArgument 0) s) ∧
      (i ≤ 23 → streamAt s i = none → Answered s t [] 0x11 (.refused .unknownStream 0) s) ∧
      (∀ e, i ≤ 23 → streamAt s i = some e →
        t = createReport (.completion s.cir.expected 0x11 (.done i)) (endsWith (advanceSequence s) e
          (if e.expected = 0 ∧ finalLength.toNat = e.bytes then .good else .length) none none))) ∧
    (∃ t, exec (.streamAbort stream) s = .next t ∧
      (23 < i → Answered s t [] 0x12 (.refused .badArgument 0) s) ∧
      (i ≤ 23 → streamAt s i = none → Answered s t [] 0x12 (.refused .unknownStream 0) s) ∧
      (∀ e, i ≤ 23 → streamAt s i = some e →
        t = createReport (.completion s.cir.expected 0x12 (.done i)) (endsWith (advanceSequence s) e .aborted none none)))

/-- R44 to R46: a write response shown to the Stream Unit for a tagged request counts down the running stream or the closing
note with the serial; an ERROR ends a running stream FAULTED, and raises one COPY_WRITE_FAULT against a GOOD one that has
ended; a note goes at 0, and a serial that neither holds is not acted on. -/
def Obligations.WriteResponsesReachStreams : Prop :=
  ∀ (s : State) (serial : Nat) (ok : Bool),
    let t := streamResponse serial ok s
    let running := fun (i : Nat) (e : Stream) => streamAt s i = some e ∧ e.serial = serial
    let ended := ∀ i e, ¬running i e
    let l := s.su.closing
    (∀ i e, running i e → (∀ j f, running j f → j = i) →
      let u := setStream i (some { e with outstanding := e.outstanding - 1 }) s
      t = if ok then u else endStream i .faulted none none u) ∧
    (ended → (∀ n ∈ l, n.serial ≠ serial) → t = s) ∧
    (∀ before n behind, ended → l = before ++ n :: behind → n.serial = serial →
      (∀ m ∈ before ++ behind, m.serial ≠ serial) →
      let raise := ok = false ∧ n.outcome = .good ∧ n.faultRaised = false
      let left := if n.outstanding ≤ 1 then [] else
        [{ n with outstanding := n.outstanding - 1, faultRaised := n.faultRaised || decide raise }]
      let u := s.withSu { s.su with closing := before ++ left ++ behind }
      t = if raise then
          raiseFault true
            { kind := .copyWriteFault, camera := none, clip := n.clip, frame := none, position := none, detail := n.stream } u
        else u)

/-- R51: CLIP_OPEN is refused by the first test of Table 4-2 that fails; otherwise the lowest FREE entry becomes OPEN, with
its required copies clamped to 1-3, and the CLIP_STATE report and the lamp come before the COMPLETION. -/
def Obligations.ClipOpenTestsAndOpens : Prop :=
  ∀ (s : State) (label : BitVec 32) (slot camera required : BitVec 8),
    let k := slot.toNat
    let x := cardSlotAt s k
    let copies := max 1 (min 3 required.toNat)
    let c : Clip :=
      { state := .opened, label := label.toNat, slot := k, session := if k < 8 then x.session else 0,
        camera := camera.toNat, required := copies, source := none,
        dests := List.replicate 4 { verdict := .unset, held := none }, matchCount := 0, frames := 0, critOpen := 0,
        warnCount := 0 }
    let used := ∃ i d, clipAt s i = some d ∧ d.label = label.toNat
    ∃ t, exec (.clipOpen label slot camera required) s = .next t ∧
      (8 < k ∨ 15 < camera.toNat → Answered s t [] 0x20 (.refused .badArgument 0) s) ∧
      (used → Answered s t [] 0x20 (.refused .badArgument 0) s) ∧
      (k < 8 → camera.toNat ≤ 15 → ¬used → x.present = false → Answered s t [] 0x20 (.refused .noCard 0) s) ∧
      (k ≤ 8 → camera.toNat ≤ 15 → ¬used → (k < 8 → x.present = true) → (∀ i, i < s.ct.clips.length → clipAt s i ≠ none) →
        Answered s t [] 0x20 (.refused .noRoom 0) s) ∧
      (∀ i, k ≤ 8 → camera.toNat ≤ 15 → ¬used → (k < 8 → x.present = true) → i < s.ct.clips.length → clipAt s i = none →
        (∀ j, j < i → clipAt s j ≠ none) →
        let u := setClip i (some c) s
        Answered s t ([.clipState i c none (some .opened) .opened] ++ lampReport k u) 0x20
          (if copies = required.toNat then .done i else .clamped 4 i) (relit k u))

/-- R60 with R46 and R108: CLIP_RETIRE is refused for an index above 63, a FREE entry or a clip with a running stream;
otherwise its CLIP_STATE report is created, its listed faults are marked retired, its closing notes lose it, the entry is
FREE, and the lamp of its slot is computed. -/
def Obligations.ClipRetireFreesTheClip : Prop :=
  ∀ (s : State) (clip : BitVec 8),
    let i := clip.toNat
    let mark := fun (r : FaultRecord) => if r.clip = some i then { r with retired := true } else r
    let forget := fun (n : ClosingNote) => if n.clip = some i then { n with clip := none } else n
    ∃ t, exec (.clipRetire clip) s = .next t ∧
      (63 < i → Answered s t [] 0x21 (.refused .badArgument 0) s) ∧
      (i ≤ 63 → clipAt s i = none → Answered s t [] 0x21 (.refused .unknownClip 0) s) ∧
      (∀ c j e, i ≤ 63 → clipAt s i = some c → streamAt s j = some e → e.clip = i →
        Answered s t [] 0x21 (.refused .busy 0) s) ∧
      (∀ c, i ≤ 63 → clipAt s i = some c → (∀ j e, streamAt s j = some e → e.clip ≠ i) →
        let u := setClip i none ((s.withFl { s.fl with records := s.fl.records.map mark }).withSu
          { s.su with closing := s.su.closing.map forget })
        Answered s t ([.clipState i c (some c.state) none .retired] ++ lampReport c.slot u) 0x21 (.done i) (relit c.slot u))

/-- R54 and R55: what the end of a SOURCE stream does to its clip. GOOD: the fingerprint is stored, held results are
compared, COPY_MISMATCH is raised for each that differs, and enough matches make it VERIFIED. Otherwise the clip is SPOILED
and SOURCE_UNVERIFIABLE is raised, then CARD_PULLED in a removal, which leaves the lamp to its own end. -/
def Obligations.SourceEndsSettleTheClip : Prop :=
  ∀ (s : State) (i stream : Nat) (fp : Fingerprint) (c : Clip),
    let fault := fun (kind : FaultKind) (detail : Nat) (t : State) =>
      reportFault { kind := kind, camera := none, clip := some i, frame := none, position := none, detail := detail } t
    let compared := fun (x : Dest) =>
      match x.held with
      | none => x
      | some h => { verdict := if h = fp then .matched else .mismatch, held := none }
    let final := { c with
      state := .sourced, source := some fp, dests := c.dests.map compared
      matchCount := c.matchCount + c.dests.countP (fun x => decide (x.held = some fp)) }
    let differing := (List.range c.dests.length).filter
      (fun d => decide ((destAt c d).held ≠ none ∧ (destAt c d).held ≠ some fp))
    let lamp := fun (t : State) => computeLamp c.slot t
    let t1 := createReport (.clipState i final (some c.state) (some .sourced) .sourceFinal) (setClip i (some final) s)
    let t2 := differing.foldl (fun t d => fault .copyMismatch d t) t1
    let settled := { final with warnCount := min 65535 (c.warnCount + differing.length) }
    let verified := { settled with state := .verified }
    let spoiled := { c with
      state := .spoiled, matchCount := 0
      dests := (List.range c.dests.length).map (fun d =>
        { verdict := if destRunning s i d then (destAt c d).verdict else .unset, held := none }) }
    let t3 := createReport (.clipState i spoiled (some c.state) (some .spoiled) .sourceFailed) (setClip i (some spoiled) s)
    clipAt s i = some c → c.warnCount ≤ 65535 →
    clipAt t2 i = some settled ∧
    (c.required ≤ final.matchCount → sourceGood i fp s =
      lamp (createReport (.clipState i verified (some .sourced) (some .verified) .verified) (setClip i (some verified) t2))) ∧
    (final.matchCount < c.required → sourceGood i fp s = lamp t2) ∧
    sourceFailed i stream none s = lamp (fault .sourceUnverifiable stream t3) ∧
    (∀ k, sourceFailed i stream (some k) s = fault .cardPulled k (fault .sourceUnverifiable stream t3))

/-- R57 and R58: what the end of a DEST stream does to its clip. GOOD: held while the clip is OPEN, compared at once once
the source is final (which may make it VERIFIED, or raise COPY_MISMATCH), discarded while it is SPOILED. Otherwise the
verdict is UNVERIFIABLE, or NONE while SPOILED. -/
def Obligations.DestinationEndsSettleTheVerdict : Prop :=
  ∀ (s : State) (i d : Nat) (fp : Fingerprint) (c : Clip),
    let with_ := fun (v : Verdict) (h : Option Fingerprint) => { c with dests := c.dests.set d { verdict := v, held := h } }
    let told := fun (t : State) (x : Clip) (cause : ClipCause) =>
      Told s t [.clipState i x (some c.state) (some x.state) cause] (setClip i (some x) s)
    let hit := { with_ .matched none with matchCount := c.matchCount + 1 }
    let verified := { hit with state := .verified }
    let miss := with_ .mismatch none
    let final := c.state = .sourced ∨ c.state = .verified
    clipAt s i = some c →
    (c.state = .opened → told (destGood i d fp s) (with_ .pending (some fp)) .held) ∧
    (c.state = .spoiled → told (destGood i d fp s) (with_ .unset none) .verdict) ∧
    (c.state = .sourced → c.source = some fp → c.required ≤ c.matchCount + 1 →
      let u := setClip i (some verified) s
      Told s (destGood i d fp s) ([.clipState i verified (some .sourced) (some .verified) .verified] ++ lampReport c.slot u)
        (relit c.slot u)) ∧
    (final → c.source = some fp → c.state = .verified ∨ c.matchCount + 1 < c.required →
      told (destGood i d fp s) hit .verdict) ∧
    (final → c.source ≠ some fp → destGood i d fp s =
      reportFault { kind := .copyMismatch, camera := none, clip := some i, frame := none, position := none, detail := d }
        (createReport (.clipState i miss (some c.state) (some c.state) .verdict) (setClip i (some miss) s))) ∧
    (c.state ≠ .spoiled → told (destFailed i d s) (with_ .unverifiable none) .verdict) ∧
    (c.state = .spoiled → told (destFailed i d s) (with_ .unset none) .verdict)

/-- R22, R61 to R63 and R164: the tick, which paces the jog's sampling, the debounce of CARD_DET, an insertion and a
removal. A tick lets the next millisecond's jog sample be taken; where no command brought the ending one's, the lines stood
as they were, and only a first sample is kept (log entry 12, DEDUCED). A removal first ends the running SOURCE streams of
the session ABORTED, in ascending id, with the card pulled, then clears present and computes the lamp. That an insertion or
a removal taken before its debounce has run out changes nothing is the model's choice (log entry 1). -/
def Obligations.CardEventsAndTheTick : Prop :=
  ∀ (s : State) (slot : Fin 8) (low : Bool),
    let k := slot.val
    let x := cardSlotAt s k
    let due := ∃ c, x.changePending = some c ∧ s.pu.debounce ≤ (2 ^ 32 + s.time - c) % 2 ^ 32
    exec .timeBaseTick s = .next ((s.withTime ((s.time + 1) % 2 ^ 32)).withPu
      { s.pu with jogLast := some (s.pu.jogLast.getD s.pu.jogLines), jogDue := true }) ∧
    exec (.cardDetChange slot low) s = .next (setCardSlot k
      { x with detLow := low, changePending := if low = x.present then none else some (x.changePending.getD s.time) } s) ∧
    (∃ t, exec (.cardInsertion slot) s = .next t ∧
      (x.present = false → due →
        let u := setCardSlot k { x with present := true, session := (x.session + 1) % 65536, changePending := none } s
        Told s t (lampReport k u) (relit k u)) ∧
      (x.present = true ∨ ¬due → t = s)) ∧
    (∃ t, exec (.cardRemoval slot) s = .next t ∧
      (∀ ids : List Nat, x.present = true → due → ids.Pairwise (· < ·) →
        (∀ i, i ∈ ids ↔ ∃ e c, streamAt s i = some e ∧ e.role = .source ∧ clipAt s e.clip = some c ∧
          c.slot = k ∧ c.session = x.session) →
        let y := ids.foldl (fun t i => endStream i .aborted none (some k) t) s
        let u := setCardSlot k { cardSlotAt y k with present := false, changePending := none } y
        Told y t (lampReport k u) (relit k u)) ∧
      (x.present = false ∨ ¬due → t = s))

/-- R64 and R65: the lamp of a card slot is the first line of Table 4-6 that applies; a computation that changes it sets it
and creates one LAMP report, and any other does nothing; and the lamp outputs follow the lamp, AMBER_FLASH with the time
base. Slot 8 has no lamp. -/
def Obligations.LampsByTheTable : Prop :=
  ∀ (s : State) (k : Nat),
    let x := cardSlotAt s k
    let member := fun (i : Nat) (c : Clip) => clipAt s i = some c ∧ c.slot = k ∧ c.session = x.session
    let red := ∃ i c, member i c ∧ (c.state = .spoiled ∨ 0 < c.critOpen)
    let flash := ∃ i c j e, member i c ∧ streamAt s j = some e ∧ e.clip = i ∧ e.role = .source
    let green := (∃ i c, member i c) ∧ ∀ i c, member i c → c.state = .verified
    (x.present = false → lampOf s k = .off) ∧
    (x.present = true → red → lampOf s k = .red) ∧
    (x.present = true → ¬red → flash → lampOf s k = .amberFlash) ∧
    (x.present = true → ¬red → ¬flash → green → lampOf s k = .green) ∧
    (x.present = true → ¬red → ¬flash → ¬green → lampOf s k = .amber) ∧
    (k < 8 → x.lamp ≠ lampOf s k →
      Told s (computeLamp k s) [.lamp k x.lamp (lampOf s k) x.session] (setCardSlot k { x with lamp := lampOf s k } s)) ∧
    (8 ≤ k ∨ x.lamp = lampOf s k → computeLamp k s = s) ∧
    (lampRed s k = true ↔ x.lamp = .red ∨ x.lamp = .amber ∨ x.lamp = .amberFlash ∧ s.time / 250 % 2 = 0) ∧
    (lampGreen s k = true ↔ x.lamp = .green ∨ x.lamp = .amber ∨ x.lamp = .amberFlash ∧ s.time / 250 % 2 = 0)

/-! ### Frames and cameras (Chapters 5 and 6) -/

/-- R67: POOL_SET is refused by the first test of Table 5-1 that fails, the overlap being with every window but the present
pool; otherwise the pool and its slots are made anew, the serial rises, and the detail is the number of slots FILLING. What
the fields of a slot just EMPTY hold is the model's choice (log entry 18). -/
def Obligations.PoolSetReplacesThePool : Prop :=
  ∀ (s : State) (base : BitVec 64) (slotCount : BitVec 16) (slotSize : BitVec 64),
    let a := base.toNat
    let n := slotCount.toNat
    let z := slotSize.toNat
    let fits := 1 ≤ n ∧ n ≤ 256 ∧ z % 4096 = 0 ∧ 4096 ≤ z ∧ a % 4096 = 0 ∧ a + n * z ≤ 2 ^ 40
    let pinned := (viewAt s 0).pin ≠ none ∨ (viewAt s 1).pin ≠ none
    let others := controlPage s :: (viewWindows s 0 ++ viewWindows s 1 ++ streamWindows s)
    let overlap := ∃ w ∈ others, 0 < w.size ∧ w.base < a + n * z ∧ a < w.base + w.size
    ∃ t, exec (.poolSet base slotCount slotSize) s = .next t ∧
      if ¬fits then Answered s t [] 0x01 (.refused .badArgument 0) s
      else if pinned then Answered s t [] 0x01 (.refused .busy 0) s
      else if overlap then Answered s t [] 0x01 (.refused .overlap 0) s
      else
        Answered s t [] 0x01 (.done (s.fiu.slots.countP (fun f => f.state == .filling))) (s.withFiu
          { pool := some { base := a, count := n, size := z }, serial := (s.fiu.serial + 1) % 2 ^ 32
            slots := List.replicate n FrameSlot.empty, stray := s.fiu.stray })

/-- R70 to R73: a request's header beats in a slot are judged at the last of them. A whole header abandons a FILLING frame,
is read into the slot with its generation raised, and leaves it BAD with the fault of the first test of Table 5-4 that
fails, or FILLING with its accumulators cleared; any other header write leaves it BAD. A view that pinned the slot has
notice. -/
def Obligations.HeadersAreTakenOrSpoilTheSlot : Prop :=
  ∀ (s : State) (req : Request) (beats : List WriteBeat) (i k o : Nat) (d : BeatData),
    let more := i + 1 < req.len.val + 1 ∧ o + 32 < 256
    let whole := o = 224 ∧ 7 ≤ i ∧ ∀ b ∈ (beats.drop (i - 7)).take 8, b.strobes = BitVec.allOnes 32
    let field := fun (d : BeatData) (byte bits : Nat) => d.toNat / 2 ^ (8 * byte) % 2 ^ bits
    let x := frameSlotAt s k
    let size := (s.fiu.pool.map (fun p => p.size)).getD 0
    let lost := fun (kind : FaultKind) (s : State) => raiseFault true (frameFinding s kind x none k) s
    let spoilt := setFrameSlot k { x with state := .bad } s
    let t := if x.state = .filling then lost .frameAbandoned s else s
    let f := { x with
      generation := (x.generation + 1) % 256, lateFault := false, camera := field d 0 8
      eye := if field d 1 8 = 0 then .mono else if field d 1 8 = 1 then .left else if field d 1 8 = 2 then .right else x.eye
      label := field d 4 32, clip := clipOfLabel t (field d 4 32), frame := field d 8 32
      timecode := { hh := field d 12 8, mm := field d 13 8, ss := field d 14 8, ff := field d 15 8 }
      width := field d 16 16, height := field d 18 16, stride := field d 20 32 }
    let geometry := 16 ≤ f.width ∧ f.width ≤ 8192 ∧ 16 ≤ f.height ∧ f.height ≤ 4320 ∧ f.stride % 32 = 0 ∧
      f.width * 8 ≤ f.stride ∧ field d 1 8 ≤ 2 ∧ 256 + f.height * f.stride ≤ size
    let known := f.camera ≤ 15 ∧ (cameraAt s f.camera).configured = true
    let fails := fun (kind : FaultKind) =>
      raiseFault true
        { kind := kind, camera := if f.camera ≤ 15 then some f.camera else none, clip := heldClip t f.clip f.label
          frame := some (f.frame, f.timecode), position := none, detail := k }
        (setFrameSlot k { f with state := .bad } t)
    let filling := { f with
      state := .filling, expected := f.height * f.stride / 32, counted := 0, zones := [0, 0, 0, 0, 0, 0], clipped := 0
      lumaSum := 0, signature := 0, candidates := [], candidatesOver := false }
    let taken := setFrameSlot k filling t
    (more → headerBeat req beats i k o s = (s, none)) ∧
    (¬more → ¬whole → headerBeat req beats i k o s =
      (noticeViews k
        (if x.state = .filling then raiseFault true (frameFinding spoilt .frameHeader x none k) spoilt
          else raiseFault true
            { kind := .frameHeader, camera := none, clip := none, frame := none, position := none, detail := k } spoilt),
        none)) ∧
    (∀ b, ¬more → whole → beats[i - 7]? = some b → headerBeat req beats i k o s =
      (takeHeader k b.data s,
        some (.frame (takeHeader k b.data s).fiu.serial k (frameSlotAt (takeHeader k b.data s) k).generation))) ∧
    (¬geometry → takeHeader k d s = noticeViews k (fails .frameGeometry)) ∧
    (geometry → ¬known → takeHeader k d s = noticeViews k (fails .cameraUnknown)) ∧
    (geometry → known → f.clip ≠ none → takeHeader k d s = noticeViews k taken) ∧
    (geometry → known → f.clip = none →
      takeHeader k d s = noticeViews k (raiseFault true (frameFinding taken .orphanFrame f none k) taken))

/-- R74 to R78: a beat behind the header is a stray write unless it is a raster beat of a FILLING slot; a raster beat past
the expected count spoils the frame; any other is counted and measured, and ends the frame when it brings the count to the
expected one and its request holds no further raster beat of the slot. -/
def Obligations.RasterBeatsAreCountedAndMeasured : Prop :=
  ∀ (s : State) (req : Request) (i k o : Nat) (d : BeatData) (st : Strobes),
    let f := frameSlotAt s k
    let cam := cameraAt s f.camera
    let beat := bodyBeat req i k o d st s
    let last := 256 + f.height * f.stride
    let b := (o - 256) / 32
    let row := b * 32 / f.stride
    let x0 := b * 32 % f.stride / 8
    let byte := fun (i : Nat) => d.toNat / 2 ^ (8 * i) % 256
    let code := fun (i : Nat) => d.toNat / 2 ^ (8 * i) % 65536
    let written := fun (j : Nat) => decide (x0 + j < f.width) && (List.range 6).all (fun n => st.getLsbD (8 * j + n))
    let pixels := ((List.range 4).filter written).map (fun j =>
      (x0 + j, ({ r := code (8 * j), g := code (8 * j + 2), b := code (8 * j + 4) } : Rgb Nat)))
    let y := fun (p : Rgb Nat) => (2 * p.r + 5 * p.g + p.b) / 8
    let measured := pixels.foldl (fun (g : FrameSlot) p =>
      { g with
        zones := g.zones.modify (zoneOf s.ctu.zones (y p.2)) (fun n => min (2 ^ 32 - 1) (n + 1))
        clipped := if cam.clipLevel ≤ p.2.r ∨ cam.clipLevel ≤ p.2.g ∨ cam.clipLevel ≤ p.2.b then min (2 ^ 32 - 1) (g.clipped + 1)
          else g.clipped
        lumaSum := min (2 ^ 48 - 1) (g.lumaSum + y p.2) }) { f with counted := f.counted + 1 }
    let hot := pixels.filter (fun p => decide (cam.hotLevel ≤ y p.2) &&
      pixels.all (fun q => decide (q.1 = p.1) || decide (y q.2 < cam.hotLevel / 2)))
    let listed := (hot.map (fun p => (p.1, row))).foldl (fun (g : FrameSlot) p =>
      if p ∈ g.candidates then g
      else if g.candidates.length < 8 then { g with candidates := g.candidates ++ [p] }
      else { g with candidatesOver := true }) measured
    let kept := fun (i : Nat) => if st.getLsbD i then byte i else 0
    let word := fun (i : Nat) =>
      kept (4 * i) + 256 * kept (4 * i + 1) + 65536 * kept (4 * i + 2) + 16777216 * kept (4 * i + 3)
    let sum := ((List.range 8).map word).foldl (fun a w => (a + w) % 2 ^ 32) 0
    let g := { listed with signature := (listed.signature + sum * (b + 1)) % 2 ^ 32 }
    let u := setFrameSlot k g s
    let spoilt := setFrameSlot k { f with state := .bad } s
    let ends := g.counted = g.expected ∧ ¬(i + 1 < req.len.val + 1 ∧ o + 32 < last)
    (f.state ≠ .filling ∨ last ≤ o → beat = (s.withFiu { s.fiu with stray := min (2 ^ 32 - 1) (s.fiu.stray + 1) }, none)) ∧
    (f.state = .filling → o < last → f.expected ≤ f.counted →
      beat = (raiseFault true (frameFinding spoilt .frameOverwrite { f with state := .bad } none k) spoilt, none)) ∧
    (f.state = .filling → o < last → f.counted < f.expected → k < s.fiu.slots.length →
      beat = (if ends then endFrame k g s else u, some (.frame s.fiu.serial k f.generation))) ∧
    (∀ z, z < s.ctu.zones.length → (∀ w, s.ctu.zones[z]? = some w → w.bound ≤ i) →
      (∀ j w, z < j → s.ctu.zones[j]? = some w → i < w.bound) → zoneOf s.ctu.zones i = z)

/-- R79 and R80: the end of a frame (COMPLETE, its mean luma and clip fraction, its clip's frames inspected, the FRAME
report, then the Camera Track Unit), and a write response for a tagged frame: an ERROR spoils a FILLING frame, is told once
of a COMPLETE one, and does nothing when the pool or the frame has been replaced. -/
def Obligations.FramesEndAndHearResponses : Prop :=
  ∀ (s : State) (k serial generation : Nat) (f : FrameSlot) (ok : Bool),
    let g := { f with state := .complete }
    let mean := min 65535 (f.lumaSum / (f.width * f.height))
    let clipped := min 1024 (f.clipped * 1024 / (f.width * f.height))
    let u := setFrameSlot k g s
    let counted := match heldClip s f.clip f.label with
      | none => u
      | some i => ((clipAt s i).map (fun c => setClip i (some { c with frames := min (2 ^ 32 - 1) (c.frames + 1) }) u)).getD u
    let reported := if (cameraAt s f.camera).frameReports then createReport (.frame k g clipped mean) counted else counted
    let x := frameSlotAt s k
    let told := fun (y : FrameSlot) => raiseFault true (frameFinding (setFrameSlot k y s) .frameWriteFault x none k) (setFrameSlot k y s)
    let answer := frameResponse serial k generation ok s
    let present := ok = false ∧ serial = s.fiu.serial ∧ generation = x.generation
    endFrame k f s = trackFrame g clipped mean reported ∧
    (¬present → answer = s) ∧
    (present → x.state = .filling → answer = told { x with state := .bad }) ∧
    (present → x.state = .complete → x.lateFault = false → answer = told { x with lateFault := true }) ∧
    (present → x.state = .complete → x.lateFault = true → answer = s) ∧
    (present → x.state = .bad ∨ x.state = .empty → answer = s)

/-- R85: CAMERA_SET is refused for a camera above 15, a base that is not allowed or a stereo partner that is not configured
with the same base; otherwise it clamps its tuning fields, writes the configuration and clears the running fields, with the
frames seen so far as its detail. -/
def Obligations.CameraSetConfigures : Prop :=
  ∀ (s : State) (camera : BitVec 8) (clipLevel hotLevel : BitVec 16) (base : BitVec 8)
    (exposureHigh hysteresis : BitVec 16) (persistence frameReports : BitVec 8),
    let c := camera.toNat
    let b := base.toNat
    let x := cameraAt s c
    let agrees := fun (k : Nat) => (cameraAt s k).configured = true ∧ (cameraAt s k).base = b
    let e := max 1 (min 1023 exposureHigh.toNat)
    let h := min e hysteresis.toNat
    let p := max 2 (min 15 persistence.toNat)
    ∃ t, exec (.cameraSet camera clipLevel hotLevel base exposureHigh hysteresis persistence frameReports) s = .next t ∧
      (15 < c ∨ b ∉ [24, 25, 30, 48, 50, 60, 100, 120] → Answered s t [] 0x30 (.refused .badArgument 0) s) ∧
      (∀ (k : Nat) (q : StereoPair), s.ctu.pairs[k]? = some q → q.isSet = true → (q.left = c ∧ ¬agrees q.right ∨ q.left ≠ c ∧ q.right = c ∧ ¬agrees q.left) →
        (∀ (j : Nat) (r : StereoPair), s.ctu.pairs[j]? = some r → r.isSet = true → r.left = c ∨ r.right = c → j = k) →
        Answered s t [] 0x30 (.refused .badArgument 0) s) ∧
      (c ≤ 15 → b ∈ [24, 25, 30, 48, 50, 60, 100, 120] →
        (∀ q ∈ s.ctu.pairs, q.isSet = true → (q.left = c → agrees q.right) ∧ (q.right = c → agrees q.left)) →
        Answered s t [] 0x30
          (if e ≠ exposureHigh.toNat then .clamped 5 x.framesSeen else if h ≠ hysteresis.toNat then .clamped 6 x.framesSeen
            else if p ≠ persistence.toNat then .clamped 7 x.framesSeen else .done x.framesSeen)
          (setCamera c
            { configured := true, clipLevel := clipLevel.toNat, hotLevel := hotLevel.toNat, base := b, exposureHigh := e,
              hysteresis := h, persistence := p, frameReports := decide (frameReports ≠ 0), firstFrame := true,
              lastNumber := none, lastCount := none, lastSignature := none, warning := false, framesSeen := 0,
              framesDropped := 0 } s))

/-- R96: PAIR_SET is refused by its tests in order; with both cameras 16 it clears the pair, and otherwise it sets the pair
with its tolerance clamped; either way the pairing queue is emptied and its length is the detail. That a cleared pair keeps
its tolerance is the model's choice (log entry 16). -/
def Obligations.PairSetSetsOrClears : Prop :=
  ∀ (s : State) (pair left right : BitVec 8) (tolerance : BitVec 32),
    let k := pair.toNat
    let l := left.toNat
    let r := right.toNat
    let x := pairAt s k
    let n := x.queue.length
    let elsewhere := fun (c : Nat) => ∃ (j : Nat) (q : StereoPair), j ≠ k ∧ s.ctu.pairs[j]? = some q ∧ q.isSet = true ∧ (q.left = c ∨ q.right = c)
    let clear := l = 16 ∧ r = 16
    let cameras := l ≤ 15 ∧ r ≤ 15
    let both := (cameraAt s l).configured = true ∧ (cameraAt s r).configured = true
    let sameBase := (cameraAt s l).base = (cameraAt s r).base
    ∃ t, exec (.pairSet pair left right tolerance) s = .next t ∧
      (7 < k ∨ ¬(cameras ∨ clear) → Answered s t [] 0x31 (.refused .badArgument 0) s) ∧
      (k ≤ 7 → clear →
        Answered s t [] 0x31 (.done n) (setPair k { x with isSet := false, left := 16, right := 16, queue := [] } s)) ∧
      (k ≤ 7 → cameras → l = r ∨ elsewhere l ∨ elsewhere r → Answered s t [] 0x31 (.refused .badArgument 0) s) ∧
      (k ≤ 7 → cameras → l ≠ r → ¬elsewhere l → ¬elsewhere r → ¬both → Answered s t [] 0x31 (.refused .notConfigured 0) s) ∧
      (k ≤ 7 → cameras → l ≠ r → ¬elsewhere l → ¬elsewhere r → both → ¬sameBase →
        Answered s t [] 0x31 (.refused .badArgument 0) s) ∧
      (k ≤ 7 → cameras → l ≠ r → ¬elsewhere l → ¬elsewhere r → both → sameBase →
        Answered s t [] 0x31 (if 65535 < tolerance.toNat then .clamped 4 n else .done n)
          (setPair k { isSet := true, left := l, right := r, tolerance := min 65535 tolerance.toNat, queue := [] } s))

/-- R86 and R95: ZONES_SET is refused unless zone 0's bound is 0, the bounds rise strictly and no colour component exceeds
1023, and otherwise replaces the whole zone table; TRACKER_CLEAR removes every entry of the pixel tracker and is DONE with
their number. -/
def Obligations.ZonesSetAndTrackerClear : Prop :=
  ∀ (s : State) (bounds : Six (BitVec 16)) (colours : Six (Rgb (BitVec 16))),
    let zone := fun (b : BitVec 16) (c : Rgb (BitVec 16)) =>
      ({ bound := b.toNat, colour := { r := c.r.toNat, g := c.g.toNat, b := c.b.toNat } } : Zone)
    let zones := [zone bounds.z0 colours.z0, zone bounds.z1 colours.z1, zone bounds.z2 colours.z2, zone bounds.z3 colours.z3,
      zone bounds.z4 colours.z4, zone bounds.z5 colours.z5]
    let valid := bounds.z0 = 0 ∧ zones.Pairwise (fun a b => a.bound < b.bound) ∧
      ∀ z ∈ zones, z.colour.r ≤ 1023 ∧ z.colour.g ≤ 1023 ∧ z.colour.b ≤ 1023
    (∃ t, exec (.zonesSet bounds colours) s = .next t ∧
      (valid → Answered s t [] 0x32 (.done 0) (s.withCtu { s.ctu with zones := zones })) ∧
      (¬valid → Answered s t [] 0x32 (.refused .badArgument 0) s)) ∧
    (∃ t, exec .trackerClear s = .next t ∧
      Answered s t [] 0x33 (.done s.ctu.tracker.length) (s.withCtu { s.ctu with tracker := [] }))

/-- R87 to R91: the timecode count and TC_INVALID, the frame-number, timecode and frozen-frame checks against the last
frame, and the exposure check with its warning. Each fault names the camera and the frame, and the clip only while it still
holds the frame's label. -/
def Obligations.FrameEndChecks : Prop :=
  ∀ (s : State) (f : FrameSlot) (base l lastCount lastSignature q : Nat),
    let clip := f.clip.bind (fun i => if (clipAt s i).any (fun c => c.label == f.label) then some i else none)
    let raise := fun (kind : FaultKind) (detail : Nat) (s : State) =>
      raiseFault true { kind := kind, camera := some f.camera, clip := clip, frame := some (f.frame, f.timecode),
                        position := none, detail := detail } s
    let n := f.frame
    let tc := f.timecode
    let hh := min 23 tc.hh
    let mm := min 59 tc.mm
    let ss := min 59 tc.ss
    let ff := min (base - 1) tc.ff
    let t := ((hh * 60 + mm) * 60 + ss) * base + ff
    let e := (lastCount + 1) % (86400 * base)
    let follows := n = (l + 1) % 2 ^ 32
    let cam := cameraAt s f.camera
    timecodeCount base tc = t ∧
    checkInvalid f base s = (if tc = { hh := hh, mm := mm, ss := ss, ff := ff } then s else raise .tcInvalid t s) ∧
    (follows → checkNumber f l s = s) ∧
    (¬follows → n = l → checkNumber f l s = raise .duplicateNumber n s) ∧
    (¬follows → l < n → checkNumber f l s = raise .gap (n - l - 1) s) ∧
    (¬follows → n < l → checkNumber f l s = raise .backstep (l - n) s) ∧
    checkTimecode f base l lastCount s = (if follows ∧ t ≠ e then raise .tcBreak e s else s) ∧
    checkFrozen f l lastSignature s = (if f.signature = lastSignature ∧ n ≠ l then raise .frozenFrame l s else s) ∧
    (cam.warning = false → cam.exposureHigh ≤ q →
      checkExposure f q s = raise .exposureClip q (setCamera f.camera { cam with warning := true } s)) ∧
    (cam.warning = false → q < cam.exposureHigh → checkExposure f q s = s) ∧
    (cam.warning = true → q < cam.exposureHigh - cam.hysteresis →
      checkExposure f q s = setCamera f.camera { cam with warning := false } s) ∧
    (cam.warning = true → cam.exposureHigh - cam.hysteresis ≤ q → checkExposure f q s = s)

/-- R87: the order of a completed frame's processing. The history checks are skipped for a first frame, and so is the stereo
pairing; the last fields, first-frame and frames seen are set at the end, whatever the checks found. -/
def Obligations.FramesAreTrackedInOrder : Prop :=
  ∀ (s : State) (f : FrameSlot) (q mean : Nat),
    let cam := cameraAt s f.camera
    let s1 := checkInvalid f cam.base s
    let s2 := checkFrozen f (cam.lastNumber.getD 0) (cam.lastSignature.getD 0)
      (checkTimecode f cam.base (cam.lastNumber.getD 0) (cam.lastCount.getD 0)
        (checkNumber f (cam.lastNumber.getD 0) s1))
    let rest := fun (t : State) => trackerSteps f (checkExposure f q t)
    let remember := fun (t : State) =>
      setCamera f.camera
        { cameraAt t f.camera with
          lastNumber := some f.frame, lastCount := some (timecodeCount cam.base f.timecode)
          lastSignature := some f.signature, firstFrame := false
          framesSeen := min (2 ^ 32 - 1) ((cameraAt t f.camera).framesSeen + 1) } t
    (cam.firstFrame = true → trackFrame f q mean s = remember (rest s1)) ∧
    (cam.firstFrame = false → trackFrame f q mean s = remember (stereoStep f cam mean (rest s2)))

/-- R93 and R94: the tracker's two passes over a frame's candidates, and STUCK_PIXEL. A candidate matches its camera's entry
at the position, or is added while there is room, or is not tracked, which counts the frame as dropped once; then, unless
the candidate list was incomplete, each other entry of the camera misses, and goes at its third miss. -/
def Obligations.TrackerFollowsCandidates : Prop :=
  ∀ (s : State) (f : FrameSlot) (p : Nat × Nat) (l : List TrackerEntry) (full : Bool) (e : TrackerEntry),
    let c := f.camera
    let mine := fun (x : TrackerEntry) => x.camera = c ∧ (x.x, x.y) = p
    let listed := (e.x, e.y) ∈ f.candidates
    let first := f.candidates.foldl (trackCandidate c) (s.ctu.tracker, false)
    let kept := if f.candidatesOver then first.1 else first.1.filterMap (missEntry c f.candidates)
    let u := s.withCtu { s.ctu with tracker := kept }
    let cam := cameraAt s c
    ((∃ x ∈ l, mine x) → trackCandidate c (l, full) p =
      (l.map (fun x => if mine x then { x with hits := min 255 (x.hits + 1), misses := 0 } else x), full)) ∧
    ((∀ x ∈ l, ¬mine x) → l.length < 32 → trackCandidate c (l, full) p =
      (l ++ [{ camera := c, x := p.1, y := p.2, hits := 1, misses := 0, reported := false }], full)) ∧
    ((∀ x ∈ l, ¬mine x) → 32 ≤ l.length → trackCandidate c (l, full) p = (l, true)) ∧
    (e.camera ≠ c ∨ listed → missEntry c f.candidates e = some e) ∧
    (e.camera = c → ¬listed → missEntry c f.candidates e =
      if e.misses < 2 then some { e with misses := e.misses + 1 } else none) ∧
    trackCandidates f s =
      (if first.2 then setCamera c { cam with framesDropped := min 65535 (cam.framesDropped + 1) } u else u) ∧
    trackerSteps f s = f.candidates.foldl (fun t p => checkStuck f p t) (trackCandidates f s) ∧
    ((∀ x ∈ s.ctu.tracker, ¬mine x) → checkStuck f p s = s) ∧
    (s.ctu.tracker.Pairwise (fun a b => ¬(a.camera = b.camera ∧ a.x = b.x ∧ a.y = b.y)) → e ∈ s.ctu.tracker → mine e →
      checkStuck f p s =
        if cam.persistence ≤ e.hits ∧ e.reported = false then
          raiseFault true (frameFinding s .stuckPixel f (some p) e.hits) (s.withCtu
            { s.ctu with tracker := s.ctu.tracker.map (fun x => if mine x then { x with reported := true } else x) })
        else s)

/-- R97 and R98: the pairing of a frame of a camera in a set pair. While the queue is empty or holds its own eye the frame
is held, the oldest of 8 going unpaired; else the records earlier than it go unpaired, and it pairs with an equal front
record, is held in a queue now empty, or goes unpaired itself. -/
def Obligations.StereoFramesPair : Prop :=
  ∀ (s : State) (f : FrameSlot) (cam : Camera) (mean k : Nat) (before behind : List HeldRecord),
    let p := pairAt s k
    let day := 86400 * cam.base
    let right := decide (p.left ≠ f.camera)
    let t := timecodeCount cam.base f.timecode
    let h : HeldRecord :=
      { right := right, frame := f.frame, timecode := f.timecode, count := t, mean := mean, clip := f.clip, label := f.label }
    let ahead := fun (x : HeldRecord) => (t + day - x.count % day) % day
    let earlier := fun (x : HeldRecord) => 1 ≤ ahead x ∧ ahead x ≤ day / 2
    let queue := fun (q : List HeldRecord) (s : State) => setPair k { pairAt s k with queue := q } s
    let unpaired := fun (s : State) (x : HeldRecord) =>
      raiseFault true
        { kind := .stereoUnpaired, camera := some (if x.right then p.right else p.left)
          clip := heldClip s x.clip x.label, frame := some (x.frame, x.timecode), position := none, detail := k } s
    let passed := before.foldl unpaired (queue behind s)
    let left := fun (x : HeldRecord) => if right then x.mean else mean
    let rightMean := fun (x : HeldRecord) => if right then mean else x.mean
    let step := stereoStep f cam mean s
    cam.firstFrame = false → pairOfCamera s f.camera = some k →
    ((∀ x ∈ p.queue, x.right = right) → p.queue.length < 8 → step = queue (p.queue ++ [h]) s) ∧
    (∀ x q, p.queue = x :: q → (∀ y ∈ p.queue, y.right = right) → 8 ≤ p.queue.length →
      step = queue (q ++ [h]) (unpaired (queue q s) x)) ∧
    (p.queue = before ++ behind → p.queue ≠ [] → (∀ x ∈ p.queue, x.right ≠ right) → (∀ x ∈ before, earlier x) →
      (behind = [] → step = queue [h] passed) ∧
      (∀ x q, behind = x :: q → ahead x = 0 →
        step = if p.tolerance < max (left x) (rightMean x) - min (left x) (rightMean x) then
            raiseFrame .stereoExposure f (65536 * left x + rightMean x) (queue q passed)
          else queue q passed) ∧
      (∀ x q, behind = x :: q → ¬earlier x → ahead x ≠ 0 → step = unpaired passed h))

/-! ### Faults (Chapter 7) -/

/-- R101 to R104 and R106: a fault raised takes the next id, counts against the clip it names by its severity, joins the
list or is left unlisted, and makes one FAULT report; the oldest record that is not both NEW and CRITICAL makes room in a
full list. The lamp of the clip's slot follows a change of crit_open, unless a larger handling computes it. -/
def Obligations.FaultsAreRaised : Prop :=
  ∀ (s : State) (f : Finding),
    let r : FaultRecord :=
      { id := s.fl.nextId, kind := f.kind, camera := f.camera, clip := f.clip, retired := false, frame := f.frame,
        position := f.position, detail := f.detail, acked := false }
    let critical := f.kind ∈ [.gap, .sourceUnverifiable, .cardPulled, .copyWriteFault]
    let note := f.kind ∈ [.tcInvalid, .cameraUnknown, .orphanFrame]
    let open_ := fun (x : FaultRecord) =>
      x.acked = false ∧ x.kind ∈ [.gap, .sourceUnverifiable, .cardPulled, .copyWriteFault]
    let counted := fun (c : Clip) =>
      if critical then { c with critOpen := min 65535 (c.critOpen + 1) }
      else if note then c else { c with warnCount := min 65535 (c.warnCount + 1) }
    let named := f.clip.bind (fun i => (clipAt s i).map (fun c => (i, c)))
    let u := (named.map (fun x => setClip x.1 (some (counted x.2)) s)).getD s
    let counts := named.map (fun x => ((counted x.2).critOpen, (counted x.2).warnCount))
    let l := s.fl.records
    let list := fun (records : List FaultRecord) (unlisted : Nat) =>
      u.withFl { records := records, nextId := if s.fl.nextId = 2 ^ 32 - 1 then 1 else s.fl.nextId + 1, unlisted := unlisted }
    let t := reportFault f s
    (l.length < 256 → Told s t [.fault r true none counts] (list (l ++ [r]) s.fl.unlisted)) ∧
    (∀ i x, 256 ≤ l.length → l[i]? = some x → ¬open_ x → (∀ j y, j < i → l[j]? = some y → open_ y) →
      Told s t [.fault r true (some x.id) counts] (list (l.eraseIdx i ++ [r]) s.fl.unlisted)) ∧
    (256 ≤ l.length → (∀ x ∈ l, open_ x) →
      Told s t [.fault r false none counts] (list l (min (2 ^ 32 - 1) (s.fl.unlisted + 1)))) ∧
    raiseFault false f s = t ∧
    (named = none ∨ ¬critical → raiseFault true f s = t) ∧
    (∀ i c, named = some (i, c) → critical → c.critOpen < 65535 → raiseFault true f s = computeLamp c.slot t)

/-- R107: FAULT_ACK by the record with the id, if the list has one, and CLIP_FAULTS_ACK by the clip. A NEW record becomes
ACKED; a NEW CRITICAL one that names a clip and is not marked retired takes 1 off its crit_open, and the lamp of the clip's
slot is computed before the COMPLETION. R109, the acknowledgement by frame (ACK_HERE): every NEW record of the camera at the
frame becomes ACKED, each clip's crit_open falls by the number of its NEW CRITICAL records among them that are not marked
retired, and then the lamp of each slot whose clip changed is computed, in ascending slot order; the answer is the number of
records made ACKED. R109, the searches of Table 7-3, each among the NEW records of a camera that carry a frame number: the
fault ahead is the WARN or CRITICAL one nearest a, strictly after a and not after b in a forward move and strictly before a
and not before b in a reverse one; the next fault is the least frame after a and the previous fault the greatest before a;
each answers none when nothing is considered. -/
def Obligations.FaultsAreAcknowledged : Prop :=
  (∀ (s : State) (id : BitVec 32) (clip : BitVec 8),
    let l := s.fl.records
    let ack := fun (test : FaultRecord → Bool) (s : State) =>
      s.withFl { s.fl with records := l.map (fun x => if test x then { x with acked := true } else x) }
    let i := clip.toNat
    let mine := fun (x : FaultRecord) => decide (x.acked = false ∧ x.clip = some i ∧ x.retired = false)
    (∃ t, exec (.faultAck id) s = .next t ∧
      ((∀ r ∈ l, r.id ≠ id.toNat) → Answered s t [] 0x40 (.refused .badArgument 0) s) ∧
      (∀ r, l.find? (fun x => x.id == id.toNat) = some r →
        let u := ack (fun x => x.id == id.toNat) s
        (r.acked = true → Answered s t [] 0x40 (.done 0) s) ∧
        (r.acked = false → severityOf r.kind ≠ .critical ∨ r.clip = none ∨ r.retired = true → Answered s t [] 0x40 (.done 1) u) ∧
        (∀ j c, r.acked = false → severityOf r.kind = .critical → r.clip = some j → r.retired = false → clipAt s j = some c →
          let y := setClip j (some { c with critOpen := c.critOpen - 1 }) u
          Answered s t (lampReport c.slot y) 0x40 (.done 1) (relit c.slot y)))) ∧
    (∃ t, exec (.clipFaultsAck clip) s = .next t ∧
      (63 < i → Answered s t [] 0x41 (.refused .badArgument 0) s) ∧
      (i ≤ 63 → clipAt s i = none → Answered s t [] 0x41 (.refused .unknownClip 0) s) ∧
      (∀ c, i ≤ 63 → clipAt s i = some c →
        let y := setClip i (some { c with critOpen := 0 }) (ack mine s)
        if c.critOpen = 0 then Answered s t [] 0x41 (.done (l.countP mine)) y
        else Answered s t (lampReport c.slot y) 0x41 (.done (l.countP mine)) (relit c.slot y)))) ∧
  (∀ (s : State) (camera frame : Nat) (slots : List Nat),
    let hit := fun (r : FaultRecord) =>
      decide (r.acked = false ∧ r.camera = some camera ∧ r.frame.map (fun x => x.1) = some frame)
    let off := fun (i : Nat) =>
      s.fl.records.countP (fun r => hit r && decide (severityOf r.kind = .critical ∧ r.clip = some i ∧ r.retired = false))
    let u := (s.withFl { s.fl with records := s.fl.records.map (fun r => if hit r then { r with acked := true } else r) }).withCt
      { s.ct with clips := s.ct.clips.mapIdx (fun i e => e.map (fun c => { c with critOpen := c.critOpen - off i })) }
    slots.Pairwise (· < ·) →
    (∀ k, k ∈ slots ↔ k < 8 ∧ ∃ i c, clipAt s i = some c ∧ c.slot = k ∧ 0 < c.critOpen ∧ 0 < off i) →
    (ackFrame camera frame s).2 = s.fl.records.countP hit ∧
      Told s (ackFrame camera frame s).1 (lampReports slots u) (relitAll slots u)) ∧
  (∀ (s : State) (camera a b : Nat),
    let fresh := fun (r : FaultRecord) (f : Nat) =>
      r ∈ s.fl.records ∧ r.acked = false ∧ r.camera = some camera ∧ ∃ tc, r.frame = some (f, tc)
    let any := fun (f : Nat) => ∃ r, fresh r f
    let grave := fun (f : Nat) => ∃ r, fresh r f ∧ (severityOf r.kind = .warn ∨ severityOf r.kind = .critical)
    let least := fun (p : Nat → Prop) (x : Option Nat) =>
      (∀ f, x = some f ↔ p f ∧ ∀ g, p g → f ≤ g) ∧ (x = none ↔ ∀ f, ¬p f)
    let greatest := fun (p : Nat → Prop) (x : Option Nat) =>
      (∀ f, x = some f ↔ p f ∧ ∀ g, p g → g ≤ f) ∧ (x = none ↔ ∀ f, ¬p f)
    least (fun f => grave f ∧ a < f ∧ f ≤ b) (faultAhead s camera a b .forward) ∧
    greatest (fun f => grave f ∧ f < a ∧ b ≤ f) (faultAhead s camera a b .reverse) ∧
    least (fun f => any f ∧ a < f) (nextFault s camera a) ∧
    greatest (fun f => any f ∧ f < a) (previousFault s camera a))

/-! ### Looks and pixels (Chapter 8) -/

/-- R115 to R119 and R170: LOOK_LOAD is refused by the first test of Table 8-4 that fails, or sets the slot LOADING, queues
its fetch and waits with its COMPLETION. A data beat of a fetch in flight is staged; the eighth ends the load: with a beat
answered ERROR it is REFUSED LOAD_FAULT and the slot is as before, otherwise the image becomes the active contents, its
lifts clamped, and the COMPLETION names the first one clamped. That a beat is named by its look slot, and changes nothing
for a slot with no fetch in flight, is the model's choice (log entry 5), and so is that fetch failed is clear after a failed
load (log entry 26). -/
def Obligations.LooksAreFetchedAndLoaded : Prop :=
  ∀ (s : State) (slot : BitVec 8) (address : BitVec 64) (target : Fin 8) (d : BeatData) (resp : Resp),
    (∃ t, exec (.lookLoad slot address) s = .next t ∧
      let k := slot.toNat
      let a := address.toNat
      let x := lookSlotAt s k
      if ¬(k ≤ 7 ∧ a % 32 = 0 ∧ a + 256 ≤ 2 ^ 40) then Answered s t [] 0x50 (.refused .badArgument 0) s
      else if x.state = .loading then Answered s t [] 0x50 (.refused .busy 0) s
      else
        let loading : LookSlot :=
          { state := .loading, active := x.active, prior := some x.state, loadSequence := some s.cir.expected
            staged := [], failed := false }
        t = ((s.withCir { s.cir with expected := (s.cir.expected + 1) % 2 ^ 32 }).withLs (s.ls.set k loading)).withTu
          { s.tu with background := s.tu.background ++ [.lookFetch k a] }) ∧
    (∃ t, exec (.lookFetchBeat target d resp) s = .next t ∧
      let k := target.val
      let x := lookSlotAt s k
      let inFlight := x.state = .loading ∧ ∀ a, BackgroundItem.lookFetch k a ∉ s.tu.background
      let staged := x.staged ++ [d]
      let failed := x.failed || decide (resp = .slverr ∨ resp = .decerr)
      let half := fun (o : Nat) => (staged.getD (o / 32) 0).toNat / 2 ^ (8 * (o % 32)) % 65536
      let signed := fun (n : Nat) => if n < 32768 then (n : Int) else (n : Int) - 65536
      let clamped := fun (i : Int) => max (-4096) (min 4095 i)
      let raw : Rgb Int := { r := signed (half 0), g := signed (half 2), b := signed (half 4) }
      let lift : Rgb Int := { r := clamped raw.r, g := clamped raw.g, b := clamped raw.b }
      let points := fun (o : Nat) => (List.range 33).map (fun i => half (o + 2 * i))
      let row := fun (o : Nat) => ({ r := signed (half o), g := signed (half (o + 2)), b := signed (half (o + 4)) } : Rgb Int)
      let flags := half 30 % 256
      let look : Look :=
        { lift := lift, gain := { r := half 6, g := half 8, b := half 10 }
          curve := { r := points 32, g := points 98, b := points 164 }
          matrix := { r := row 12, g := row 18, b := row 24 }
          curveBypass := decide (flags % 2 = 1), matrixBypass := decide (flags / 2 % 2 = 1) }
      let answer : Answer :=
        if lift.r ≠ raw.r then .clamped 1 k else if lift.g ≠ raw.g then .clamped 2 k
        else if lift.b ≠ raw.b then .clamped 3 k else .done k
      let loaded := fun (st : LookState) (active : Option Look) =>
        ({ state := st, active := active, prior := none, loadSequence := none, staged := [], failed := false } : LookSlot)
      (¬inFlight → t = s) ∧
      (inFlight → staged.length < 8 → t = s.withLs (s.ls.set k { x with staged := staged, failed := failed })) ∧
      (∀ n before, inFlight → 8 ≤ staged.length → x.loadSequence = some n → x.prior = some before →
        if failed then
          Told s t [.completion n 0x50 (.refused .badArgument 3)] (s.withLs (s.ls.set k (loaded before x.active)))
        else Told s t [.completion n 0x50 answer] (s.withLs (s.ls.set k (loaded .ready (some look))))))

/-- R114 and R120 to R126: each stage of the pixel pipeline gives the floored and clamped value of its formula, within its
range; the graded output is the four stages in order but for those the look bypasses; the identity look differs from the
ungraded path by at most 1, above 64512 alone; a blend lies between its two components; and every component is 0 to 1023. -/
def Obligations.PixelsAreGradedByTheStages : Prop :=
  (∀ (x gain : Nat) (lift : Int),
    let q := ((x : Int) + lift) * (gain : Int) + 8192
    let v := stageLiftGain x lift gain
    v ≤ 65535 ∧ (q < 0 → v = 0) ∧ (0 ≤ q → q < 65536 * 16384 → 16384 * (v : Int) ≤ q ∧ q < 16384 * ((v : Int) + 1)) ∧
      (65536 * 16384 ≤ q → v = 65535)) ∧
  (∀ (points : List Nat) (i f p q : Nat), points[i]? = some p → points[i + 1]? = some q → f < 2048 →
    let v := stageCurve points (2048 * i + f)
    let n := ((q : Int) - (p : Int)) * (f : Int) + 1024
    min p q ≤ v ∧ v ≤ max p q ∧ 2048 * ((v : Int) - p) ≤ n ∧ n < 2048 * ((v : Int) - p + 1) ∧ (f = 0 → v = p)) ∧
  (∀ (m : Rgb Int) (x : Rgb Nat),
    let q := m.r * (x.r : Int) + m.g * (x.g : Int) + m.b * (x.b : Int) + 2048
    let v := stageMatrixRow m x
    v ≤ 65535 ∧ (q < 0 → v = 0) ∧ (0 ≤ q → q < 65536 * 4096 → 4096 * (v : Int) ≤ q ∧ q < 4096 * ((v : Int) + 1)) ∧
      (65536 * 4096 ≤ q → v = 65535)) ∧
  (∀ (v : Nat), v ≤ 65535 →
    let out := stageOutput v
    out ≤ 1023 ∧ 65535 * out ≤ v * 1023 + 32767 ∧ v * 1023 + 32767 < 65535 * (out + 1) ∧ (v = 65535 → out = 1023)) ∧
  (∀ (l : Look) (x : Rgb Nat),
    let v1 : Rgb Nat :=
      { r := stageLiftGain x.r l.lift.r l.gain.r, g := stageLiftGain x.g l.lift.g l.gain.g
        b := stageLiftGain x.b l.lift.b l.gain.b }
    let v2 : Rgb Nat := if l.curveBypass then v1 else
      { r := stageCurve l.curve.r v1.r, g := stageCurve l.curve.g v1.g, b := stageCurve l.curve.b v1.b }
    let v3 : Rgb Nat := if l.matrixBypass then v2 else
      { r := stageMatrixRow l.matrix.r v2, g := stageMatrixRow l.matrix.g v2, b := stageMatrixRow l.matrix.b v2 }
    graded l x = { r := stageOutput v3.r, g := stageOutput v3.g, b := stageOutput v3.b }) ∧
  (∀ (x : Nat), x ≤ 65535 →
    let out := (graded identityLook { r := x, g := x, b := x }).g
    (x ≤ 64512 → out = stageOutput x) ∧ out ≤ stageOutput x ∧ stageOutput x ≤ out + 1) ∧
  (∀ (a b m : Nat), a ≤ 1023 → b ≤ 1023 → m ≤ 256 →
    let out := blendComponent a b m
    out ≤ 1023 ∧ min a b ≤ out ∧ out ≤ max a b ∧ (m = 0 → out = a) ∧ (m = 256 → out = b) ∧
      256 * out ≤ a * (256 - m) + b * m + 128 ∧ a * (256 - m) + b * m + 128 < 256 * (out + 1)) ∧
  (∀ (zones : List Zone) (x : Rgb Nat) (z : Nat) (w : Zone),
    let y := (2 * x.r + 5 * x.g + x.b) / 8
    zones[z]? = some w → w.bound ≤ y → (∀ j v, z < j → zones[j]? = some v → y < v.bound) → zoneColour zones x = w.colour)

/-! ### Views (Chapter 9) -/

/-- R129: VIEW_WINDOW_SET is refused by its tests in their order, the overlap test last; one that passes replaces the view's
window, with stride width x 4 rounded up to a multiple of 32, and makes last row read absent. -/
def Obligations.ViewWindowSetReplacesTheWindow : Prop :=
  ∀ (s : State) (view : BitVec 8) (base : BitVec 64) (width height : BitVec 16),
    let v := view.toNat
    let x := viewAt s v
    let stride := 32 * ((4 * width.toNat + 31) / 32)
    let others := controlPage s :: (poolWindows s ++ viewWindows s (1 - v) ++ streamWindows s)
    ∃ t, exec (.viewWindowSet view base width height) s = .next t ∧
      if 1 < v ∨ width.toNat < 16 ∨ 8192 < width.toNat ∨ height.toNat < 16 ∨ 4320 < height.toNat ∨ base.toNat % 32 ≠ 0 ∨
          2 ^ 40 < base.toNat + stride * height.toNat then
        Answered s t [] 0x02 (.refused .badArgument 0) s
      else if x.pending.on = true ∨ x.current.on = true then Answered s t [] 0x02 (.refused .wrongState 0) s
      else if ∃ w ∈ others, w.base < base.toNat + stride * height.toNat ∧ base.toNat < w.base + w.size ∧ 0 < w.size then
        Answered s t [] 0x02 (.refused .overlap 0) s
      else
        Answered s t [] 0x02 (.done stride) (setView v
          { x with
            window := some { base := base.toNat, width := width.toNat, height := height.toNat, stride := stride }
            lastRow := none } s)

/-- R130: VIEW_ON, VIEW_OFF, ZONES_ON, ZONES_OFF, VIEW_SOURCE and VIEW_GEOMETRY write the pending copy of one view, or are
refused by the tests in their order. -/
def Obligations.ViewSettingsWriteThePendingCopy : Prop :=
  ∀ (s : State) (view camera : BitVec 8) (x0 y0 : BitVec 16) (decimation hFlip vFlip : BitVec 8),
    let v := view.toNat
    let p := (viewAt s v).pending
    (∃ t, exec (.viewOn view) s = .next t ∧
      if 1 < v then Answered s t [] 0x60 (.refused .badArgument 0) s
      else if (viewAt s v).window = none then Answered s t [] 0x60 (.refused .notConfigured 0) s
      else Answered s t [] 0x60 (.done (if p.on then 0 else 1)) (setPending v { p with on := true } s)) ∧
    (∃ t, exec (.viewOff view) s = .next t ∧
      if 1 < v then Answered s t [] 0x61 (.refused .badArgument 0) s
      else Answered s t [] 0x61 (.done (if p.on then 1 else 0)) (setPending v { p with on := false } s)) ∧
    (∃ t, exec (.zonesOn view) s = .next t ∧
      if 1 < v then Answered s t [] 0x62 (.refused .badArgument 0) s
      else Answered s t [] 0x62 (.done (if p.zones then 0 else 1)) (setPending v { p with zones := true } s)) ∧
    (∃ t, exec (.zonesOff view) s = .next t ∧
      if 1 < v then Answered s t [] 0x63 (.refused .badArgument 0) s
      else Answered s t [] 0x63 (.done (if p.zones then 1 else 0)) (setPending v { p with zones := false } s)) ∧
    (∃ t, exec (.viewSource view camera) s = .next t ∧
      if 1 < v ∨ 15 < camera.toNat then Answered s t [] 0x69 (.refused .badArgument 0) s
      else if (cameraAt s camera.toNat).configured = false then Answered s t [] 0x69 (.refused .notConfigured 0) s
      else Answered s t [] 0x69 (.done 0) (setPending v { p with camera := camera.toNat } s)) ∧
    (∃ t, exec (.viewGeometry view x0 y0 decimation hFlip vFlip) s = .next t ∧
      if 1 < v ∨ 8191 < x0.toNat ∨ 4319 < y0.toNat ∨ decimation.toNat ∉ [1, 2, 4] then
        Answered s t [] 0x64 (.refused .badArgument 0) s
      else
        Answered s t [] 0x64 (.done 0) (setPending v
          { p with
            x0 := x0.toNat, y0 := y0.toNat, decimation := decimation.toNat
            hFlip := decide (hFlip ≠ 0), vFlip := decide (vFlip ≠ 0) } s))

/-- R131: LOOK_SELECT, BANDS_SET, OVERLAY_SET and CLIP_MARK_SET write the pending copy of one view, or are refused; a ramp
rate is clamped to 0-256, and BANDS_SET and OVERLAY_SET clear their reported flags. The bands of a payload are those within
its count, and each looks to a slot 0-7 or is UNGRADED, code 0xFF. -/
def Obligations.LooksBandsOverlaysAndMarksWriteThePendingCopy : Prop :=
  ∀ (s : State) (view slot on : BitVec 8) (rate : BitVec 16) (colour : Rgb (BitVec 16)) (count look1 look2 mode : BitVec 8)
    (start1 end1 start2 end2 : BitVec 16) (address : BitVec 64) (stride : BitVec 32) (count1 count2 : BitVec 8),
    let v := view.toNat
    let x := viewAt s v
    let p := x.pending
    let graded := fun (l : BitVec 8) => l.toNat ≤ 7 ∨ l.toNat = 255
    let band := fun (b e : BitVec 16) (l : BitVec 8) =>
      ({ first := b.toNat, last := e.toNat, look := if l.toNat = 255 then none else some l.toNat } : Band)
    let bands := [band start1 end1 look1, band start2 end2 look2].take count.toNat
    (∃ t, exec (.lookSelect view slot rate) s = .next t ∧
      if 1 < v ∨ 7 < slot.toNat then Answered s t [] 0x68 (.refused .badArgument 0) s
      else
        Answered s t [] 0x68 (if 256 < rate.toNat then .clamped 3 0 else .done 0)
          (setPending v { p with primary := slot.toNat, rate := min 256 rate.toNat } s)) ∧
    (∃ t, exec (.bandsSet view count start1 end1 look1 start2 end2 look2 mode) s = .next t ∧
      if 1 < v ∨ 2 < count.toNat ∨ (1 ≤ count.toNat ∧ ¬graded look1) ∨ (2 ≤ count.toNat ∧ ¬graded look2) ∨ 1 < mode.toNat then
        Answered s t [] 0x65 (.refused .badArgument 0) s
      else
        Answered s t [] 0x65 (.done 0) (setView v
          { x with pending := { p with bands := bands, outsideBlack := decide (mode = 1) }, bandsReported := false } s)) ∧
    (∃ t, exec (.overlaySet view address stride start1 count1 start2 count2) s = .next t ∧
      if 1 < v ∨ address.toNat % 32 ≠ 0 ∨ stride.toNat % 32 ≠ 0 ∨ stride = 0 ∨ 64 < count1.toNat ∨ 64 < count2.toNat ∨
          2 ^ 40 < address.toNat + 4320 * stride.toNat then
        Answered s t [] 0x66 (.refused .badArgument 0) s
      else
        Answered s t [] 0x66 (.done 0) (setView v
          { x with
            pending := { p with
              overlayAddress := address.toNat, overlayStride := stride.toNat
              strip1 := { start := start1.toNat, count := count1.toNat }
              strip2 := { start := start2.toNat, count := count2.toNat } }
            overlayReported := false } s)) ∧
    (∃ t, exec (.clipMarkSet view on colour) s = .next t ∧
      if 1 < v ∨ 1023 < colour.r.toNat ∨ 1023 < colour.g.toNat ∨ 1023 < colour.b.toNat then
        Answered s t [] 0x67 (.refused .badArgument 0) s
      else
        Answered s t [] 0x67 (.done 0) (setPending v
          { p with
            clipMark := decide (on ≠ 0)
            markColour := { r := colour.r.toNat, g := colour.g.toNat, b := colour.b.toNat } } s))

/-- R132 to R135 and R118: a display frame boundary makes the pending settings current, keeps the bands and strips that fit
and reports the first drop of each, steps the look mix by Table 9-3, advances the shuttle with its ARRIVED report, pins the
COMPLETE slot of the frame at the new position, else of the greatest frame below it, else the slot pinned before, and takes
the display frame copies. -/
def Obligations.DisplayFrameBoundaryActsInOrder : Prop :=
  ∀ (s : State) (v h : Nat), v < 2 → s.ve.length = 2 → s.sh.length = 2 → (viewAt s v).pending.bands.length ≤ 2 →
    let x := viewAt s v
    let y := x.pending
    let n := (x.frameCount + 1) % 2 ^ 32
    let fits := fun (b : Band) => b.first ≤ b.last ∧ b.last < h
    let bands := match y.bands with
      | [] => []
      | [b] => if fits b then [b] else []
      | b :: c :: _ => if fits b then (if b.last < c.first ∧ fits c then [b, c] else [b]) else []
    let second := fun (after : Nat) =>
      if 0 < y.strip2.count ∧ after ≤ y.strip2.start ∧ y.strip2.start + y.strip2.count ≤ h then [y.strip2] else []
    let strips :=
      if y.strip1.count = 0 then second 0
      else if y.strip1.start + y.strip1.count ≤ h then y.strip1 :: second (y.strip1.start + y.strip1.count)
      else []
    let present := (if y.strip1.count = 0 then 0 else 1) + (if y.strip2.count = 0 then 0 else 1)
    let bandsDrop := bands.length < y.bands.length
    let stripsDrop := strips.length < present
    let p := y.primary
    let q := y.rate
    let none0 := fun (a : Nat) => ({ a := a, b := none, m := 0 } : Mix)
    let ramp := fun (a b : Nat) => ({ a := a, b := some b, m := 0 } : Mix)
    let mix := if x.mixReset then none0 0 else match x.mix.b with
      | none => if p = x.mix.a then x.mix else if q = 0 then none0 p else ramp x.mix.a p
      | some b =>
        if p = b then (if 256 ≤ x.mix.m + q then none0 b else { x.mix with m := x.mix.m + q })
        else
          let w := if 128 ≤ x.mix.m then b else x.mix.a
          if p = w then none0 w else if q = 0 then none0 p else ramp w p
    let r := boundaryMotion s y.camera (motionAt s v)
    let shown := r.1.position / 256
    let frame := fun (k : Nat) => (frameSlotAt s k).frame
    let ready := fun (k : Nat) =>
      k < s.fiu.slots.length ∧ (frameSlotAt s k).state = .complete ∧ (frameSlotAt s k).camera = y.camera
    let pinned := fun (k : Nat) =>
      let f := frameSlotAt s k
      some ({ slot := k, generation := f.generation, frame := f.frame, width := f.width, height := f.height
              stride := f.stride } : Pin)
    let exact := ∃ k, ready k ∧ frame k = shown
    let lower := ∃ k, ready k ∧ frame k < shown
    let kept := fun (p : Pin) => (frameSlotAt s p.slot).state = .complete ∧ (frameSlotAt s p.slot).generation = p.generation
    let off := y.on = false ∨ s.fiu.pool = none
    let look := fun (k : Nat) => (lookSlotAt s k).active.getD identityLook
    let copies : FrameCopies :=
      { lookA := look mix.a, lookB := mix.b.map look
        bands := bands.map (fun b => { first := b.first, last := b.last, look := b.look.map look })
        strips := strips, zones := s.ctu.zones, clipLevel := (cameraAt s y.camera).clipLevel }
    let drops := fun (d : Prop) (kind : ViewKind) (reported : Bool) (k : Nat) (l : List ReportBody) =>
      (d → reported = false → l = [.view v kind n x.pin k]) ∧ (¬(d ∧ reported = false) → l = [])
    ∃ pin lb ls,
      drops bandsDrop .bandsClamped x.bandsReported bands.length lb ∧
      drops stripsDrop .overlayClamped x.overlayReported strips.length ls ∧
      (off → pin = none) ∧
      (∀ k, ¬off → ready k → frame k = shown → (∀ j, j < k → ready j → frame j ≠ shown) → pin = pinned k) ∧
      (∀ k, ¬off → ¬exact → ready k → frame k < shown → (∀ j, ready j → frame j < shown → frame j ≤ frame k) →
        (∀ j, j < k → ready j → frame j ≠ frame k) → pin = pinned k) ∧
      (∀ p, ¬off → ¬exact → ¬lower → x.pin = some p → kept p → pin = some p) ∧
      (¬off → ¬exact → ¬lower → (∀ p, x.pin = some p → ¬kept p) → pin = none) ∧
      Told s (takeBoundary v h s)
        (lb ++ ls ++ (match r.2 with | none => [] | some f => [.view v .arrived n x.pin f]))
        ((s.withVe (s.ve.set v { x with
            current := y, frameCount := n, mix := mix, mixReset := false, pin := pin, copies := some copies
            bandsReported := decide bandsDrop, overlayReported := decide stripsDrop })).withSh (s.sh.set v r.1))

/-- R132, R136 and R138: a view read that reads row 0 after another row makes a boundary first; then the read latches the
view as it stands. With the view on, its own reads join the tail of the arrival-ordered queue: the source beats of its
pinned frame that it needs, cut into requests of at most 16 beats, then its overlay beats in a kept strip, at most nine in
all. A read that issues none is answered at once, any other is in service. The model's choices: own reads are named by tag
and index (log entry 5), and an overlay read's address past 2^40 - 1 stays the natural number of R138's formula (log entry
27). -/
def Obligations.ViewReadsAreLatchedAndServed : Prop :=
  ∀ (s : State) (v tag row column beats : Nat) (w : ViewWindow), v < s.ve.length →
    let t := if row = 0 ∧ (viewAt s v).lastRow ≠ some 0 then takeBoundary v w.height s else s
    let x := viewAt t v
    let u := t.withVe (t.ve.set v { x with lastRow := some row })
    let set := x.current
    let y := set.y0 + set.decimation * (if set.vFlip then w.height - 1 - row else row)
    let column_ := fun (j : Nat) => set.x0 + set.decimation * (if set.hFlip then w.width - 1 - j else j)
    let needs := fun (p : Pin) (c : Nat) => y < p.height ∧
      ∃ j, column ≤ j ∧ j < column + 8 * beats ∧ j < w.width ∧ c = column_ j ∧ c < p.width
    let poolBase := (t.fiu.pool.map (fun p => p.base)).getD 0
    let slotSize := (t.fiu.pool.map (fun p => p.size)).getD 0
    let r : ServedRead :=
      { tag := tag, row := row, column := column, beats := beats, width := w.width, height := w.height, settings := set
        mix := x.mix, pin := x.pin, copies := x.copies, frameCount := x.frameCount, pinLost := false, reads := [] }
    let overlay : List OwnRead := match x.copies with
      | none => []
      | some c =>
        if c.strips.any (fun z => decide (z.start ≤ row ∧ row < z.start + z.count)) then
          [{ overlay := true, addr := set.overlayAddress + row * set.overlayStride + 4 * column, beats := beats, data := [] }]
        else []
    let served := fun (own : List OwnRead) =>
      let q := { r with reads := own }
      let i := u.withVe (u.ve.set v { viewAt u v with reads := x.reads ++ [q] })
      viewRead v tag row column beats w s =
        if own = [] then u.withTu { u.tu with
          book := u.tu.book.map (fun e => if e.tag = tag then { e with answer := some (.read (answerRead r)) } else e) }
        else i.withTu { i.tu with
          arrival := i.tu.arrival ++ (List.range own.length).map (fun n => ArrivalItem.viewRead tag n) }
    (set.on = false → served []) ∧
    (set.on = true → x.pin = none → served overlay) ∧
    (∀ p, set.on = true → x.pin = some p → (∀ c, ¬needs p c) → served overlay) ∧
    (∀ p lo hi, set.on = true → x.pin = some p → needs p lo → needs p hi → (∀ c, needs p c → lo ≤ c ∧ c ≤ hi) →
      let n := hi / 4 - lo / 4 + 1
      let a := poolBase + p.slot * slotSize + 256 + y * p.stride + 32 * (lo / 4)
      let source := (List.range ((n + 15) / 16)).map (fun i =>
        ({ overlay := false, addr := a + 512 * i, beats := min 16 (n - 16 * i), data := [] } : OwnRead))
      served (source ++ overlay) ∧
        (beats ≤ 16 → set.decimation ≤ 4 → n ≤ 128 ∧ (source ++ overlay).length ≤ 9))

/-- R73, R138, R140 and R141: beats of an own read that was sent join what has returned of it, up to its length (log entry
20); that a return names its read by tag and index, and one not sent or complete changes nothing, is log entry 5; the first
ERROR of a read counts a fetch fault, reported once per display frame; and when all its own reads have returned whole the
read leaves service and its answer stands in the order book. A header judgement on a view's pinned slot releases the pin
with one SLOT_LOST report, and the reads in service that latched it find it lost; two views that pinned it have their notice
in an order that the spec leaves open (log entry 9). -/
def Obligations.OwnReadsReturnAndPinsAreLost : Prop :=
  ∀ (s : State) (tag index v k : Nat) (beats : List ReadBeat),
    let x := viewAt s v
    let put := fun (y : View) => s.withVe (s.ve.set v y)
    let serves := fun (v : Nat) => ∃ r ∈ (viewAt s v).reads, r.tag = tag
    let bad := fun (b : ReadBeat) => b.resp = .slverr ∨ b.resp = .decerr
    let failed := fun (r : ServedRead) => ∃ o ∈ r.reads, ∃ b ∈ o.data, bad b
    (∃ t, exec (.viewFetchReturn tag index beats) s = .next t ∧
      ((∀ v, v < s.ve.length → ¬serves v) → t = s) ∧
      (∀ before r behind, v < s.ve.length → (∀ u, u < v → ¬serves u) → x.reads = before ++ r :: behind → r.tag = tag →
        (∀ y ∈ before ++ behind, y.tag ≠ tag) →
        let sent := ArrivalItem.viewRead tag index ∉ s.tu.arrival ∧ ∃ o, r.reads[index]? = some o ∧ o.data.length < o.beats
        let q := { r with reads := r.reads.modify index (fun o => { o with data := (o.data ++ beats).take o.beats }) }
        let whole := ∀ o ∈ q.reads, o.beats ≤ o.data.length
        let n := min (2 ^ 32 - 1) (x.fetchFaults + 1)
        let first := ¬failed r ∧ failed q
        let reads := before ++ (if whole then [] else [q]) ++ behind
        let answered := fun (z : State) =>
          z.withTu { z.tu with
            book := z.tu.book.map (fun e => if e.tag = tag then { e with answer := some (.read (answerRead q)) } else e) }
        let done := fun (z : State) => if whole then answered z else z
        (¬sent → t = s) ∧
        (sent → ¬first → t = done (put { x with reads := reads })) ∧
        (sent → first → x.lastFetchFault = some r.frameCount → t = done (put { x with reads := reads, fetchFaults := n })) ∧
        (sent → first → x.lastFetchFault ≠ some r.frameCount →
          Told s t [.view v .fetchFault r.frameCount x.pin n]
            (done (put { x with reads := reads, fetchFaults := n, lastFetchFault := some r.frameCount }))))) ∧
    (v < s.ve.length →
      ((∀ p, x.pin = some p → p.slot ≠ k) → noticeView k v s = s) ∧
      (∀ p, x.pin = some p → p.slot = k →
        let lost := fun (r : ServedRead) =>
          if r.pin ≠ none ∧ r.frameCount = x.frameCount then { r with pinLost := true } else r
        Told s (noticeView k v s)
          [.view v .slotLost x.frameCount (some p) (match (frameSlotAt s k).state with
            | .empty => 0 | .filling => 1 | .complete => 2 | .bad => 3)]
          (put { x with pin := none, reads := x.reads.map lost }))) ∧
    (∀ p, s.ve.length = 2 → (viewAt s v).pin = some p → p.slot = k →
      (∀ u, u < 2 → u ≠ v → ∀ p, (viewAt s u).pin = some p → p.slot ≠ k) → v < 2 → noticeViews k s = noticeView k v s) ∧
    (∀ p q, s.ve.length = 2 → (viewAt s 0).pin = some p → p.slot = k → (viewAt s 1).pin = some q → q.slot = k →
      let u := s.withFree (s.free + 1)
      noticeViews k s = if Config.reverseOrder s.free = true then noticeView k 0 (noticeView k 1 u)
        else noticeView k 1 (noticeView k 0 u)) ∧
    ((∀ u p, (viewAt s u).pin = some p → p.slot ≠ k) → noticeViews k s = s)

/-- R137, R139 and R140: each output pixel of an answered view read takes the first step that decides it: 0 in the padding,
black with the view off, the fill after a fetch fault or with no frame, black outside the frame, else the graded source
pixel, clip-marked and overlaid; and the answer's beats carry eight such pixels each, ten bits a component, with the
response OK. -/
def Obligations.ViewPixelsAreFormedByTheSteps : Prop :=
  ∀ (r : ServedRead) (j : Nat),
    let fill : Rgb Nat := { r := 512, g := 512, b := 512 }
    let dark : Rgb Nat := { r := 0, g := 0, b := 0 }
    let failed := ∃ o ∈ r.reads, ∃ b ∈ o.data, b.resp = .slverr ∨ b.resp = .decerr
    let row := r.settings.y0 + r.settings.decimation * (if r.settings.vFlip then r.height - 1 - r.row else r.row)
    let column := fun (j : Nat) =>
      r.settings.x0 + r.settings.decimation * (if r.settings.hFlip then r.width - 1 - j else j)
    let inStrip := fun (c : FrameCopies) => ∃ t ∈ c.strips, t.start ≤ r.row ∧ r.row < t.start + t.count
    let word := (((r.reads.filter (fun o => o.overlay)).flatMap (fun o => o.data))[(j - r.column) / 8]?.map
      (fun b => b.data.toNat / 2 ^ (32 * ((j - r.column) % 8)) % 2 ^ 32)).getD 0
    let overlaid := fun (c : FrameCopies) (p q : Rgb Nat) =>
      (inStrip c → 2 ^ 31 ≤ word → q = { r := word / 2 ^ 20 % 1024, g := word / 2 ^ 10 % 1024, b := word % 1024 }) ∧
        (¬(inStrip c ∧ 2 ^ 31 ≤ word) → q = p)
    let out := outputPixel r j
    let live := j < r.width ∧ r.settings.on = true ∧ ¬failed
    let inBand := fun (b : BandCopy) => b.first ≤ r.row ∧ r.row ≤ b.last
    (r.width ≤ j → out = dark) ∧
    (j < r.width → r.settings.on = false → out = dark) ∧
    (j < r.width → r.settings.on = true → failed → out = fill) ∧
    (∀ c, live → r.copies = some c → r.pin = none ∨ r.pinLost = true → overlaid c fill out) ∧
    (∀ c p, live → r.copies = some c → r.pin = some p → r.pinLost = false → ¬(row < p.height ∧ column j < p.width) →
      overlaid c dark out) ∧
    (∀ c p first n, live → r.copies = some c → r.pin = some p → r.pinLost = false → row < p.height → column j < p.width →
      r.column ≤ j → j < r.column + 8 * r.beats →
      (∃ i, r.column ≤ i ∧ i < r.column + 8 * r.beats ∧ i < r.width ∧ column i < p.width ∧ column i = n) →
      (∀ i, r.column ≤ i → i < r.column + 8 * r.beats → i < r.width → column i < p.width → n ≤ column i) →
      first = n / 4 →
      let beat := (((r.reads.filter (fun o => !o.overlay)).flatMap (fun o => o.data))[column j / 4 - first]?.map
        (fun b => b.data.toNat)).getD 0
      let code := fun (i : Nat) => beat / 2 ^ (8 * (8 * (column j % 4) + i)) % 65536
      let x : Rgb Nat := { r := code 0, g := code 2, b := code 4 }
      ∃ g, (r.settings.zones = true → g = zoneColour c.zones x) ∧
        (∀ before b behind, r.settings.zones = false → c.bands = before ++ b :: behind → (∀ y ∈ before, ¬inBand y) → inBand b →
          (∀ l, b.look = some l → g = graded l x) ∧ (b.look = none → g = outputs x)) ∧
        (r.settings.zones = false → (∀ y ∈ c.bands, ¬inBand y) →
          (r.settings.outsideBlack = true → g = dark) ∧
          (r.settings.outsideBlack = false → c.lookB = none → g = graded c.lookA x) ∧
          (∀ l, r.settings.outsideBlack = false → c.lookB = some l →
            g = blend (graded c.lookA x) (graded l x) r.mix.m)) ∧
        (let marked := r.settings.clipMark = true ∧ (c.clipLevel ≤ x.r ∨ c.clipLevel ≤ x.g ∨ c.clipLevel ≤ x.b)
         (marked → overlaid c r.settings.markColour out) ∧ (¬marked → overlaid c g out))) ∧
    (answerRead r).length = r.beats ∧
    (∀ i k b, (answerRead r)[i]? = some b → k < 8 →
      let p := outputPixel r (r.column + 8 * i + k)
      b.resp = .okay ∧
        b.data.toNat / 2 ^ (32 * k) % 2 ^ 32 = 2 ^ 20 * (p.r % 1024) + 2 ^ 10 * (p.g % 1024) + p.b % 1024)

/-! ### Shuttles (Chapter 10) -/

/-- R146 and R147: SHUTTLE_PROFILE replaces the profile of a view with each field clamped and is CLAMPED naming the first
field clamped, or DONE; SHUTTLE_LOCATE sets the pending locate and clears the pending jog. Each is refused for a view above
1. R147 and R148, what a boundary or a SHUTTLE_GO applies: a pending locate puts the context at rest on its frame; a pending
jog, after it, moves the position by whole frames within its range and, in a move that keeps its target, not past it, and
ends an ARRIVED move. -/
def Obligations.ShuttleProfileAndLocate : Prop :=
  ∀ (s : State) (view : BitVec 8) (s0 s1 s2 s3 s4 n : BitVec 16) (preDwell postDwell stopOnFault : BitVec 8)
    (frame : BitVec 32),
    let v := view.toNat
    let m := motionAt s v
    let speed := fun (x : BitVec 16) => max 1 (min 4096 x.toNat)
    let q : Profile :=
      { s0 := speed s0, s1 := speed s1, s2 := speed s2, s3 := speed s3, s4 := speed s4, n := max 1 (min 1023 n.toNat),
        preDwell := min 63 preDwell.toNat, postDwell := min 63 postDwell.toNat, stopOnFault := decide (stopOnFault ≠ 0) }
    let fields :=
      [(2, s0.toNat, q.s0), (3, s1.toNat, q.s1), (4, s2.toNat, q.s2), (5, s3.toNat, q.s3), (6, s4.toNat, q.s4),
        (7, n.toNat, q.n), (8, preDwell.toNat, q.preDwell), (9, postDwell.toNat, q.postDwell)]
    (∃ t, exec (.shuttleProfile view s0 s1 s2 s3 s4 n preDwell postDwell stopOnFault) s = .next t ∧
      if 1 < v then Answered s t [] 0x70 (.refused .badArgument 0) s
      else
        Answered s t [] 0x70
          (match fields.find? (fun f => decide (f.2.1 ≠ f.2.2)) with
            | some f => .clamped f.1 0
            | none => .done 0)
          (setMotion v { m with profile := q } s)) ∧
    (∃ t, exec (.shuttleLocate view frame) s = .next t ∧
      if 1 < v then Answered s t [] 0x75 (.refused .badArgument 0) s
      else
        Answered s t [] 0x75 (.done frame.toNat)
          (setMotion v { m with pendingLocate := some frame.toNat, pendingJog := 0 } s)) ∧
    (∀ x : Motion, x.pendingLocate = none → applyLocate x = x) ∧
    (∀ (x : Motion) (f : Nat), x.pendingLocate = some f → applyLocate x =
      { x with position := f * 256, phase := .idle, start := none, target := none, heldPhase := none, continuous := false,
               looping := false, stageCounter := 0, dwellCounter := 0, pendingLocate := none }) ∧
    (∀ x : Motion,
      let moved := (max 0 (min (2 ^ 40 - 256) ((x.position : Int) + 256 * x.pendingJog))).toNat
      (x.pendingJog = 0 → applyJog x = x) ∧
      (x.pendingJog ≠ 0 → x.phase = .arrived →
        applyJog x = { x with position := moved, pendingJog := 0, phase := .idle, start := none, target := none }) ∧
      (x.pendingJog ≠ 0 → x.phase = .idle ∨ x.phase ≠ .arrived ∧ x.target = none →
        applyJog x = { x with position := moved, pendingJog := 0 }) ∧
      (∀ u, x.pendingJog ≠ 0 → x.phase ≠ .idle → x.phase ≠ .arrived → x.target = some u →
        applyJog x =
          { x with position := if x.direction = .forward then min moved u else max moved u, pendingJog := 0 }))

/-- R149: SHUTTLE_GO is refused for a view above 1, a distance above 1048575 frames or a direction code other than 0 and 1;
otherwise it applies a pending locate and a pending jog, as ShuttleProfileAndLocate writes them out, and starts the move
from the whole frame so reached. -/
def Obligations.ShuttleGoStartsAMove : Prop :=
  ∀ (s : State) (view : BitVec 8) (distance : BitVec 32) (direction : BitVec 8),
    let v := view.toNat
    let d := distance.toNat
    let m := applyJog (applyLocate (motionAt s v))
    let start := m.position / 256 * 256
    let forward := if d = 0 then 2 ^ 40 - 256 else min (2 ^ 40 - 256) (start + d * 256)
    let reverse := if d = 0 then 0 else start - d * 256
    let target := if direction = 0 then forward else reverse
    ∃ t, exec (.shuttleGo view distance direction) s = .next t ∧
      if 1 < v ∨ 1048575 < d ∨ 1 < direction.toNat then Answered s t [] 0x71 (.refused .badArgument 0) s
      else
        Answered s t [] 0x71 (.done (target / 256)) (setMotion v
          { m with
            start := some start
            target := some target
            continuous := decide (d = 0)
            looping := decide (d ≠ 0)
            direction := if direction = 0 then .forward else .reverse
            heldPhase := none
            stageCounter := 0
            phase := if m.profile.preDwell = 0 then .accel1 else .preroll
            dwellCounter := if m.profile.preDwell = 0 then m.dwellCounter else m.profile.preDwell } s)

/-- R155: SHUTTLE_STOP by the phase. In a dwell or while held the move is dropped where it stands; while it runs up or
cruises the target becomes the nearer of the present one and the whole frame at the stopping distance; a move that is
stopping only stops looping; at rest nothing changes. -/
def Obligations.ShuttleStopByThePhase : Prop :=
  ∀ (s : State) (view : BitVec 8),
    let v := view.toNat
    let m := motionAt s v
    let p := m.profile
    let stopAt := fun (d : Nat) =>
      if m.direction = .forward then (m.position + d + 255) / 256 * 256 else (m.position - d) / 256 * 256
    let away := fun (x : Nat) => max x m.position - min x m.position
    let slow := fun (d u : Nat) =>
      let g := if away (stopAt d) ≤ away u then stopAt d else u
      ({ m with target := some g, continuous := false, looping := false,
                phase := if m.phase = .continuous then .cruise else m.phase }, g / 256)
    ∃ t, exec (.shuttleStop view) s = .next t ∧
      if 1 < v then Answered s t [] 0x72 (.refused .badArgument 0) s
      else
        (m.phase = .preroll ∨ m.phase = .postroll ∨ m.phase = .held →
          Answered s t [] 0x72 (.done 1) (setMotion v
            { m with phase := .idle, start := none, target := none, heldPhase := none, continuous := false,
                     looping := false } s)) ∧
        (∀ u, m.target = some u →
          (m.phase = .accel1 → Answered s t [] 0x72 (.done (slow 0 u).2) (setMotion v (slow 0 u).1 s)) ∧
          (m.phase = .accel2 →
            Answered s t [] 0x72 (.done (slow (p.n * p.s1) u).2) (setMotion v (slow (p.n * p.s1) u).1 s)) ∧
          (m.phase = .accel3 →
            Answered s t [] 0x72 (.done (slow (p.n * (p.s1 + p.s2)) u).2) (setMotion v (slow (p.n * (p.s1 + p.s2)) u).1 s)) ∧
          (m.phase = .cruise ∨ m.phase = .continuous →
            Answered s t [] 0x72 (.done (slow (p.n * (p.s1 + p.s2 + p.s3)) u).2)
              (setMotion v (slow (p.n * (p.s1 + p.s2 + p.s3)) u).1 s)) ∧
          (m.phase = .decel3 ∨ m.phase = .decel2 ∨ m.phase = .decel1 ∨ m.phase = .landing →
            Answered s t [] 0x72 (.done (u / 256)) (setMotion v { m with looping := false } s))) ∧
        (m.phase = .idle ∨ m.phase = .arrived → Answered s t [] 0x72 (.done 0) (setMotion v m s))

/-- R156: SHUTTLE_HOLD stores the phase and holds; SHUTTLE_RELEASE goes back to it; each does nothing, with detail 0, when
there is nothing to do; and a boundary of a HELD context applies a pending locate and jog, as ShuttleProfileAndLocate writes
them out, and nothing more. -/
def Obligations.ShuttleHoldAndRelease : Prop :=
  ∀ (s : State) (view : BitVec 8),
    let v := view.toNat
    let m := motionAt s v
    (∃ t, exec (.shuttleHold view) s = .next t ∧
      if 1 < v then Answered s t [] 0x73 (.refused .badArgument 0) s
      else if m.phase = .held then Answered s t [] 0x73 (.done 0) (setMotion v m s)
      else Answered s t [] 0x73 (.done 1) (setMotion v { m with heldPhase := some m.phase, phase := .held } s)) ∧
    (∃ t, exec (.shuttleRelease view) s = .next t ∧
      if 1 < v then Answered s t [] 0x74 (.refused .badArgument 0) s
      else if m.phase = .held then
        ∀ q, m.heldPhase = some q → Answered s t [] 0x74 (.done 1) (setMotion v { m with phase := q, heldPhase := none } s)
      else Answered s t [] 0x74 (.done 0) (setMotion v m s)) ∧
    (∀ camera, m.phase = .held → m.pendingLocate = none →
      boundaryMotion s camera m = ({ applyJog m with displayed := (applyJog m).position / 256 }, none)) ∧
    (∀ camera f, m.phase = .held → m.pendingLocate = some f →
      boundaryMotion s camera m = ({ applyJog (applyLocate m) with displayed := (applyJog (applyLocate m)).position / 256 }, none))

/-- R150 to R154: at a boundary a pending locate and jog are applied (ShuttleProfileAndLocate writes them out), and then the
phase reached acts. A moving phase first looks, with stop-on-fault set, for the fault ahead of the view's source camera
(FaultsAreAcknowledged writes the search out), and pulls its target in to it; it makes the deceleration check, advances by
at most the speed of its phase and never past its target, counts its stage, and arrives when the position equals the target.
-/
def Obligations.ShuttleBoundaryByThePhase : Prop :=
  ∀ (s : State) (camera : Nat) (waiting : Motion),
    let m := applyJog (applyLocate waiting)
    let p := m.profile
    let boundary := boundaryMotion s camera waiting
    let shown := fun (x : Motion) => { x with displayed := x.position / 256 }
    let setOff := fun (x : Motion) =>
      if p.preDwell = 0 then { x with phase := .accel1 } else { x with phase := .preroll, dwellCounter := p.preDwell }
    (m.phase = .idle ∨ m.phase = .arrived ∨ m.phase = .held → boundary = (shown m, none)) ∧
    (m.phase = .preroll → boundary =
      (shown (if m.dwellCounter ≤ 1 then { m with dwellCounter := 0, phase := .accel1, stageCounter := 0 }
        else { m with dwellCounter := m.dwellCounter - 1 }), none)) ∧
    (m.phase = .postroll → 0 < m.dwellCounter →
      boundary = (shown { m with dwellCounter := m.dwellCounter - 1 }, none)) ∧
    (∀ x, m.phase = .postroll → m.dwellCounter = 0 → m.start = some x →
      boundary = (shown (setOff { m with position := x, stageCounter := 0 }), none)) ∧
    (∀ u, isMoving m.phase = true → m.target = some u →
      let found := if p.stopOnFault = true then faultAhead s camera (m.position / 256) (u / 256) m.direction else none
      let g := (found.map (fun f => f * 256)).getD u
      let sought : Motion := if found = none then m else
        { m with target := some g, continuous := false, looping := false
                 phase := if m.phase = .continuous then .cruise else m.phase }
      let r := max g sought.position - min g sought.position
      let brake := sought.continuous = false ∧
        ((sought.phase = .accel2 ∧ r ≤ p.n * p.s1) ∨ (sought.phase = .accel3 ∧ r ≤ p.n * (p.s1 + p.s2)) ∨
          (sought.phase = .cruise ∧ r ≤ p.n * (p.s1 + p.s2 + p.s3)))
      let phase := if brake then (match sought.phase with | .accel2 => .decel1 | .accel3 => .decel2 | _ => .decel3) else sought.phase
      let counter := if brake then 0 else sought.stageCounter
      let speed : Nat := match phase with
        | .accel1 | .decel1 => p.s1
        | .accel2 | .decel2 => p.s2
        | .accel3 | .decel3 => p.s3
        | .landing => p.s0
        | _ => p.s4
      let position := if sought.direction = .forward then sought.position + min speed r else sought.position - min speed r
      let counts := phase = .accel1 ∨ phase = .accel2 ∨ phase = .accel3 ∨ phase = .decel3 ∨ phase = .decel2 ∨ phase = .decel1
      let after : Phase := match phase with
        | .accel1 => .accel2
        | .accel2 => .accel3
        | .accel3 => if sought.continuous then .continuous else .cruise
        | .decel3 => .decel2
        | .decel2 => .decel1
        | _ => .landing
      let x : Motion := { sought with position := position }
      let y : Motion :=
        if counts then
          if p.n ≤ counter + 1 then { x with phase := after, stageCounter := 0 }
          else { x with phase := phase, stageCounter := counter + 1 }
        else { x with phase := phase, stageCounter := counter }
      boundary =
        if position = g then
          (shown (if sought.looping = true ∧ p.postDwell < 63 then { y with phase := .postroll, dwellCounter := p.postDwell }
            else { y with phase := .arrived }), some (g / 256))
        else (shown y, none))

/-! ### The panel (Chapter 11) -/

/-- R161: PANEL_TIMING clamps its three fields and is CLAMPED naming the first field clamped, or DONE; PANEL_BIND is refused
for a field out of its range, and otherwise replaces the binding of a key 0-15, or binds or unbinds the jog (key 16). That a
jog binding keeps its action, for its PANEL report, is the model's reading (log entry 12). -/
def Obligations.PanelTimingAndBinding : Prop :=
  ∀ (s : State) (debounce delay interval : BitVec 16) (key code view rep : BitVec 8),
    let d := max 1 (min 31 debounce.toNat)
    let r := max 100 (min 2000 delay.toNat)
    let i := max 20 (min 500 interval.toNat)
    let actions : List PanelAction :=
      [.nothing, .lookNext, .shuttleFwd, .shuttleRev, .shuttleStop, .holdToggle, .faultNext, .faultPrev, .ackHere,
        .zonesToggle, .bandsToggle]
    (∃ t, exec (.panelTiming debounce delay interval) s = .next t ∧
      Answered s t [] 0x81
        (if d ≠ debounce.toNat then .clamped 1 0 else if r ≠ delay.toNat then .clamped 2 0
          else if i ≠ interval.toNat then .clamped 3 0 else .done 0)
        (s.withPu { s.pu with debounce := d, repeatDelay := r, repeatInterval := i })) ∧
    (∃ t, exec (.panelBind key code view rep) s = .next t ∧
      (16 < key.toNat ∨ 1 < view.toNat ∨ 1 < rep.toNat ∨ 10 < code.toNat →
        Answered s t [] 0x80 (.refused .badArgument 0) s) ∧
      (∀ a, key.toNat ≤ 16 → view.toNat ≤ 1 → rep.toNat ≤ 1 → actions[code.toNat]? = some a →
        Answered s t [] 0x80 (.done 0) (s.withPu
          (if key.toNat < 16 then
            { s.pu with
              bindings := s.pu.bindings.set key.toNat
                { action := a, view := view.toNat, repeatOn := decide (rep = 1) } }
          else { s.pu with jogBinding := if a = .nothing then none else some (a, view.toNat) }))))

/-- R159 and R160 with R165: KEY_CHANGE sets or clears the change pending; KEY_PRESS, KEY_RELEASE and KEY_REPEAT, once their
time has come, set the key's times, carry out the bound action (not for a release) and create the PANEL report after it.
That such an event taken before its time changes nothing (log entry 1), and that an UP report carries the view of the key's
binding as it stands at the release (log entry 28), are the model's choices. -/
def Obligations.KeysAreDebouncedAndAct : Prop :=
  ∀ (s : State) (key : Fin 16) (low : Bool),
    let k := key.val
    let x := keyAt s k
    let b := bindingAt s k
    let since := fun (earlier later : Nat) => (2 ^ 32 + later - earlier) % 2 ^ 32
    let due := ∃ c, x.changePending = some c ∧ s.pu.debounce ≤ since c s.time
    let held := some (since (x.pressTime.getD s.time) s.time)
    let acted := fun (e : PanelEvent) (h : Option Nat) (u : State) =>
      createReport (.panel k e b.action (some b.view) none (doAction b.action b.view u).2 h) (doAction b.action b.view u).1
    exec (.keyChange key low) s = .next (setKey k
      { x with low := low, changePending := if low = x.pressed then none else some (x.changePending.getD s.time) } s) ∧
    (∃ t, exec (.keyPress key) s = .next t ∧
      (x.pressed = false → due →
        t = acted .down none (setKey k
          { x with
            pressed := true, changePending := none, pressTime := some s.time
            repeatDue := if b.repeatOn then some ((s.time + s.pu.repeatDelay) % 2 ^ 32) else none } s)) ∧
      (x.pressed = true ∨ ¬due → t = s)) ∧
    (∃ t, exec (.keyRelease key) s = .next t ∧
      (x.pressed = true → due →
        Told s t [.panel k .up .nothing (some b.view) none none held]
          (setKey k { x with pressed := false, changePending := none, pressTime := none, repeatDue := none } s)) ∧
      (x.pressed = false ∨ ¬due → t = s)) ∧
    (∃ t, exec (.keyRepeat key) s = .next t ∧
      (∀ p d, x.pressed = true → x.pressTime = some p → x.repeatDue = some d → since p d ≤ since p s.time →
        t = if b.repeatOn then
            acted .rep held (setKey k { x with repeatDue := some ((d + s.pu.repeatInterval) % 2 ^ 32) } s)
          else setKey k { x with repeatDue := none } s) ∧
      (∀ p d, x.pressTime = some p → x.repeatDue = some d → since p s.time < since p d → t = s) ∧
      (x.pressed = false ∨ x.repeatDue = none → t = s))

/-- R162 and R163, Table 11-1: the effect and the result of each bound action on a view. LOOK_NEXT takes the first READY
slot after the pending primary slot, the search going round to that slot itself; FAULT_NEXT and FAULT_PREV locate the
nearest frame with a NEW fault of the view's source camera. -/
def Obligations.BoundActionsByTheTable : Prop :=
  ∀ (s : State) (v : Nat),
    let x := viewAt s v
    let p := x.pending
    let m := motionAt s v
    let c := x.current.camera
    let ready := fun i => (lookSlotAt s ((p.primary + 1 + i) % 8)).state = .ready
    let a := m.pendingLocate.getD m.displayed
    let faulty := fun f => ∃ r ∈ s.fl.records, ∃ tc, r.acked = false ∧ r.camera = some c ∧ r.frame = some (f, tc)
    let located := fun (f : Nat) => (setMotion v { m with pendingLocate := some f, pendingJog := 0 } s, some f)
    doAction .nothing v s = (s, none) ∧
    (∀ i, i < 8 → ready i → (∀ j, j < i → ¬ready j) →
      doAction .lookNext v s =
        (setPending v { p with primary := (p.primary + 1 + i) % 8 } s, some ((p.primary + 1 + i) % 8))) ∧
    ((∀ i, i < 8 → ¬ready i) → doAction .lookNext v s = (s, none)) ∧
    doAction .zonesToggle v s = (setPending v { p with zones := !p.zones } s, some (if p.zones then 0 else 1)) ∧
    doAction .bandsToggle v s =
      (setPending v { p with outsideBlack := !p.outsideBlack } s, some (if p.outsideBlack then 0 else 1)) ∧
    doAction .shuttleFwd v s = (setMotion v (goMotion 0 .forward m) s, some (4294967295)) ∧
    doAction .shuttleRev v s = (setMotion v (goMotion 0 .reverse m) s, some 0) ∧
    doAction .shuttleStop v s = (setMotion v (stopMotion m).1 s, some (stopMotion m).2) ∧
    (m.phase ≠ .held →
      doAction .holdToggle v s = (setMotion v { m with heldPhase := some m.phase, phase := .held } s, some 0)) ∧
    (∀ q, m.phase = .held → m.heldPhase = some q →
      doAction .holdToggle v s = (setMotion v { m with phase := q, heldPhase := none } s, some 1)) ∧
    (∀ f, faulty f → a < f → (∀ g, faulty g → a < g → f ≤ g) → doAction .faultNext v s = located f) ∧
    ((∀ g, faulty g → g ≤ a) → doAction .faultNext v s = (s, none)) ∧
    (∀ f, faulty f → f < a → (∀ g, faulty g → g < a → g ≤ f) → doAction .faultPrev v s = located f) ∧
    ((∀ g, faulty g → a ≤ g) → doAction .faultPrev v s = (s, none)) ∧
    doAction .ackHere v s = ((ackFrame c m.displayed s).1, some (ackFrame c m.displayed s).2)

/-- R164 with R148 and R165: what the present millisecond's sample of the jog lines does, by the pair sampled before it;
four transitions in one direction form a detent, which the Shuttle Unit accepts or discards and a PANEL report records. That
the first sample is only kept, that both rows carry the sample, and that a second sample in one millisecond changes nothing
are the model's reading (log entry 12). -/
def Obligations.JogSamplesFormDetents : Prop :=
  ∀ (s : State) (a b : Bool),
    let now := (a, b)
    let u := { s.pu with jogLines := now, jogDue := false }
    let next := fun (last : Bool × Bool) =>
      if last = (false, false) then (true, false) else if last = (true, false) then (true, true)
      else if last = (true, true) then (false, true) else (false, false)
    ∃ t, exec (.jogDetent a b) s = .next t ∧ exec (.jogTransition a b) s = .next t ∧
      (s.pu.jogDue = false → t = s) ∧
      (s.pu.jogDue = true → u.jogLast = none → Told s t [] (s.withPu { u with jogLast := some now })) ∧
      (s.pu.jogDue = true → u.jogLast = some now → Told s t [] (s.withPu u)) ∧
      (s.pu.jogDue = true → u.jogLast = some (!a, !b) →
        Told s t [] (s.withPu { u with jogLast := some now, jogSteps := 0, jogDirection := none })) ∧
      (∀ last d, s.pu.jogDue = true → u.jogLast = some last →
          (d = .forward ∧ now = next last ∨ d = .reverse ∧ last = next now) →
        let count := if u.jogDirection = some d then u.jogSteps + 1 else 1
        let formed := s.withPu { u with jogLast := some now, jogSteps := 0, jogDirection := some d }
        (count < 4 → Told s t [] (s.withPu { u with jogLast := some now, jogSteps := count, jogDirection := some d })) ∧
        (4 ≤ count → u.jogBinding = none → Told s t [.panel 16 .detent .nothing none (some d) (some 0) none] formed) ∧
        (∀ act v, 4 ≤ count → u.jogBinding = some (act, v) →
          let m := motionAt s v
          let moved := m.pendingJog + (if d = .forward then 1 else -1)
          if m.pendingLocate ≠ none ∨ m.phase = .idle ∨ m.phase = .arrived ∨ m.phase = .held then
            Told s t [.panel 16 .detent act (some v) (some d) (some 1) none]
              (setMotion v { m with pendingJog := max (-65535) (min 65535 moved) } formed)
          else Told s t [.panel 16 .detent act (some v) (some d) (some 0) none] (setMotion v m formed)))

/-! ### What every step keeps -/

/-- Every step keeps the tables at their sizes, the pixel tracker within its ranges with no two entries of one position
(R92), and each frame slot's beats counted within those expected, all of them in a COMPLETE slot (R74, R80). -/
def Obligations.EveryStepKeepsTheTables : Prop :=
  (∀ s t : State, TableLaw s → step s = .next t → TableLaw t) ∧
  (∀ s t : State, TrackLaw s → step s = .next t → TrackLaw t) ∧
  ∀ s t : State, FrameLaw s → step s = .next t → FrameLaw t

/-- Every step keeps the report ring's law: P - C within 0 to 63, at most one report write waiting, and no report left in
the pending queue that R24 would make ready; and the background queue's: at most nine requests wait in it (R10). That no
such report is left between two commands rests on the model's making it ready within the command that frees its way (log
entry 2, DEDUCED). -/
def Obligations.EveryStepKeepsTheReportRing : Prop :=
  (∀ s t : State, RingLaw s → step s = .next t → RingLaw t) ∧
  (∀ s t : State, BackgroundLaw s → step s = .next t → BackgroundLaw t) ∧
  ∀ s : State, BackgroundLaw s → s.tu.background.length ≤ 9

/-- Every step keeps the window set free of overlaps (R14): no command can set two windows that share a byte. -/
def Obligations.EveryStepKeepsWindowsApart : Prop :=
  ∀ s t : State, WindowLaw s → step s = .next t → WindowLaw t

/-- Every step leaves each card lamp as Table 4-6 gives it for the state it leaves (R64, R65). The lamp is computed with an
ended stream no longer running (DEDUCED, log entry 13). -/
def Obligations.EveryStepKeepsLampsByTheTable : Prop :=
  ∀ s t : State, LampLaw s → step s = .next t → LampLaw t

/-- Every step keeps the laws of the clips (the match count counts the MATCH verdicts of a final source, a VERIFIED clip has
its required copies, no two streams share a role of one clip) and of the fault list (crit_open is never below the number of
NEW CRITICAL records that name the clip, so no critical fault is lost from sight). -/
def Obligations.EveryStepKeepsVerdictsAndCriticalFaults : Prop :=
  (∀ s t : State, ClipLaw s → step s = .next t → ClipLaw t) ∧
  ∀ s t : State, FaultLaw s → step s = .next t → FaultLaw t

/-- Every step keeps the law of the motion contexts: no move carries a position past its target or out of its range, a
context has a target exactly while it is not at rest, and only a HELD context holds a phase (R145, R147, R153, R156). -/
def Obligations.EveryStepKeepsShuttlesOnTheirMoves : Prop :=
  ∀ s t : State, ShuttleLaw s → step s = .next t → ShuttleLaw t
end

