-- ==== Sys2Proof/Laws/State.lean ====
section
/-! SUPPORT. One lemma per field of State per update: replacing a field gives that field, and leaves every other. -/

namespace Sys2Proof.Machine

variable (s : State)

@[simp] theorem State.withPending_pending (x : List Instr) : (s.withPending x).pending = x := rfl
@[simp] theorem State.withPending_tu (x : List Instr) : (s.withPending x).tu = s.tu := rfl
@[simp] theorem State.withPending_cir (x : List Instr) : (s.withPending x).cir = s.cir := rfl
@[simp] theorem State.withPending_su (x : List Instr) : (s.withPending x).su = s.su := rfl
@[simp] theorem State.withPending_ct (x : List Instr) : (s.withPending x).ct = s.ct := rfl
@[simp] theorem State.withPending_fiu (x : List Instr) : (s.withPending x).fiu = s.fiu := rfl
@[simp] theorem State.withPending_ctu (x : List Instr) : (s.withPending x).ctu = s.ctu := rfl
@[simp] theorem State.withPending_fl (x : List Instr) : (s.withPending x).fl = s.fl := rfl
@[simp] theorem State.withPending_ls (x : List Instr) : (s.withPending x).ls = s.ls := rfl
@[simp] theorem State.withPending_ve (x : List Instr) : (s.withPending x).ve = s.ve := rfl
@[simp] theorem State.withPending_sh (x : List Instr) : (s.withPending x).sh = s.sh := rfl
@[simp] theorem State.withPending_pu (x : List Instr) : (s.withPending x).pu = s.pu := rfl
@[simp] theorem State.withPending_time (x : List Instr) : (s.withPending x).time = s.time := rfl
@[simp] theorem State.withPending_free (x : List Instr) : (s.withPending x).free = s.free := rfl

@[simp] theorem State.withTu_pending (x : Transit) : (s.withTu x).pending = s.pending := rfl
@[simp] theorem State.withTu_tu (x : Transit) : (s.withTu x).tu = x := rfl
@[simp] theorem State.withTu_cir (x : Transit) : (s.withTu x).cir = s.cir := rfl
@[simp] theorem State.withTu_su (x : Transit) : (s.withTu x).su = s.su := rfl
@[simp] theorem State.withTu_ct (x : Transit) : (s.withTu x).ct = s.ct := rfl
@[simp] theorem State.withTu_fiu (x : Transit) : (s.withTu x).fiu = s.fiu := rfl
@[simp] theorem State.withTu_ctu (x : Transit) : (s.withTu x).ctu = s.ctu := rfl
@[simp] theorem State.withTu_fl (x : Transit) : (s.withTu x).fl = s.fl := rfl
@[simp] theorem State.withTu_ls (x : Transit) : (s.withTu x).ls = s.ls := rfl
@[simp] theorem State.withTu_ve (x : Transit) : (s.withTu x).ve = s.ve := rfl
@[simp] theorem State.withTu_sh (x : Transit) : (s.withTu x).sh = s.sh := rfl
@[simp] theorem State.withTu_pu (x : Transit) : (s.withTu x).pu = s.pu := rfl
@[simp] theorem State.withTu_time (x : Transit) : (s.withTu x).time = s.time := rfl
@[simp] theorem State.withTu_free (x : Transit) : (s.withTu x).free = s.free := rfl

@[simp] theorem State.withCir_pending (x : Intake) : (s.withCir x).pending = s.pending := rfl
@[simp] theorem State.withCir_tu (x : Intake) : (s.withCir x).tu = s.tu := rfl
@[simp] theorem State.withCir_cir (x : Intake) : (s.withCir x).cir = x := rfl
@[simp] theorem State.withCir_su (x : Intake) : (s.withCir x).su = s.su := rfl
@[simp] theorem State.withCir_ct (x : Intake) : (s.withCir x).ct = s.ct := rfl
@[simp] theorem State.withCir_fiu (x : Intake) : (s.withCir x).fiu = s.fiu := rfl
@[simp] theorem State.withCir_ctu (x : Intake) : (s.withCir x).ctu = s.ctu := rfl
@[simp] theorem State.withCir_fl (x : Intake) : (s.withCir x).fl = s.fl := rfl
@[simp] theorem State.withCir_ls (x : Intake) : (s.withCir x).ls = s.ls := rfl
@[simp] theorem State.withCir_ve (x : Intake) : (s.withCir x).ve = s.ve := rfl
@[simp] theorem State.withCir_sh (x : Intake) : (s.withCir x).sh = s.sh := rfl
@[simp] theorem State.withCir_pu (x : Intake) : (s.withCir x).pu = s.pu := rfl
@[simp] theorem State.withCir_time (x : Intake) : (s.withCir x).time = s.time := rfl
@[simp] theorem State.withCir_free (x : Intake) : (s.withCir x).free = s.free := rfl

@[simp] theorem State.withSu_pending (x : StreamUnit) : (s.withSu x).pending = s.pending := rfl
@[simp] theorem State.withSu_tu (x : StreamUnit) : (s.withSu x).tu = s.tu := rfl
@[simp] theorem State.withSu_cir (x : StreamUnit) : (s.withSu x).cir = s.cir := rfl
@[simp] theorem State.withSu_su (x : StreamUnit) : (s.withSu x).su = x := rfl
@[simp] theorem State.withSu_ct (x : StreamUnit) : (s.withSu x).ct = s.ct := rfl
@[simp] theorem State.withSu_fiu (x : StreamUnit) : (s.withSu x).fiu = s.fiu := rfl
@[simp] theorem State.withSu_ctu (x : StreamUnit) : (s.withSu x).ctu = s.ctu := rfl
@[simp] theorem State.withSu_fl (x : StreamUnit) : (s.withSu x).fl = s.fl := rfl
@[simp] theorem State.withSu_ls (x : StreamUnit) : (s.withSu x).ls = s.ls := rfl
@[simp] theorem State.withSu_ve (x : StreamUnit) : (s.withSu x).ve = s.ve := rfl
@[simp] theorem State.withSu_sh (x : StreamUnit) : (s.withSu x).sh = s.sh := rfl
@[simp] theorem State.withSu_pu (x : StreamUnit) : (s.withSu x).pu = s.pu := rfl
@[simp] theorem State.withSu_time (x : StreamUnit) : (s.withSu x).time = s.time := rfl
@[simp] theorem State.withSu_free (x : StreamUnit) : (s.withSu x).free = s.free := rfl

@[simp] theorem State.withCt_pending (x : ClipTracker) : (s.withCt x).pending = s.pending := rfl
@[simp] theorem State.withCt_tu (x : ClipTracker) : (s.withCt x).tu = s.tu := rfl
@[simp] theorem State.withCt_cir (x : ClipTracker) : (s.withCt x).cir = s.cir := rfl
@[simp] theorem State.withCt_su (x : ClipTracker) : (s.withCt x).su = s.su := rfl
@[simp] theorem State.withCt_ct (x : ClipTracker) : (s.withCt x).ct = x := rfl
@[simp] theorem State.withCt_fiu (x : ClipTracker) : (s.withCt x).fiu = s.fiu := rfl
@[simp] theorem State.withCt_ctu (x : ClipTracker) : (s.withCt x).ctu = s.ctu := rfl
@[simp] theorem State.withCt_fl (x : ClipTracker) : (s.withCt x).fl = s.fl := rfl
@[simp] theorem State.withCt_ls (x : ClipTracker) : (s.withCt x).ls = s.ls := rfl
@[simp] theorem State.withCt_ve (x : ClipTracker) : (s.withCt x).ve = s.ve := rfl
@[simp] theorem State.withCt_sh (x : ClipTracker) : (s.withCt x).sh = s.sh := rfl
@[simp] theorem State.withCt_pu (x : ClipTracker) : (s.withCt x).pu = s.pu := rfl
@[simp] theorem State.withCt_time (x : ClipTracker) : (s.withCt x).time = s.time := rfl
@[simp] theorem State.withCt_free (x : ClipTracker) : (s.withCt x).free = s.free := rfl

@[simp] theorem State.withFiu_pending (x : FrameInspection) : (s.withFiu x).pending = s.pending := rfl
@[simp] theorem State.withFiu_tu (x : FrameInspection) : (s.withFiu x).tu = s.tu := rfl
@[simp] theorem State.withFiu_cir (x : FrameInspection) : (s.withFiu x).cir = s.cir := rfl
@[simp] theorem State.withFiu_su (x : FrameInspection) : (s.withFiu x).su = s.su := rfl
@[simp] theorem State.withFiu_ct (x : FrameInspection) : (s.withFiu x).ct = s.ct := rfl
@[simp] theorem State.withFiu_fiu (x : FrameInspection) : (s.withFiu x).fiu = x := rfl
@[simp] theorem State.withFiu_ctu (x : FrameInspection) : (s.withFiu x).ctu = s.ctu := rfl
@[simp] theorem State.withFiu_fl (x : FrameInspection) : (s.withFiu x).fl = s.fl := rfl
@[simp] theorem State.withFiu_ls (x : FrameInspection) : (s.withFiu x).ls = s.ls := rfl
@[simp] theorem State.withFiu_ve (x : FrameInspection) : (s.withFiu x).ve = s.ve := rfl
@[simp] theorem State.withFiu_sh (x : FrameInspection) : (s.withFiu x).sh = s.sh := rfl
@[simp] theorem State.withFiu_pu (x : FrameInspection) : (s.withFiu x).pu = s.pu := rfl
@[simp] theorem State.withFiu_time (x : FrameInspection) : (s.withFiu x).time = s.time := rfl
@[simp] theorem State.withFiu_free (x : FrameInspection) : (s.withFiu x).free = s.free := rfl

@[simp] theorem State.withCtu_pending (x : CameraTrack) : (s.withCtu x).pending = s.pending := rfl
@[simp] theorem State.withCtu_tu (x : CameraTrack) : (s.withCtu x).tu = s.tu := rfl
@[simp] theorem State.withCtu_cir (x : CameraTrack) : (s.withCtu x).cir = s.cir := rfl
@[simp] theorem State.withCtu_su (x : CameraTrack) : (s.withCtu x).su = s.su := rfl
@[simp] theorem State.withCtu_ct (x : CameraTrack) : (s.withCtu x).ct = s.ct := rfl
@[simp] theorem State.withCtu_fiu (x : CameraTrack) : (s.withCtu x).fiu = s.fiu := rfl
@[simp] theorem State.withCtu_ctu (x : CameraTrack) : (s.withCtu x).ctu = x := rfl
@[simp] theorem State.withCtu_fl (x : CameraTrack) : (s.withCtu x).fl = s.fl := rfl
@[simp] theorem State.withCtu_ls (x : CameraTrack) : (s.withCtu x).ls = s.ls := rfl
@[simp] theorem State.withCtu_ve (x : CameraTrack) : (s.withCtu x).ve = s.ve := rfl
@[simp] theorem State.withCtu_sh (x : CameraTrack) : (s.withCtu x).sh = s.sh := rfl
@[simp] theorem State.withCtu_pu (x : CameraTrack) : (s.withCtu x).pu = s.pu := rfl
@[simp] theorem State.withCtu_time (x : CameraTrack) : (s.withCtu x).time = s.time := rfl
@[simp] theorem State.withCtu_free (x : CameraTrack) : (s.withCtu x).free = s.free := rfl

@[simp] theorem State.withFl_pending (x : FaultList) : (s.withFl x).pending = s.pending := rfl
@[simp] theorem State.withFl_tu (x : FaultList) : (s.withFl x).tu = s.tu := rfl
@[simp] theorem State.withFl_cir (x : FaultList) : (s.withFl x).cir = s.cir := rfl
@[simp] theorem State.withFl_su (x : FaultList) : (s.withFl x).su = s.su := rfl
@[simp] theorem State.withFl_ct (x : FaultList) : (s.withFl x).ct = s.ct := rfl
@[simp] theorem State.withFl_fiu (x : FaultList) : (s.withFl x).fiu = s.fiu := rfl
@[simp] theorem State.withFl_ctu (x : FaultList) : (s.withFl x).ctu = s.ctu := rfl
@[simp] theorem State.withFl_fl (x : FaultList) : (s.withFl x).fl = x := rfl
@[simp] theorem State.withFl_ls (x : FaultList) : (s.withFl x).ls = s.ls := rfl
@[simp] theorem State.withFl_ve (x : FaultList) : (s.withFl x).ve = s.ve := rfl
@[simp] theorem State.withFl_sh (x : FaultList) : (s.withFl x).sh = s.sh := rfl
@[simp] theorem State.withFl_pu (x : FaultList) : (s.withFl x).pu = s.pu := rfl
@[simp] theorem State.withFl_time (x : FaultList) : (s.withFl x).time = s.time := rfl
@[simp] theorem State.withFl_free (x : FaultList) : (s.withFl x).free = s.free := rfl

@[simp] theorem State.withLs_pending (x : List LookSlot) : (s.withLs x).pending = s.pending := rfl
@[simp] theorem State.withLs_tu (x : List LookSlot) : (s.withLs x).tu = s.tu := rfl
@[simp] theorem State.withLs_cir (x : List LookSlot) : (s.withLs x).cir = s.cir := rfl
@[simp] theorem State.withLs_su (x : List LookSlot) : (s.withLs x).su = s.su := rfl
@[simp] theorem State.withLs_ct (x : List LookSlot) : (s.withLs x).ct = s.ct := rfl
@[simp] theorem State.withLs_fiu (x : List LookSlot) : (s.withLs x).fiu = s.fiu := rfl
@[simp] theorem State.withLs_ctu (x : List LookSlot) : (s.withLs x).ctu = s.ctu := rfl
@[simp] theorem State.withLs_fl (x : List LookSlot) : (s.withLs x).fl = s.fl := rfl
@[simp] theorem State.withLs_ls (x : List LookSlot) : (s.withLs x).ls = x := rfl
@[simp] theorem State.withLs_ve (x : List LookSlot) : (s.withLs x).ve = s.ve := rfl
@[simp] theorem State.withLs_sh (x : List LookSlot) : (s.withLs x).sh = s.sh := rfl
@[simp] theorem State.withLs_pu (x : List LookSlot) : (s.withLs x).pu = s.pu := rfl
@[simp] theorem State.withLs_time (x : List LookSlot) : (s.withLs x).time = s.time := rfl
@[simp] theorem State.withLs_free (x : List LookSlot) : (s.withLs x).free = s.free := rfl

@[simp] theorem State.withVe_pending (x : List View) : (s.withVe x).pending = s.pending := rfl
@[simp] theorem State.withVe_tu (x : List View) : (s.withVe x).tu = s.tu := rfl
@[simp] theorem State.withVe_cir (x : List View) : (s.withVe x).cir = s.cir := rfl
@[simp] theorem State.withVe_su (x : List View) : (s.withVe x).su = s.su := rfl
@[simp] theorem State.withVe_ct (x : List View) : (s.withVe x).ct = s.ct := rfl
@[simp] theorem State.withVe_fiu (x : List View) : (s.withVe x).fiu = s.fiu := rfl
@[simp] theorem State.withVe_ctu (x : List View) : (s.withVe x).ctu = s.ctu := rfl
@[simp] theorem State.withVe_fl (x : List View) : (s.withVe x).fl = s.fl := rfl
@[simp] theorem State.withVe_ls (x : List View) : (s.withVe x).ls = s.ls := rfl
@[simp] theorem State.withVe_ve (x : List View) : (s.withVe x).ve = x := rfl
@[simp] theorem State.withVe_sh (x : List View) : (s.withVe x).sh = s.sh := rfl
@[simp] theorem State.withVe_pu (x : List View) : (s.withVe x).pu = s.pu := rfl
@[simp] theorem State.withVe_time (x : List View) : (s.withVe x).time = s.time := rfl
@[simp] theorem State.withVe_free (x : List View) : (s.withVe x).free = s.free := rfl

@[simp] theorem State.withSh_pending (x : List Motion) : (s.withSh x).pending = s.pending := rfl
@[simp] theorem State.withSh_tu (x : List Motion) : (s.withSh x).tu = s.tu := rfl
@[simp] theorem State.withSh_cir (x : List Motion) : (s.withSh x).cir = s.cir := rfl
@[simp] theorem State.withSh_su (x : List Motion) : (s.withSh x).su = s.su := rfl
@[simp] theorem State.withSh_ct (x : List Motion) : (s.withSh x).ct = s.ct := rfl
@[simp] theorem State.withSh_fiu (x : List Motion) : (s.withSh x).fiu = s.fiu := rfl
@[simp] theorem State.withSh_ctu (x : List Motion) : (s.withSh x).ctu = s.ctu := rfl
@[simp] theorem State.withSh_fl (x : List Motion) : (s.withSh x).fl = s.fl := rfl
@[simp] theorem State.withSh_ls (x : List Motion) : (s.withSh x).ls = s.ls := rfl
@[simp] theorem State.withSh_ve (x : List Motion) : (s.withSh x).ve = s.ve := rfl
@[simp] theorem State.withSh_sh (x : List Motion) : (s.withSh x).sh = x := rfl
@[simp] theorem State.withSh_pu (x : List Motion) : (s.withSh x).pu = s.pu := rfl
@[simp] theorem State.withSh_time (x : List Motion) : (s.withSh x).time = s.time := rfl
@[simp] theorem State.withSh_free (x : List Motion) : (s.withSh x).free = s.free := rfl

@[simp] theorem State.withPu_pending (x : Panel) : (s.withPu x).pending = s.pending := rfl
@[simp] theorem State.withPu_tu (x : Panel) : (s.withPu x).tu = s.tu := rfl
@[simp] theorem State.withPu_cir (x : Panel) : (s.withPu x).cir = s.cir := rfl
@[simp] theorem State.withPu_su (x : Panel) : (s.withPu x).su = s.su := rfl
@[simp] theorem State.withPu_ct (x : Panel) : (s.withPu x).ct = s.ct := rfl
@[simp] theorem State.withPu_fiu (x : Panel) : (s.withPu x).fiu = s.fiu := rfl
@[simp] theorem State.withPu_ctu (x : Panel) : (s.withPu x).ctu = s.ctu := rfl
@[simp] theorem State.withPu_fl (x : Panel) : (s.withPu x).fl = s.fl := rfl
@[simp] theorem State.withPu_ls (x : Panel) : (s.withPu x).ls = s.ls := rfl
@[simp] theorem State.withPu_ve (x : Panel) : (s.withPu x).ve = s.ve := rfl
@[simp] theorem State.withPu_sh (x : Panel) : (s.withPu x).sh = s.sh := rfl
@[simp] theorem State.withPu_pu (x : Panel) : (s.withPu x).pu = x := rfl
@[simp] theorem State.withPu_time (x : Panel) : (s.withPu x).time = s.time := rfl
@[simp] theorem State.withPu_free (x : Panel) : (s.withPu x).free = s.free := rfl

@[simp] theorem State.withTime_pending (x : Nat) : (s.withTime x).pending = s.pending := rfl
@[simp] theorem State.withTime_tu (x : Nat) : (s.withTime x).tu = s.tu := rfl
@[simp] theorem State.withTime_cir (x : Nat) : (s.withTime x).cir = s.cir := rfl
@[simp] theorem State.withTime_su (x : Nat) : (s.withTime x).su = s.su := rfl
@[simp] theorem State.withTime_ct (x : Nat) : (s.withTime x).ct = s.ct := rfl
@[simp] theorem State.withTime_fiu (x : Nat) : (s.withTime x).fiu = s.fiu := rfl
@[simp] theorem State.withTime_ctu (x : Nat) : (s.withTime x).ctu = s.ctu := rfl
@[simp] theorem State.withTime_fl (x : Nat) : (s.withTime x).fl = s.fl := rfl
@[simp] theorem State.withTime_ls (x : Nat) : (s.withTime x).ls = s.ls := rfl
@[simp] theorem State.withTime_ve (x : Nat) : (s.withTime x).ve = s.ve := rfl
@[simp] theorem State.withTime_sh (x : Nat) : (s.withTime x).sh = s.sh := rfl
@[simp] theorem State.withTime_pu (x : Nat) : (s.withTime x).pu = s.pu := rfl
@[simp] theorem State.withTime_time (x : Nat) : (s.withTime x).time = x := rfl
@[simp] theorem State.withTime_free (x : Nat) : (s.withTime x).free = s.free := rfl

@[simp] theorem State.withFree_pending (x : Nat) : (s.withFree x).pending = s.pending := rfl
@[simp] theorem State.withFree_tu (x : Nat) : (s.withFree x).tu = s.tu := rfl
@[simp] theorem State.withFree_cir (x : Nat) : (s.withFree x).cir = s.cir := rfl
@[simp] theorem State.withFree_su (x : Nat) : (s.withFree x).su = s.su := rfl
@[simp] theorem State.withFree_ct (x : Nat) : (s.withFree x).ct = s.ct := rfl
@[simp] theorem State.withFree_fiu (x : Nat) : (s.withFree x).fiu = s.fiu := rfl
@[simp] theorem State.withFree_ctu (x : Nat) : (s.withFree x).ctu = s.ctu := rfl
@[simp] theorem State.withFree_fl (x : Nat) : (s.withFree x).fl = s.fl := rfl
@[simp] theorem State.withFree_ls (x : Nat) : (s.withFree x).ls = s.ls := rfl
@[simp] theorem State.withFree_ve (x : Nat) : (s.withFree x).ve = s.ve := rfl
@[simp] theorem State.withFree_sh (x : Nat) : (s.withFree x).sh = s.sh := rfl
@[simp] theorem State.withFree_pu (x : Nat) : (s.withFree x).pu = s.pu := rfl
@[simp] theorem State.withFree_time (x : Nat) : (s.withFree x).time = s.time := rfl
@[simp] theorem State.withFree_free (x : Nat) : (s.withFree x).free = x := rfl

end Sys2Proof.Machine
end

