-- ==== Sys2Proof/Laws/Entries.lean ====
section
/-! SUPPORT. Reading an entry of a table after one of them is set. -/

namespace Sys2Proof.Machine

theorem clipAt_setClip (i e s j) : clipAt (setClip i e s) j = if j = i ∧ i < s.ct.clips.length then e else clipAt s j := by
  unfold clipAt setClip
  simp only [State.withCt_ct, List.getD_eq_getElem?_getD, List.getElem?_set]
  by_cases h : i = j
  · subst h; by_cases hv : i < s.ct.clips.length
    · simp [hv]
    · simp [hv]
  · simp [h, Ne.symm h]

theorem clipAt_lt {s i c} (h : clipAt s i = some c) : i < s.ct.clips.length := by
  unfold clipAt at h; by_contra hn
  rw [List.getD_eq_default _ _ (by omega)] at h; cases h

theorem clipAt_set {i c c' s} (h : clipAt s i = some c) (j) : clipAt (setClip i c' s)
    j = if j = i then c' else clipAt s j := by
  rw [clipAt_setClip]; simp [clipAt_lt h]

theorem streamAt_setStream (i e s j) : streamAt (setStream i e s)
    j = if j = i ∧ i < s.su.table.length then e else streamAt s j := by
  unfold streamAt setStream
  simp only [State.withSu_su, List.getD_eq_getElem?_getD, List.getElem?_set]
  by_cases h : i = j
  · subst h; by_cases hv : i < s.su.table.length
    · simp [hv]
    · simp [hv]
  · simp [h, Ne.symm h]

theorem streamAt_lt {s i c} (h : streamAt s i = some c) : i < s.su.table.length := by
  unfold streamAt at h; by_contra hn
  rw [List.getD_eq_default _ _ (by omega)] at h; cases h

theorem cardSlotAt_set (k c s j) : cardSlotAt (setCardSlot k c s)
    j = if j = k ∧ k < s.ct.slots.length then c else cardSlotAt s j := by
  unfold cardSlotAt setCardSlot
  simp only [State.withCt_ct, List.getD_eq_getElem?_getD, List.getElem?_set]
  by_cases h : k = j
  · subst h; by_cases hv : k < s.ct.slots.length
    · simp [hv]
    · simp [hv]
  · simp [h, Ne.symm h]

theorem clipAt_ct {s t : State} (h : t.ct.clips = s.ct.clips) (i) : clipAt t i = clipAt s i := by simp [clipAt, h]

theorem streamAt_su {s t : State} (h : t.su = s.su) (i) : streamAt t i = streamAt s i := by simp [streamAt, h]

theorem lookSlotAt_set (s k x j) (hk : k < s.ls.length) : lookSlotAt (setLookSlot k x s)
    j = if j = k then x else lookSlotAt s j := by
  unfold lookSlotAt setLookSlot
  simp only [State.withLs_ls, List.getD_eq_getElem?_getD, List.getElem?_set]
  by_cases h : j = k
  · subst h; simp [hk]
  · simp [h, Ne.symm h]

end Sys2Proof.Machine
end

