-- ==== Sys2Proof/Laws/Reports.lean ====
section
/-! SUPPORT. What creating a report can do (R23, R24), once for all: the fields it leaves, what it reports, and that it
changes nothing but CIR's own state and the background queue. -/

namespace Sys2Proof.Machine

/-! ### makeReady -/

/-- What R24's test can do: nothing, or make the head report ready. -/
theorem makeReady_cases (s : State) :
    makeReady s = s ∨
      ∃ r rest, s.cir.queue = r :: rest ∧ reportsOutstanding s < 63 ∧ reportWaiting s = false ∧
        makeReady s = readyReport r rest s := by
  unfold makeReady
  split
  · exact .inl rfl
  · split
    · exact .inr ⟨_, _, ‹_›, ‹_ ∧ _›.1, ‹_ ∧ _›.2, rfl⟩
    · exact .inl rfl

@[simp] theorem makeReady_pending (s : State) : (makeReady s).pending = s.pending := by
  rcases makeReady_cases s with h | ⟨r, rest, -, -, -, h⟩ <;> simp [h, readyReport]

@[simp] theorem makeReady_su (s : State) : (makeReady s).su = s.su := by
  rcases makeReady_cases s with h | ⟨r, rest, -, -, -, h⟩ <;> simp [h, readyReport]

@[simp] theorem makeReady_ct (s : State) : (makeReady s).ct = s.ct := by
  rcases makeReady_cases s with h | ⟨r, rest, -, -, -, h⟩ <;> simp [h, readyReport]

@[simp] theorem makeReady_fiu (s : State) : (makeReady s).fiu = s.fiu := by
  rcases makeReady_cases s with h | ⟨r, rest, -, -, -, h⟩ <;> simp [h, readyReport]

@[simp] theorem makeReady_ctu (s : State) : (makeReady s).ctu = s.ctu := by
  rcases makeReady_cases s with h | ⟨r, rest, -, -, -, h⟩ <;> simp [h, readyReport]

@[simp] theorem makeReady_fl (s : State) : (makeReady s).fl = s.fl := by
  rcases makeReady_cases s with h | ⟨r, rest, -, -, -, h⟩ <;> simp [h, readyReport]

@[simp] theorem makeReady_ls (s : State) : (makeReady s).ls = s.ls := by
  rcases makeReady_cases s with h | ⟨r, rest, -, -, -, h⟩ <;> simp [h, readyReport]

@[simp] theorem makeReady_ve (s : State) : (makeReady s).ve = s.ve := by
  rcases makeReady_cases s with h | ⟨r, rest, -, -, -, h⟩ <;> simp [h, readyReport]

@[simp] theorem makeReady_sh (s : State) : (makeReady s).sh = s.sh := by
  rcases makeReady_cases s with h | ⟨r, rest, -, -, -, h⟩ <;> simp [h, readyReport]

@[simp] theorem makeReady_pu (s : State) : (makeReady s).pu = s.pu := by
  rcases makeReady_cases s with h | ⟨r, rest, -, -, -, h⟩ <;> simp [h, readyReport]

@[simp] theorem makeReady_time (s : State) : (makeReady s).time = s.time := by
  rcases makeReady_cases s with h | ⟨r, rest, -, -, -, h⟩ <;> simp [h, readyReport]

@[simp] theorem makeReady_free (s : State) : (makeReady s).free = s.free := by
  rcases makeReady_cases s with h | ⟨r, rest, -, -, -, h⟩ <;> simp [h, readyReport]

@[simp] theorem makeReady_cir_expected (s : State) : (makeReady s).cir.expected = s.cir.expected := by
  rcases makeReady_cases s with h | ⟨r, rest, -, -, -, h⟩ <;> simp [h, readyReport]

@[simp] theorem makeReady_cir_c (s : State) : (makeReady s).cir.c = s.cir.c := by
  rcases makeReady_cases s with h | ⟨r, rest, -, -, -, h⟩ <;> simp [h, readyReport]

@[simp] theorem makeReady_cir_snapshots (s : State) : (makeReady s).cir.snapshots = s.cir.snapshots := by
  rcases makeReady_cases s with h | ⟨r, rest, -, -, -, h⟩ <;> simp [h, readyReport]

@[simp] theorem makeReady_tu_cpBase (s : State) : (makeReady s).tu.cpBase = s.tu.cpBase := by
  rcases makeReady_cases s with h | ⟨r, rest, -, -, -, h⟩ <;> simp [h, readyReport]

@[simp] theorem makeReady_tu_book (s : State) : (makeReady s).tu.book = s.tu.book := by
  rcases makeReady_cases s with h | ⟨r, rest, -, -, -, h⟩ <;> simp [h, readyReport]

@[simp] theorem makeReady_tu_inWrites (s : State) : (makeReady s).tu.inWrites = s.tu.inWrites := by
  rcases makeReady_cases s with h | ⟨r, rest, -, -, -, h⟩ <;> simp [h, readyReport]

@[simp] theorem makeReady_tu_arrival (s : State) : (makeReady s).tu.arrival = s.tu.arrival := by
  rcases makeReady_cases s with h | ⟨r, rest, -, -, -, h⟩ <;> simp [h, readyReport]

@[simp] theorem makeReady_tu_runCount (s : State) : (makeReady s).tu.runCount = s.tu.runCount := by
  rcases makeReady_cases s with h | ⟨r, rest, -, -, -, h⟩ <;> simp [h, readyReport]

@[simp] theorem makeReady_tu_sentWrites (s : State) : (makeReady s).tu.sentWrites = s.tu.sentWrites := by
  rcases makeReady_cases s with h | ⟨r, rest, -, -, -, h⟩ <;> simp [h, readyReport]

@[simp] theorem makeReady_tu_nextTag (s : State) : (makeReady s).tu.nextTag = s.tu.nextTag := by
  rcases makeReady_cases s with h | ⟨r, rest, -, -, -, h⟩ <;> simp [h, readyReport]

@[simp] theorem makeReady_tu_stale (s : State) : (makeReady s).tu.stale = s.tu.stale := by
  rcases makeReady_cases s with h | ⟨r, rest, -, -, -, h⟩ <;> simp [h, readyReport]

@[simp] theorem makeReady_tu_memOut (s : State) : (makeReady s).tu.memOut = s.tu.memOut := by
  rcases makeReady_cases s with h | ⟨r, rest, -, -, -, h⟩ <;> simp [h, readyReport]
@[simp] theorem makeReady_tu_dataQueue (s : State) : (makeReady s).tu.dataQueue = s.tu.dataQueue := by
  rcases makeReady_cases s with h | ⟨r, rest, -, -, -, h⟩ <;> simp [h, readyReport]
@[simp] theorem makeReady_tu_memData (s : State) : (makeReady s).tu.memData = s.tu.memData := by
  rcases makeReady_cases s with h | ⟨r, rest, -, -, -, h⟩ <;> simp [h, readyReport]

@[simp] theorem makeReady_tu_upOut (s : State) : (makeReady s).tu.upOut = s.tu.upOut := by
  rcases makeReady_cases s with h | ⟨r, rest, -, -, -, h⟩ <;> simp [h, readyReport]

/-! ### createReport -/

/-- What creating a report can do: drop it, queue it, or queue it and make the head report ready (R23, R24). -/
theorem createReport_cases (b : ReportBody) (s : State) :
    (32 ≤ s.cir.queue.length ∧
      createReport b s = s.withCir { s.cir with dropped := satAdd 65535 s.cir.dropped 1 }) ∨
    (s.cir.queue.length < 32 ∧
      createReport b s = makeReady (s.withCir { s.cir with queue := s.cir.queue ++ [{ time := s.time, body := b }] })) := by
  unfold createReport
  split
  · exact .inl ⟨‹_›, rfl⟩
  · exact .inr ⟨by omega, rfl⟩

@[simp] theorem createReport_pending (b : ReportBody) (s : State) : (createReport b s).pending = s.pending := by
  rcases createReport_cases b s with ⟨-, h⟩ | ⟨-, h⟩ <;> simp [h]

@[simp] theorem createReport_su (b : ReportBody) (s : State) : (createReport b s).su = s.su := by
  rcases createReport_cases b s with ⟨-, h⟩ | ⟨-, h⟩ <;> simp [h]

@[simp] theorem createReport_ct (b : ReportBody) (s : State) : (createReport b s).ct = s.ct := by
  rcases createReport_cases b s with ⟨-, h⟩ | ⟨-, h⟩ <;> simp [h]

@[simp] theorem createReport_fiu (b : ReportBody) (s : State) : (createReport b s).fiu = s.fiu := by
  rcases createReport_cases b s with ⟨-, h⟩ | ⟨-, h⟩ <;> simp [h]

@[simp] theorem createReport_ctu (b : ReportBody) (s : State) : (createReport b s).ctu = s.ctu := by
  rcases createReport_cases b s with ⟨-, h⟩ | ⟨-, h⟩ <;> simp [h]

@[simp] theorem createReport_fl (b : ReportBody) (s : State) : (createReport b s).fl = s.fl := by
  rcases createReport_cases b s with ⟨-, h⟩ | ⟨-, h⟩ <;> simp [h]

@[simp] theorem createReport_ls (b : ReportBody) (s : State) : (createReport b s).ls = s.ls := by
  rcases createReport_cases b s with ⟨-, h⟩ | ⟨-, h⟩ <;> simp [h]

@[simp] theorem createReport_ve (b : ReportBody) (s : State) : (createReport b s).ve = s.ve := by
  rcases createReport_cases b s with ⟨-, h⟩ | ⟨-, h⟩ <;> simp [h]

@[simp] theorem createReport_sh (b : ReportBody) (s : State) : (createReport b s).sh = s.sh := by
  rcases createReport_cases b s with ⟨-, h⟩ | ⟨-, h⟩ <;> simp [h]

@[simp] theorem createReport_pu (b : ReportBody) (s : State) : (createReport b s).pu = s.pu := by
  rcases createReport_cases b s with ⟨-, h⟩ | ⟨-, h⟩ <;> simp [h]

@[simp] theorem createReport_time (b : ReportBody) (s : State) : (createReport b s).time = s.time := by
  rcases createReport_cases b s with ⟨-, h⟩ | ⟨-, h⟩ <;> simp [h]

@[simp] theorem createReport_free (b : ReportBody) (s : State) : (createReport b s).free = s.free := by
  rcases createReport_cases b s with ⟨-, h⟩ | ⟨-, h⟩ <;> simp [h]

@[simp] theorem createReport_cir_expected (b : ReportBody) (s : State) : (createReport b s).cir.expected = s.cir.expected := by
  rcases createReport_cases b s with ⟨-, h⟩ | ⟨-, h⟩ <;> simp [h]

@[simp] theorem createReport_cir_c (b : ReportBody) (s : State) : (createReport b s).cir.c = s.cir.c := by
  rcases createReport_cases b s with ⟨-, h⟩ | ⟨-, h⟩ <;> simp [h]

@[simp] theorem createReport_cir_snapshots (b : ReportBody) (s : State) : (createReport b s).cir.snapshots = s.cir.snapshots := by
  rcases createReport_cases b s with ⟨-, h⟩ | ⟨-, h⟩ <;> simp [h]

@[simp] theorem createReport_tu_cpBase (b : ReportBody) (s : State) : (createReport b s).tu.cpBase = s.tu.cpBase := by
  rcases createReport_cases b s with ⟨-, h⟩ | ⟨-, h⟩ <;> simp [h]

@[simp] theorem createReport_tu_book (b : ReportBody) (s : State) : (createReport b s).tu.book = s.tu.book := by
  rcases createReport_cases b s with ⟨-, h⟩ | ⟨-, h⟩ <;> simp [h]

@[simp] theorem createReport_tu_inWrites (b : ReportBody) (s : State) : (createReport b s).tu.inWrites = s.tu.inWrites := by
  rcases createReport_cases b s with ⟨-, h⟩ | ⟨-, h⟩ <;> simp [h]

@[simp] theorem createReport_tu_arrival (b : ReportBody) (s : State) : (createReport b s).tu.arrival = s.tu.arrival := by
  rcases createReport_cases b s with ⟨-, h⟩ | ⟨-, h⟩ <;> simp [h]

@[simp] theorem createReport_tu_runCount (b : ReportBody) (s : State) : (createReport b s).tu.runCount = s.tu.runCount := by
  rcases createReport_cases b s with ⟨-, h⟩ | ⟨-, h⟩ <;> simp [h]

@[simp] theorem createReport_tu_sentWrites (b : ReportBody) (s : State) : (createReport b s).tu.sentWrites = s.tu.sentWrites := by
  rcases createReport_cases b s with ⟨-, h⟩ | ⟨-, h⟩ <;> simp [h]

@[simp] theorem createReport_tu_nextTag (b : ReportBody) (s : State) : (createReport b s).tu.nextTag = s.tu.nextTag := by
  rcases createReport_cases b s with ⟨-, h⟩ | ⟨-, h⟩ <;> simp [h]

@[simp] theorem createReport_tu_stale (b : ReportBody) (s : State) : (createReport b s).tu.stale = s.tu.stale := by
  rcases createReport_cases b s with ⟨-, h⟩ | ⟨-, h⟩ <;> simp [h]

@[simp] theorem createReport_tu_memOut (b : ReportBody) (s : State) : (createReport b s).tu.memOut = s.tu.memOut := by
  rcases createReport_cases b s with ⟨-, h⟩ | ⟨-, h⟩ <;> simp [h]
@[simp] theorem createReport_tu_dataQueue (b : ReportBody) (s : State) : (createReport b s).tu.dataQueue = s.tu.dataQueue := by
  rcases createReport_cases b s with ⟨-, h⟩ | ⟨-, h⟩ <;> simp [h]
@[simp] theorem createReport_tu_memData (b : ReportBody) (s : State) : (createReport b s).tu.memData = s.tu.memData := by
  rcases createReport_cases b s with ⟨-, h⟩ | ⟨-, h⟩ <;> simp [h]

@[simp] theorem createReport_tu_upOut (b : ReportBody) (s : State) : (createReport b s).tu.upOut = s.tu.upOut := by
  rcases createReport_cases b s with ⟨-, h⟩ | ⟨-, h⟩ <;> simp [h]

/-- The pending queue grows by at most one report at each creation. -/
theorem createReport_queue_length (b : ReportBody) (s : State) :
    (createReport b s).cir.queue.length ≤ s.cir.queue.length + 1 := by
  rcases createReport_cases b s with ⟨-, h⟩ | ⟨-, h⟩
  · simp [h]
  · rw [h]
    rcases makeReady_cases (s.withCir { s.cir with queue := s.cir.queue ++ [{ time := s.time, body := b }] }) with
      g | ⟨r, rest, hq, -, -, g⟩
    · simp [g]
    · rw [g]
      have hl := congrArg List.length hq
      simp at hl
      simp [readyReport]
      omega

/-- Making a report ready moves it along without changing the order of the reports on their way. -/
@[simp] theorem reportsOnWay_makeReady (s : State) : reportsOnWay (makeReady s) = reportsOnWay s := by
  rcases makeReady_cases s with h | ⟨r, rest, hq, -, -, h⟩
  · rw [h]
  · rw [h]
    simp [reportsOnWay, readyReport, readyHead, BackgroundItem.created, hq, List.filterMap_append]

/-- With room in the pending queue, a report created joins the reports on their way, behind all of them. -/
theorem reportsOnWay_createReport (b : ReportBody) (s : State) (h : s.cir.queue.length < 32) :
    reportsOnWay (createReport b s) = reportsOnWay s ++ [{ time := s.time, body := b }] := by
  rcases createReport_cases b s with ⟨h', -⟩ | ⟨-, e⟩
  · omega
  · rw [e, reportsOnWay_makeReady]
    simp [reportsOnWay]

/-! ### RingMoved and Created -/

theorem ringMoved_refl (s : State) : RingMoved s s := .inl ⟨rfl, rfl, rfl, rfl⟩

theorem ringMoved_makeReady (s : State) : RingMoved s (makeReady s) := by
  rcases makeReady_cases s with h | ⟨r, rest, -, ho, hw, h⟩
  · rw [h]; exact ringMoved_refl s
  · rw [h]
    exact .inr ⟨ho, hw, rfl, rfl, rfl, readyHead s r, rfl, rfl, rfl, rfl⟩

/-- A report write that waits is not joined by another before it is sent: the ring moves at most once. -/
theorem RingMoved.trans {s t u : State} (h : RingMoved s t) (k : RingMoved t u) (hc : t.cir.c = s.cir.c) :
    RingMoved s u := by
  rcases h with ⟨a1, a2, a3, a4⟩ | ⟨b0, b1, b2, b3, b4, r, b5, b6, b7, b8⟩
  · rcases k with ⟨c1, c2, c3, c4⟩ | ⟨d0, d1, d2, d3, d4, r, d5, d6, d7, d8⟩
    · exact .inl ⟨c1.trans a1, c2.trans a2, c3.trans a3, c4.trans a4⟩
    · refine .inr ⟨?_, ?_, ?_, ?_, d4, r, ?_, ?_, ?_, ?_⟩
      · simpa [reportsOutstanding, a1, hc] using d0
      · simpa [reportWaiting, a4] using d1
      · rw [d2, a1]
      · rw [d3, a2]
      · rw [d5, a1]
      · rw [d6, a2]
      · rw [d7, a3]
      · rw [d8, a4]
  · rcases k with ⟨c1, c2, c3, c4⟩ | ⟨-, d1, -⟩
    · exact .inr ⟨b0, b1, c1.trans b2, c2.trans b3, c3.trans b4, r, b5, b6, b7, c4.trans b8⟩
    · simp [reportWaiting, b8, BackgroundItem.isReport] at d1

/-- Two states that agree in CIR's ring fields, its queue and the background queue report the same. -/
theorem Created.of_same {s t : State} (hp : t.cir.p = s.cir.p) (hw : t.cir.w = s.cir.w) (hc : t.cir.c = s.cir.c)
    (hd : t.cir.dropped = s.cir.dropped) (hq : t.cir.queue = s.cir.queue) (hs : t.cir.snapshots = s.cir.snapshots)
    (hb : t.tu.background = s.tu.background) : Created s t [] :=
  ⟨by simp [reportsOnWay, hq, hb], .inl ⟨hp, hw, hd, hb⟩, hc, hs⟩

theorem Created.refl (s : State) : Created s s [] := .of_same rfl rfl rfl rfl rfl rfl rfl

theorem Created.trans {s t u : State} {l m : List ReportBody} (h : Created s t l) (k : Created t u m)
    (ht : t.time = s.time) : Created s u (l ++ m) := by
  obtain ⟨h1, h2, h3, h4⟩ := h
  obtain ⟨k1, k2, k3, k4⟩ := k
  exact ⟨by rw [k1, h1, ht]; simp, h2.trans k2 h3, k3.trans h3, k4.trans h4⟩

/-- One report more, with room for it. -/
theorem Created.create {s t : State} {l : List ReportBody} (b : ReportBody) (h : Created s t l) (ht : t.time = s.time)
    (hq : t.cir.queue.length < 32) : Created s (createReport b t) (l ++ [b]) := by
  refine h.trans ⟨reportsOnWay_createReport b t hq, ?_, by simp, by simp⟩ ht
  rcases createReport_cases b t with ⟨h', -⟩ | ⟨-, e⟩
  · omega
  · rw [e]
    exact RingMoved.trans (.inl ⟨rfl, rfl, rfl, rfl⟩) (ringMoved_makeReady _) rfl

/-- A step between states that CIR's reports do not see. -/
theorem Created.after {s t u : State} {l : List ReportBody} (h : Created s t l) (hc : u.cir = t.cir)
    (hb : u.tu.background = t.tu.background) : Created s u l := by
  obtain ⟨h1, h2, h3, h4⟩ := h
  refine ⟨?_, h2.trans (.inl ⟨by rw [hc], by rw [hc], by rw [hc], hb⟩) h3, by rw [hc, h3], by rw [hc, h4]⟩
  rw [← h1]
  simp [reportsOnWay, hc, hb]

/-- Taking the record is no report. -/
theorem created_advanceSequence (s : State) : Created s (advanceSequence s) [] :=
  .of_same rfl rfl rfl rfl rfl rfl rfl

/-! ### SameButReports -/

theorem sameButReports_refl (x : State) : SameButReports x x := rfl

/-- A report created leaves everything but CIR's state and the background queue. -/
theorem sameButReports_createReport {x t : State} (b : ReportBody) (h : SameButReports x t) :
    SameButReports x (createReport b t) := by
  unfold SameButReports at *
  rw [← h]
  simp only [State.withTu, State.withCir, createReport_pending, createReport_su,
    createReport_ct, createReport_fiu, createReport_ctu, createReport_fl, createReport_ls, createReport_ve,
    createReport_sh, createReport_pu, createReport_time, createReport_free, createReport_tu_cpBase,
    createReport_tu_book, createReport_tu_inWrites, createReport_tu_arrival, createReport_tu_runCount,
    createReport_tu_sentWrites, createReport_tu_nextTag, createReport_tu_stale, createReport_tu_dataQueue,
    createReport_tu_memOut, createReport_tu_memData, createReport_tu_upOut]

/-! ### Completing a command -/

/-- A command that ends at execution completes with its answer, after the reports l of its own, when they left room. -/
theorem completeCommand_completed (code : Nat) (act : State → State × Answer) (s : State) (l : List ReportBody)
    (he : (act (advanceSequence s)).1.cir.expected = wrap32 s.cir.expected 1)
    (ht : (act (advanceSequence s)).1.time = s.time) (hq : (act (advanceSequence s)).1.cir.queue.length < 32)
    (hl : Created s (act (advanceSequence s)).1 l) :
    Completed s (completeCommand code act s) l code (act (advanceSequence s)).2 :=
  ⟨by simp [completeCommand, he, wrap32], hl.create _ ht hq⟩

/-- A command that acts on no report and no background request completes with its COMPLETION alone. -/
theorem completeCommand_quiet (code : Nat) (act : State → State × Answer) (s : State) (h : Room 1 s)
    (hc : (act (advanceSequence s)).1.cir = (advanceSequence s).cir)
    (hb : (act (advanceSequence s)).1.tu.background = s.tu.background) (ht : (act (advanceSequence s)).1.time = s.time) :
    Completed s (completeCommand code act s) [] code (act (advanceSequence s)).2 := by
  refine completeCommand_completed code act s [] (by rw [hc]; rfl) ht ?_ ((created_advanceSequence s).after hc hb)
  rw [hc]
  unfold Room at h
  simp [advanceSequence]
  omega

/-! ### Reading a table after a report or the taking of a record -/

@[simp] theorem advanceSequence_pending (s : State) : (advanceSequence s).pending = s.pending := rfl

@[simp] theorem advanceSequence_tu (s : State) : (advanceSequence s).tu = s.tu := rfl

@[simp] theorem advanceSequence_su (s : State) : (advanceSequence s).su = s.su := rfl

@[simp] theorem advanceSequence_ct (s : State) : (advanceSequence s).ct = s.ct := rfl

@[simp] theorem advanceSequence_fiu (s : State) : (advanceSequence s).fiu = s.fiu := rfl

@[simp] theorem advanceSequence_ctu (s : State) : (advanceSequence s).ctu = s.ctu := rfl

@[simp] theorem advanceSequence_fl (s : State) : (advanceSequence s).fl = s.fl := rfl

@[simp] theorem advanceSequence_ls (s : State) : (advanceSequence s).ls = s.ls := rfl

@[simp] theorem advanceSequence_ve (s : State) : (advanceSequence s).ve = s.ve := rfl

@[simp] theorem advanceSequence_sh (s : State) : (advanceSequence s).sh = s.sh := rfl

@[simp] theorem advanceSequence_pu (s : State) : (advanceSequence s).pu = s.pu := rfl

@[simp] theorem advanceSequence_time (s : State) : (advanceSequence s).time = s.time := rfl

@[simp] theorem advanceSequence_free (s : State) : (advanceSequence s).free = s.free := rfl

@[simp] theorem clipAt_advanceSequence (s : State) (i : Nat) : clipAt (advanceSequence s) i = clipAt s i := rfl

@[simp] theorem cardSlotAt_advanceSequence (s : State) (i : Nat) : cardSlotAt (advanceSequence s) i = cardSlotAt s i := rfl

@[simp] theorem streamAt_advanceSequence (s : State) (i : Nat) : streamAt (advanceSequence s) i = streamAt s i := rfl

@[simp] theorem frameSlotAt_advanceSequence (s : State) (i : Nat) : frameSlotAt (advanceSequence s) i = frameSlotAt s i := rfl

@[simp] theorem cameraAt_advanceSequence (s : State) (i : Nat) : cameraAt (advanceSequence s) i = cameraAt s i := rfl

@[simp] theorem pairAt_advanceSequence (s : State) (i : Nat) : pairAt (advanceSequence s) i = pairAt s i := rfl

@[simp] theorem lookSlotAt_advanceSequence (s : State) (i : Nat) : lookSlotAt (advanceSequence s) i = lookSlotAt s i := rfl

@[simp] theorem viewAt_advanceSequence (s : State) (i : Nat) : viewAt (advanceSequence s) i = viewAt s i := rfl

@[simp] theorem motionAt_advanceSequence (s : State) (i : Nat) : motionAt (advanceSequence s) i = motionAt s i := rfl

@[simp] theorem keyAt_advanceSequence (s : State) (i : Nat) : keyAt (advanceSequence s) i = keyAt s i := rfl

@[simp] theorem bindingAt_advanceSequence (s : State) (i : Nat) : bindingAt (advanceSequence s) i = bindingAt s i := rfl

@[simp] theorem clipAt_createReport (b : ReportBody) (s : State) (i : Nat) : clipAt (createReport b s) i = clipAt s i := by
  simp [clipAt]

@[simp] theorem cardSlotAt_createReport (b : ReportBody) (s : State) (i : Nat) : cardSlotAt (createReport b s) i = cardSlotAt s i := by
  simp [cardSlotAt]

@[simp] theorem streamAt_createReport (b : ReportBody) (s : State) (i : Nat) : streamAt (createReport b s) i = streamAt s i := by
  simp [streamAt]

@[simp] theorem frameSlotAt_createReport (b : ReportBody) (s : State) (i : Nat) : frameSlotAt (createReport b s) i = frameSlotAt s i := by
  simp [frameSlotAt]

@[simp] theorem cameraAt_createReport (b : ReportBody) (s : State) (i : Nat) : cameraAt (createReport b s) i = cameraAt s i := by
  simp [cameraAt]

@[simp] theorem pairAt_createReport (b : ReportBody) (s : State) (i : Nat) : pairAt (createReport b s) i = pairAt s i := by
  simp [pairAt]

@[simp] theorem lookSlotAt_createReport (b : ReportBody) (s : State) (i : Nat) : lookSlotAt (createReport b s) i = lookSlotAt s i := by
  simp [lookSlotAt]

@[simp] theorem viewAt_createReport (b : ReportBody) (s : State) (i : Nat) : viewAt (createReport b s) i = viewAt s i := by
  simp [viewAt]

@[simp] theorem motionAt_createReport (b : ReportBody) (s : State) (i : Nat) : motionAt (createReport b s) i = motionAt s i := by
  simp [motionAt]

@[simp] theorem keyAt_createReport (b : ReportBody) (s : State) (i : Nat) : keyAt (createReport b s) i = keyAt s i := by
  simp [keyAt]

@[simp] theorem bindingAt_createReport (b : ReportBody) (s : State) (i : Nat) : bindingAt (createReport b s) i = bindingAt s i := by
  simp [bindingAt]

/-! ### Answered and Told -/

/-- A command that acts on no report and no background request is answered with its COMPLETION alone. -/
theorem answered_quiet {code : Nat} {act : State → State × Answer} {s x : State} {a : Answer}
    (ha : (act (advanceSequence s)).2 = a) (hx : SameButReports x (act (advanceSequence s)).1)
    (hc : (act (advanceSequence s)).1.cir = (advanceSequence s).cir)
    (hb : (act (advanceSequence s)).1.tu.background = s.tu.background) (ht : (act (advanceSequence s)).1.time = s.time) :
    Answered s (completeCommand code act s) [] code a x := by
  subst ha
  refine ⟨?_, sameButReports_createReport _ hx, fun h => (completeCommand_quiet code act s h hc hb ht).2⟩
  simp only [completeCommand, createReport_cir_expected, hc]; rfl

/-- The same, with the state that the command leaves named. -/
theorem answered_by {code : Nat} {act : State → State × Answer} {s x r : State} {a : Answer}
    (h : act (advanceSequence s) = (r, a)) (hx : SameButReports x r) (hc : r.cir = (advanceSequence s).cir)
    (hb : r.tu.background = s.tu.background) (ht : r.time = s.time) : Answered s (completeCommand code act s) [] code a x := by
  apply answered_quiet <;> rw [h] <;> assumption

/-- A command that creates the reports l of its own is answered after them. -/
theorem answered_after {code : Nat} {act : State → State × Answer} {s x : State} {a : Answer} {l : List ReportBody}
    (ha : (act (advanceSequence s)).2 = a) (hx : SameButReports x (act (advanceSequence s)).1)
    (he : (act (advanceSequence s)).1.cir.expected = wrap32 s.cir.expected 1)
    (ht : (act (advanceSequence s)).1.time = s.time)
    (hl : Room (l.length + 1) s →
      Created s (act (advanceSequence s)).1 l ∧ (act (advanceSequence s)).1.cir.queue.length < 32) :
    Answered s (completeCommand code act s) l code a x := by
  subst ha
  refine ⟨?_, sameButReports_createReport _ hx, fun h => ?_⟩
  · simp only [completeCommand, createReport_cir_expected, he]; rfl
  · exact (completeCommand_completed code act s l he ht (hl h).2 (hl h).1).2

/-- A refusal answers and changes nothing (R20). -/
theorem answered_refused {code : Nat} {act : State → State × Answer} {s : State} {r : Reason}
    (h : act (advanceSequence s) = refuse r (advanceSequence s)) :
    Answered s (completeCommand code act s) [] code (.refused r 0) s := by
  refine answered_quiet ?_ ?_ ?_ ?_ ?_ <;> rw [h] <;> rfl

/-- An event that creates no report. -/
theorem told_quiet {s t x : State} (he : t.cir = s.cir) (hb : t.tu.background = s.tu.background)
    (hx : SameButReports x t) : Told s t [] x :=
  ⟨by rw [he], hx, fun _ => (Created.refl s).after he hb⟩

/-- One report more. -/
theorem Told.create {s t x : State} {l : List ReportBody} (h : Told s t l x) (b : ReportBody) (ht : t.time = s.time)
    (hq : t.cir.queue.length ≤ s.cir.queue.length + l.length) : Told s (createReport b t) (l ++ [b]) x := by
  refine ⟨by simp [h.expected], sameButReports_createReport _ h.effect, fun hr => ?_⟩
  unfold Room at hr
  simp at hr
  exact (h.reports (by unfold Room; omega)).create b ht (by omega)

/-- An event whose one report is created last. -/
theorem told_one {s u x : State} (b : ReportBody) (he : u.cir = s.cir) (hb : u.tu.background = s.tu.background)
    (ht : u.time = s.time) (hx : SameButReports x u) : Told s (createReport b u) [b] x :=
  (told_quiet he hb hx).create b ht (by rw [he]; simp)

/-- What computing a lamp can do (R64, R65): set the lamp that Table 4-6 gives and report the change, if there is one. -/
theorem told_lamp (k : Nat) (s : State) : Told s (computeLamp k s) (lampReport k s) (relit k s) := by
  unfold computeLamp lampReport relit lampStale
  by_cases h : k < 8 ∧ lampOf s k ≠ (cardSlotAt s k).lamp
  · rw [if_pos h, decide_eq_true h, if_pos rfl, if_pos rfl]
    exact told_one _ rfl rfl rfl rfl
  · rw [if_neg h, decide_eq_false h, if_neg Bool.false_ne_true, if_neg Bool.false_ne_true]
    exact told_quiet rfl rfl rfl

/-! ### Putting events together -/

/-- The fields that a state shares with one that differs from it in CIR's state and the background queue only. -/
theorem SameButReports.fields {x t : State} (h : SameButReports x t) :
    t.pending = x.pending ∧ t.su = x.su ∧ t.ct = x.ct ∧ t.fiu = x.fiu ∧ t.ctu = x.ctu ∧ t.fl = x.fl ∧ t.ls = x.ls ∧
      t.ve = x.ve ∧ t.sh = x.sh ∧ t.pu = x.pu ∧ t.time = x.time ∧ t.free = x.free := by
  unfold SameButReports at h
  rw [← h]
  exact ⟨rfl, rfl, rfl, rfl, rfl, rfl, rfl, rfl, rfl, rfl, rfl, rfl⟩

theorem SameButReports.trans {x t u : State} (h : SameButReports x t) (k : SameButReports t u) : SameButReports x u := by
  unfold SameButReports at *
  rw [← h, ← k]
  rfl

/-- Reports created leave at most so many more in the pending queue. -/
theorem Created.queue_le {s t : State} {l : List ReportBody} (h : Created s t l) :
    t.cir.queue.length ≤ s.cir.queue.length + l.length := by
  obtain ⟨h1, h2, -, -⟩ := h
  have e := congrArg List.length h1
  simp only [reportsOnWay, List.length_append, List.length_map] at e
  rcases h2 with ⟨-, -, -, hb⟩ | ⟨-, -, -, -, -, r, -, -, -, hb⟩
  · rw [hb] at e
    omega
  · rw [hb] at e
    simp only [List.filterMap_append, List.length_append] at e
    omega

/-- An event after another: its reports follow, and its effect is on what the first left. -/
theorem Told.trans {s t u x y : State} {l m : List ReportBody} (h : Told s t l x) (k : Told t u m y)
    (hx : x.time = s.time) : Told s u (l ++ m) y := by
  have ht : t.time = s.time := by rw [← hx]; exact h.effect.fields.2.2.2.2.2.2.2.2.2.2.1
  refine ⟨k.expected.trans h.expected, k.effect, fun hr => ?_⟩
  unfold Room at hr
  simp only [List.length_append] at hr
  have h' := h.reports (by unfold Room; omega)
  have := h'.queue_le
  exact h'.trans (k.reports (by unfold Room; omega)) ht

/-- The same effect, seen from a state that differs in CIR's state and the background queue only. -/
theorem Told.seen {s t x y : State} {l : List ReportBody} (h : Told s t l y) (k : SameButReports x y) : Told s t l x :=
  ⟨h.expected, k.trans h.effect, h.reports⟩

/-- A command whose acting is an event that is told is answered after that event's reports. -/
theorem answered_told {code : Nat} {act : State → State × Answer} {s x : State} {a : Answer} {l : List ReportBody}
    (ha : (act (advanceSequence s)).2 = a) (h : Told (advanceSequence s) (act (advanceSequence s)).1 l x)
    (hx : x.time = s.time) : Answered s (completeCommand code act s) l code a x := by
  have ht : (act (advanceSequence s)).1.time = s.time := by rw [← hx]; exact h.effect.fields.2.2.2.2.2.2.2.2.2.2.1
  refine answered_after ha h.effect (h.expected.trans rfl) ht fun hr => ?_
  unfold Room at hr
  have h' := h.reports (by unfold Room; simp [advanceSequence]; omega)
  have := h'.queue_le
  refine ⟨(created_advanceSequence s).trans h' rfl, ?_⟩
  have e : (advanceSequence s).cir.queue = s.cir.queue := rfl
  rw [e] at this
  omega

/-- An update that CIR's reports do not see keeps what was told, of what it makes of the effect. -/
theorem Told.after {s t u x y : State} {l : List ReportBody} (h : Told s t l x) (hc : u.cir = t.cir)
    (hb : u.tu.background = t.tu.background) (hy : SameButReports y u) : Told s u l y :=
  ⟨by rw [hc, h.expected], hy, fun hr => (h.reports hr).after hc hb⟩

theorem SameButReports.withSu {x t : State} (h : SameButReports x t) (v : StreamUnit) :
    SameButReports (x.withSu v) (t.withSu v) := by
  unfold SameButReports at *
  rw [← h]
  rfl

theorem SameButReports.withCt {x t : State} (h : SameButReports x t) (v : ClipTracker) :
    SameButReports (x.withCt v) (t.withCt v) := by
  unfold SameButReports at *
  rw [← h]
  rfl

theorem SameButReports.withFiu {x t : State} (h : SameButReports x t) (v : FrameInspection) :
    SameButReports (x.withFiu v) (t.withFiu v) := by
  unfold SameButReports at *
  rw [← h]
  rfl

theorem SameButReports.withCtu {x t : State} (h : SameButReports x t) (v : CameraTrack) :
    SameButReports (x.withCtu v) (t.withCtu v) := by
  unfold SameButReports at *
  rw [← h]
  rfl

theorem SameButReports.withFl {x t : State} (h : SameButReports x t) (v : FaultList) :
    SameButReports (x.withFl v) (t.withFl v) := by
  unfold SameButReports at *
  rw [← h]
  rfl

theorem SameButReports.withLs {x t : State} (h : SameButReports x t) (v : List LookSlot) :
    SameButReports (x.withLs v) (t.withLs v) := by
  unfold SameButReports at *
  rw [← h]
  rfl

theorem SameButReports.withVe {x t : State} (h : SameButReports x t) (v : List View) :
    SameButReports (x.withVe v) (t.withVe v) := by
  unfold SameButReports at *
  rw [← h]
  rfl

theorem SameButReports.withSh {x t : State} (h : SameButReports x t) (v : List Motion) :
    SameButReports (x.withSh v) (t.withSh v) := by
  unfold SameButReports at *
  rw [← h]
  rfl

theorem SameButReports.withPu {x t : State} (h : SameButReports x t) (v : Panel) :
    SameButReports (x.withPu v) (t.withPu v) := by
  unfold SameButReports at *
  rw [← h]
  rfl

theorem SameButReports.withFree {x t : State} (h : SameButReports x t) (v : Nat) :
    SameButReports (x.withFree v) (t.withFree v) := by
  unfold SameButReports at *
  rw [← h]
  rfl

/-! ### Lamps after other events -/

theorem lampOf_congr {s t : State} (hc : t.ct = s.ct) (hs : t.su = s.su) (k : Nat) : lampOf t k = lampOf s k := by
  unfold lampOf sessionSet inSession sourceRunning clipCritical clipVerified cardSlotAt clipAt
  rw [hc, hs]

theorem lampReport_congr {s t : State} (hc : t.ct = s.ct) (hs : t.su = s.su) (k : Nat) : lampReport k t = lampReport k s := by
  unfold lampReport lampStale
  rw [lampOf_congr hc hs]
  unfold cardSlotAt
  rw [hc]

/-- Setting a lamp sees nothing of CIR's state and the background queue. -/
theorem SameButReports.relit {x t : State} (h : SameButReports x t) (k : Nat) : SameButReports (relit k x) (relit k t) := by
  have f := h.fields
  have hl : lampOf t k = lampOf x k := lampOf_congr f.2.2.1 f.2.1 k
  have hk : cardSlotAt t k = cardSlotAt x k := by unfold cardSlotAt; rw [f.2.2.1]
  unfold Machine.relit lampStale
  rw [hl, hk]
  split
  · unfold SameButReports setCardSlot at *
    rw [f.2.2.1]
    rw [← h]
    rfl
  · exact h

/-- An event and then a lamp. -/
theorem Told.lamp {s t x : State} {l : List ReportBody} (h : Told s t l x) (hx : x.time = s.time) (k : Nat) :
    Told s (computeLamp k t) (l ++ lampReport k x) (relit k x) := by
  have f := h.effect.fields
  rw [← lampReport_congr f.2.2.1 f.2.1 k]
  exact (h.trans (told_lamp k t) hx).seen (h.effect.relit k)

@[simp] theorem relit_time (k : Nat) (s : State) : (relit k s).time = s.time := by
  unfold relit; split <;> rfl

/-- Several lamps, in the order given. -/
theorem Told.lamps {s t x : State} {l : List ReportBody} (ks : List Nat) (h : Told s t l x) (hx : x.time = s.time) :
    Told s (computeLamps ks t) (l ++ lampReports ks x) (relitAll ks x) := by
  induction ks generalizing t x l with
  | nil => simpa [computeLamps, lampReports, relitAll] using h
  | cons k ks ih => simpa [computeLamps, lampReports, relitAll] using ih (h.lamp hx k) (by simp [hx])

end Sys2Proof.Machine
end

