-- ==== Sys2Proof/Laws/Frames.lean ====
section
/-! SUPPORT. What each operation leaves as it was: for each operation of the units, one lemma that names every unit,
the time base, the control page, the order book and the command queue where it does not touch them. -/

namespace Sys2Proof.Machine

/-- A fold keeps what each of its steps keeps. -/
theorem foldl_keeps {α β : Type} (g : State → β) (f : State → α → State) (h : ∀ t a, g (f t a) = g t) (l : List α)
    (s : State) : g (l.foldl f s) = g s := by
  induction l generalizing s with
  | nil => rfl
  | cons a l ih => rw [List.foldl_cons, ih, h]

/-! ### Table entries -/

@[simp] theorem setClip_frame (i : Nat) (e : Option Clip) (s : State) :
    (setClip i e s).pending = s.pending ∧
    (setClip i e s).tu.cpBase = s.tu.cpBase ∧
    (setClip i e s).tu.book = s.tu.book ∧
    (setClip i e s).su = s.su ∧
    (setClip i e s).fiu = s.fiu ∧
    (setClip i e s).ctu = s.ctu ∧
    (setClip i e s).fl = s.fl ∧
    (setClip i e s).ls = s.ls ∧
    (setClip i e s).ve = s.ve ∧
    (setClip i e s).sh = s.sh ∧
    (setClip i e s).pu = s.pu ∧
    (setClip i e s).time = s.time ∧
    (setClip i e s).free = s.free := by
  exact ⟨rfl, rfl, rfl, rfl, rfl, rfl, rfl, rfl, rfl, rfl, rfl, rfl, rfl⟩

@[simp] theorem setCardSlot_frame (k : Nat) (c : CardSlot) (s : State) :
    (setCardSlot k c s).pending = s.pending ∧
    (setCardSlot k c s).tu.cpBase = s.tu.cpBase ∧
    (setCardSlot k c s).tu.book = s.tu.book ∧
    (setCardSlot k c s).su = s.su ∧
    (setCardSlot k c s).fiu = s.fiu ∧
    (setCardSlot k c s).ctu = s.ctu ∧
    (setCardSlot k c s).fl = s.fl ∧
    (setCardSlot k c s).ls = s.ls ∧
    (setCardSlot k c s).ve = s.ve ∧
    (setCardSlot k c s).sh = s.sh ∧
    (setCardSlot k c s).pu = s.pu ∧
    (setCardSlot k c s).time = s.time ∧
    (setCardSlot k c s).free = s.free := by
  exact ⟨rfl, rfl, rfl, rfl, rfl, rfl, rfl, rfl, rfl, rfl, rfl, rfl, rfl⟩

@[simp] theorem setStream_frame (i : Nat) (e : Option Stream) (s : State) :
    (setStream i e s).pending = s.pending ∧
    (setStream i e s).tu.cpBase = s.tu.cpBase ∧
    (setStream i e s).tu.book = s.tu.book ∧
    (setStream i e s).ct = s.ct ∧
    (setStream i e s).fiu = s.fiu ∧
    (setStream i e s).ctu = s.ctu ∧
    (setStream i e s).fl = s.fl ∧
    (setStream i e s).ls = s.ls ∧
    (setStream i e s).ve = s.ve ∧
    (setStream i e s).sh = s.sh ∧
    (setStream i e s).pu = s.pu ∧
    (setStream i e s).time = s.time ∧
    (setStream i e s).free = s.free := by
  exact ⟨rfl, rfl, rfl, rfl, rfl, rfl, rfl, rfl, rfl, rfl, rfl, rfl, rfl⟩

@[simp] theorem setFrameSlot_frame (k : Nat) (f : FrameSlot) (s : State) :
    (setFrameSlot k f s).pending = s.pending ∧
    (setFrameSlot k f s).tu.cpBase = s.tu.cpBase ∧
    (setFrameSlot k f s).tu.book = s.tu.book ∧
    (setFrameSlot k f s).su = s.su ∧
    (setFrameSlot k f s).ct = s.ct ∧
    (setFrameSlot k f s).ctu = s.ctu ∧
    (setFrameSlot k f s).fl = s.fl ∧
    (setFrameSlot k f s).ls = s.ls ∧
    (setFrameSlot k f s).ve = s.ve ∧
    (setFrameSlot k f s).sh = s.sh ∧
    (setFrameSlot k f s).pu = s.pu ∧
    (setFrameSlot k f s).time = s.time ∧
    (setFrameSlot k f s).free = s.free := by
  exact ⟨rfl, rfl, rfl, rfl, rfl, rfl, rfl, rfl, rfl, rfl, rfl, rfl, rfl⟩

@[simp] theorem setCamera_frame (c : Nat) (x : Camera) (s : State) :
    (setCamera c x s).pending = s.pending ∧
    (setCamera c x s).tu.cpBase = s.tu.cpBase ∧
    (setCamera c x s).tu.book = s.tu.book ∧
    (setCamera c x s).su = s.su ∧
    (setCamera c x s).ct = s.ct ∧
    (setCamera c x s).fiu = s.fiu ∧
    (setCamera c x s).fl = s.fl ∧
    (setCamera c x s).ls = s.ls ∧
    (setCamera c x s).ve = s.ve ∧
    (setCamera c x s).sh = s.sh ∧
    (setCamera c x s).pu = s.pu ∧
    (setCamera c x s).time = s.time ∧
    (setCamera c x s).free = s.free := by
  exact ⟨rfl, rfl, rfl, rfl, rfl, rfl, rfl, rfl, rfl, rfl, rfl, rfl, rfl⟩

@[simp] theorem setPair_frame (p : Nat) (x : StereoPair) (s : State) :
    (setPair p x s).pending = s.pending ∧
    (setPair p x s).tu.cpBase = s.tu.cpBase ∧
    (setPair p x s).tu.book = s.tu.book ∧
    (setPair p x s).su = s.su ∧
    (setPair p x s).ct = s.ct ∧
    (setPair p x s).fiu = s.fiu ∧
    (setPair p x s).fl = s.fl ∧
    (setPair p x s).ls = s.ls ∧
    (setPair p x s).ve = s.ve ∧
    (setPair p x s).sh = s.sh ∧
    (setPair p x s).pu = s.pu ∧
    (setPair p x s).time = s.time ∧
    (setPair p x s).free = s.free := by
  exact ⟨rfl, rfl, rfl, rfl, rfl, rfl, rfl, rfl, rfl, rfl, rfl, rfl, rfl⟩

@[simp] theorem setLookSlot_frame (k : Nat) (x : LookSlot) (s : State) :
    (setLookSlot k x s).pending = s.pending ∧
    (setLookSlot k x s).tu.cpBase = s.tu.cpBase ∧
    (setLookSlot k x s).tu.book = s.tu.book ∧
    (setLookSlot k x s).su = s.su ∧
    (setLookSlot k x s).ct = s.ct ∧
    (setLookSlot k x s).fiu = s.fiu ∧
    (setLookSlot k x s).ctu = s.ctu ∧
    (setLookSlot k x s).fl = s.fl ∧
    (setLookSlot k x s).ve = s.ve ∧
    (setLookSlot k x s).sh = s.sh ∧
    (setLookSlot k x s).pu = s.pu ∧
    (setLookSlot k x s).time = s.time ∧
    (setLookSlot k x s).free = s.free := by
  exact ⟨rfl, rfl, rfl, rfl, rfl, rfl, rfl, rfl, rfl, rfl, rfl, rfl, rfl⟩

@[simp] theorem setView_frame (v : Nat) (x : View) (s : State) :
    (setView v x s).pending = s.pending ∧
    (setView v x s).tu.cpBase = s.tu.cpBase ∧
    (setView v x s).tu.book = s.tu.book ∧
    (setView v x s).su = s.su ∧
    (setView v x s).ct = s.ct ∧
    (setView v x s).fiu = s.fiu ∧
    (setView v x s).ctu = s.ctu ∧
    (setView v x s).fl = s.fl ∧
    (setView v x s).ls = s.ls ∧
    (setView v x s).sh = s.sh ∧
    (setView v x s).pu = s.pu ∧
    (setView v x s).time = s.time ∧
    (setView v x s).free = s.free := by
  exact ⟨rfl, rfl, rfl, rfl, rfl, rfl, rfl, rfl, rfl, rfl, rfl, rfl, rfl⟩

@[simp] theorem setMotion_frame (v : Nat) (x : Motion) (s : State) :
    (setMotion v x s).pending = s.pending ∧
    (setMotion v x s).tu.cpBase = s.tu.cpBase ∧
    (setMotion v x s).tu.book = s.tu.book ∧
    (setMotion v x s).su = s.su ∧
    (setMotion v x s).ct = s.ct ∧
    (setMotion v x s).fiu = s.fiu ∧
    (setMotion v x s).ctu = s.ctu ∧
    (setMotion v x s).fl = s.fl ∧
    (setMotion v x s).ls = s.ls ∧
    (setMotion v x s).ve = s.ve ∧
    (setMotion v x s).pu = s.pu ∧
    (setMotion v x s).time = s.time ∧
    (setMotion v x s).free = s.free := by
  exact ⟨rfl, rfl, rfl, rfl, rfl, rfl, rfl, rfl, rfl, rfl, rfl, rfl, rfl⟩

@[simp] theorem setKey_frame (k : Nat) (x : Key) (s : State) :
    (setKey k x s).pending = s.pending ∧
    (setKey k x s).tu.cpBase = s.tu.cpBase ∧
    (setKey k x s).tu.book = s.tu.book ∧
    (setKey k x s).su = s.su ∧
    (setKey k x s).ct = s.ct ∧
    (setKey k x s).fiu = s.fiu ∧
    (setKey k x s).ctu = s.ctu ∧
    (setKey k x s).fl = s.fl ∧
    (setKey k x s).ls = s.ls ∧
    (setKey k x s).ve = s.ve ∧
    (setKey k x s).sh = s.sh ∧
    (setKey k x s).time = s.time ∧
    (setKey k x s).free = s.free := by
  exact ⟨rfl, rfl, rfl, rfl, rfl, rfl, rfl, rfl, rfl, rfl, rfl, rfl, rfl⟩

@[simp] theorem advanceSequence_frame  (s : State) :
    (advanceSequence s).pending = s.pending ∧
    (advanceSequence s).tu.cpBase = s.tu.cpBase ∧
    (advanceSequence s).tu.book = s.tu.book ∧
    (advanceSequence s).su = s.su ∧
    (advanceSequence s).ct = s.ct ∧
    (advanceSequence s).fiu = s.fiu ∧
    (advanceSequence s).ctu = s.ctu ∧
    (advanceSequence s).fl = s.fl ∧
    (advanceSequence s).ls = s.ls ∧
    (advanceSequence s).ve = s.ve ∧
    (advanceSequence s).sh = s.sh ∧
    (advanceSequence s).pu = s.pu ∧
    (advanceSequence s).time = s.time ∧
    (advanceSequence s).free = s.free := by
  exact ⟨rfl, rfl, rfl, rfl, rfl, rfl, rfl, rfl, rfl, rfl, rfl, rfl, rfl, rfl⟩

@[simp] theorem chooseOrder_frame {α : Type} (l : List α) (s : State) :
    (chooseOrder l s).2.pending = s.pending ∧
    (chooseOrder l s).2.tu.cpBase = s.tu.cpBase ∧
    (chooseOrder l s).2.tu.book = s.tu.book ∧
    (chooseOrder l s).2.su = s.su ∧
    (chooseOrder l s).2.ct = s.ct ∧
    (chooseOrder l s).2.fiu = s.fiu ∧
    (chooseOrder l s).2.ctu = s.ctu ∧
    (chooseOrder l s).2.fl = s.fl ∧
    (chooseOrder l s).2.ls = s.ls ∧
    (chooseOrder l s).2.ve = s.ve ∧
    (chooseOrder l s).2.sh = s.sh ∧
    (chooseOrder l s).2.pu = s.pu ∧
    (chooseOrder l s).2.time = s.time := by
  unfold chooseOrder
  (repeat' split) <;> simp

/-! ### Lamps and faults -/

@[simp] theorem changeLamp_frame (k : Nat) (new : Lamp) (s : State) :
    (changeLamp k new s).pending = s.pending ∧
    (changeLamp k new s).tu.cpBase = s.tu.cpBase ∧
    (changeLamp k new s).tu.book = s.tu.book ∧
    (changeLamp k new s).su = s.su ∧
    (changeLamp k new s).fiu = s.fiu ∧
    (changeLamp k new s).ctu = s.ctu ∧
    (changeLamp k new s).fl = s.fl ∧
    (changeLamp k new s).ls = s.ls ∧
    (changeLamp k new s).ve = s.ve ∧
    (changeLamp k new s).sh = s.sh ∧
    (changeLamp k new s).pu = s.pu ∧
    (changeLamp k new s).time = s.time ∧
    (changeLamp k new s).free = s.free := by
  unfold changeLamp
  simp

@[simp] theorem computeLamp_frame (k : Nat) (s : State) :
    (computeLamp k s).pending = s.pending ∧
    (computeLamp k s).tu.cpBase = s.tu.cpBase ∧
    (computeLamp k s).tu.book = s.tu.book ∧
    (computeLamp k s).su = s.su ∧
    (computeLamp k s).fiu = s.fiu ∧
    (computeLamp k s).ctu = s.ctu ∧
    (computeLamp k s).fl = s.fl ∧
    (computeLamp k s).ls = s.ls ∧
    (computeLamp k s).ve = s.ve ∧
    (computeLamp k s).sh = s.sh ∧
    (computeLamp k s).pu = s.pu ∧
    (computeLamp k s).time = s.time ∧
    (computeLamp k s).free = s.free := by
  unfold computeLamp
  (repeat' split) <;> simp

@[simp] theorem computeClipLamp_frame (i : Nat) (s : State) :
    (computeClipLamp i s).pending = s.pending ∧
    (computeClipLamp i s).tu.cpBase = s.tu.cpBase ∧
    (computeClipLamp i s).tu.book = s.tu.book ∧
    (computeClipLamp i s).su = s.su ∧
    (computeClipLamp i s).fiu = s.fiu ∧
    (computeClipLamp i s).ctu = s.ctu ∧
    (computeClipLamp i s).fl = s.fl ∧
    (computeClipLamp i s).ls = s.ls ∧
    (computeClipLamp i s).ve = s.ve ∧
    (computeClipLamp i s).sh = s.sh ∧
    (computeClipLamp i s).pu = s.pu ∧
    (computeClipLamp i s).time = s.time ∧
    (computeClipLamp i s).free = s.free := by
  unfold computeClipLamp
  (repeat' split) <;> simp

@[simp] theorem computeLamps_frame (ks : List Nat) (s : State) :
    (computeLamps ks s).pending = s.pending ∧
    (computeLamps ks s).tu.cpBase = s.tu.cpBase ∧
    (computeLamps ks s).tu.book = s.tu.book ∧
    (computeLamps ks s).su = s.su ∧
    (computeLamps ks s).fiu = s.fiu ∧
    (computeLamps ks s).ctu = s.ctu ∧
    (computeLamps ks s).fl = s.fl ∧
    (computeLamps ks s).ls = s.ls ∧
    (computeLamps ks s).ve = s.ve ∧
    (computeLamps ks s).sh = s.sh ∧
    (computeLamps ks s).pu = s.pu ∧
    (computeLamps ks s).time = s.time ∧
    (computeLamps ks s).free = s.free := by
  unfold computeLamps
  exact ⟨(foldl_keeps (·.pending) _ (fun _ _ => by simp) _ _),
    (foldl_keeps (·.tu.cpBase) _ (fun _ _ => by simp) _ _),
    (foldl_keeps (·.tu.book) _ (fun _ _ => by simp) _ _),
    (foldl_keeps (·.su) _ (fun _ _ => by simp) _ _),
    (foldl_keeps (·.fiu) _ (fun _ _ => by simp) _ _),
    (foldl_keeps (·.ctu) _ (fun _ _ => by simp) _ _),
    (foldl_keeps (·.fl) _ (fun _ _ => by simp) _ _),
    (foldl_keeps (·.ls) _ (fun _ _ => by simp) _ _),
    (foldl_keeps (·.ve) _ (fun _ _ => by simp) _ _),
    (foldl_keeps (·.sh) _ (fun _ _ => by simp) _ _),
    (foldl_keeps (·.pu) _ (fun _ _ => by simp) _ _),
    (foldl_keeps (·.time) _ (fun _ _ => by simp) _ _),
    (foldl_keeps (·.free) _ (fun _ _ => by simp) _ _)⟩

@[simp] theorem takeFaultId_frame  (s : State) :
    (takeFaultId s).pending = s.pending ∧
    (takeFaultId s).tu.cpBase = s.tu.cpBase ∧
    (takeFaultId s).tu.book = s.tu.book ∧
    (takeFaultId s).su = s.su ∧
    (takeFaultId s).ct = s.ct ∧
    (takeFaultId s).fiu = s.fiu ∧
    (takeFaultId s).ctu = s.ctu ∧
    (takeFaultId s).ls = s.ls ∧
    (takeFaultId s).ve = s.ve ∧
    (takeFaultId s).sh = s.sh ∧
    (takeFaultId s).pu = s.pu ∧
    (takeFaultId s).time = s.time ∧
    (takeFaultId s).free = s.free := by
  exact ⟨rfl, rfl, rfl, rfl, rfl, rfl, rfl, rfl, rfl, rfl, rfl, rfl, rfl⟩

@[simp] theorem countFault_frame (f : Finding) (s : State) :
    (countFault f s).pending = s.pending ∧
    (countFault f s).tu.cpBase = s.tu.cpBase ∧
    (countFault f s).tu.book = s.tu.book ∧
    (countFault f s).su = s.su ∧
    (countFault f s).fiu = s.fiu ∧
    (countFault f s).ctu = s.ctu ∧
    (countFault f s).fl = s.fl ∧
    (countFault f s).ls = s.ls ∧
    (countFault f s).ve = s.ve ∧
    (countFault f s).sh = s.sh ∧
    (countFault f s).pu = s.pu ∧
    (countFault f s).time = s.time ∧
    (countFault f s).free = s.free := by
  unfold countFault
  (repeat' split) <;> simp

@[simp] theorem storeFault_frame (r : FaultRecord) (s : State) :
    (storeFault r s).pending = s.pending ∧
    (storeFault r s).tu.cpBase = s.tu.cpBase ∧
    (storeFault r s).tu.book = s.tu.book ∧
    (storeFault r s).su = s.su ∧
    (storeFault r s).ct = s.ct ∧
    (storeFault r s).fiu = s.fiu ∧
    (storeFault r s).ctu = s.ctu ∧
    (storeFault r s).ls = s.ls ∧
    (storeFault r s).ve = s.ve ∧
    (storeFault r s).sh = s.sh ∧
    (storeFault r s).pu = s.pu ∧
    (storeFault r s).time = s.time ∧
    (storeFault r s).free = s.free := by
  exact ⟨rfl, rfl, rfl, rfl, rfl, rfl, rfl, rfl, rfl, rfl, rfl, rfl, rfl⟩

@[simp] theorem reportFault_frame (f : Finding) (s : State) :
    (reportFault f s).pending = s.pending ∧
    (reportFault f s).tu.cpBase = s.tu.cpBase ∧
    (reportFault f s).tu.book = s.tu.book ∧
    (reportFault f s).su = s.su ∧
    (reportFault f s).fiu = s.fiu ∧
    (reportFault f s).ctu = s.ctu ∧
    (reportFault f s).ls = s.ls ∧
    (reportFault f s).ve = s.ve ∧
    (reportFault f s).sh = s.sh ∧
    (reportFault f s).pu = s.pu ∧
    (reportFault f s).time = s.time ∧
    (reportFault f s).free = s.free := by
  unfold reportFault
  simp

@[simp] theorem raiseFault_frame (b : Bool) (f : Finding) (s : State) :
    (raiseFault b f s).pending = s.pending ∧
    (raiseFault b f s).tu.cpBase = s.tu.cpBase ∧
    (raiseFault b f s).tu.book = s.tu.book ∧
    (raiseFault b f s).su = s.su ∧
    (raiseFault b f s).fiu = s.fiu ∧
    (raiseFault b f s).ctu = s.ctu ∧
    (raiseFault b f s).ls = s.ls ∧
    (raiseFault b f s).ve = s.ve ∧
    (raiseFault b f s).sh = s.sh ∧
    (raiseFault b f s).pu = s.pu ∧
    (raiseFault b f s).time = s.time ∧
    (raiseFault b f s).free = s.free := by
  unfold raiseFault
  dsimp only
  (repeat' split) <;> simp

@[simp] theorem subtractCrit_frame (c : Option Nat) (s : State) :
    (subtractCrit c s).pending = s.pending ∧
    (subtractCrit c s).tu.cpBase = s.tu.cpBase ∧
    (subtractCrit c s).tu.book = s.tu.book ∧
    (subtractCrit c s).su = s.su ∧
    (subtractCrit c s).fiu = s.fiu ∧
    (subtractCrit c s).ctu = s.ctu ∧
    (subtractCrit c s).fl = s.fl ∧
    (subtractCrit c s).ls = s.ls ∧
    (subtractCrit c s).ve = s.ve ∧
    (subtractCrit c s).sh = s.sh ∧
    (subtractCrit c s).pu = s.pu ∧
    (subtractCrit c s).time = s.time ∧
    (subtractCrit c s).free = s.free := by
  unfold subtractCrit
  (repeat' split) <;> simp

@[simp] theorem ackRecords_frame (p : FaultRecord → Bool) (s : State) :
    (ackRecords p s).pending = s.pending ∧
    (ackRecords p s).tu.cpBase = s.tu.cpBase ∧
    (ackRecords p s).tu.book = s.tu.book ∧
    (ackRecords p s).su = s.su ∧
    (ackRecords p s).ct = s.ct ∧
    (ackRecords p s).fiu = s.fiu ∧
    (ackRecords p s).ctu = s.ctu ∧
    (ackRecords p s).ls = s.ls ∧
    (ackRecords p s).ve = s.ve ∧
    (ackRecords p s).sh = s.sh ∧
    (ackRecords p s).pu = s.pu ∧
    (ackRecords p s).time = s.time ∧
    (ackRecords p s).free = s.free := by
  exact ⟨rfl, rfl, rfl, rfl, rfl, rfl, rfl, rfl, rfl, rfl, rfl, rfl, rfl⟩

@[simp] theorem faultAckAct_frame (id : Nat) (s : State) :
    (faultAckAct id s).1.pending = s.pending ∧
    (faultAckAct id s).1.tu.cpBase = s.tu.cpBase ∧
    (faultAckAct id s).1.tu.book = s.tu.book ∧
    (faultAckAct id s).1.su = s.su ∧
    (faultAckAct id s).1.fiu = s.fiu ∧
    (faultAckAct id s).1.ctu = s.ctu ∧
    (faultAckAct id s).1.ls = s.ls ∧
    (faultAckAct id s).1.ve = s.ve ∧
    (faultAckAct id s).1.sh = s.sh ∧
    (faultAckAct id s).1.pu = s.pu ∧
    (faultAckAct id s).1.time = s.time ∧
    (faultAckAct id s).1.free = s.free := by
  unfold faultAckAct
  dsimp only [refuse]
  (repeat' split) <;> simp

@[simp] theorem clipFaultsAckAct_frame (c : Nat) (s : State) :
    (clipFaultsAckAct c s).1.pending = s.pending ∧
    (clipFaultsAckAct c s).1.tu.cpBase = s.tu.cpBase ∧
    (clipFaultsAckAct c s).1.tu.book = s.tu.book ∧
    (clipFaultsAckAct c s).1.su = s.su ∧
    (clipFaultsAckAct c s).1.fiu = s.fiu ∧
    (clipFaultsAckAct c s).1.ctu = s.ctu ∧
    (clipFaultsAckAct c s).1.ls = s.ls ∧
    (clipFaultsAckAct c s).1.ve = s.ve ∧
    (clipFaultsAckAct c s).1.sh = s.sh ∧
    (clipFaultsAckAct c s).1.pu = s.pu ∧
    (clipFaultsAckAct c s).1.time = s.time ∧
    (clipFaultsAckAct c s).1.free = s.free := by
  unfold clipFaultsAckAct
  dsimp only [refuse]
  (repeat' split) <;> simp

@[simp] theorem ackFrame_frame (c n : Nat) (s : State) :
    (ackFrame c n s).1.pending = s.pending ∧
    (ackFrame c n s).1.tu.cpBase = s.tu.cpBase ∧
    (ackFrame c n s).1.tu.book = s.tu.book ∧
    (ackFrame c n s).1.su = s.su ∧
    (ackFrame c n s).1.fiu = s.fiu ∧
    (ackFrame c n s).1.ctu = s.ctu ∧
    (ackFrame c n s).1.ls = s.ls ∧
    (ackFrame c n s).1.ve = s.ve ∧
    (ackFrame c n s).1.sh = s.sh ∧
    (ackFrame c n s).1.pu = s.pu ∧
    (ackFrame c n s).1.time = s.time ∧
    (ackFrame c n s).1.free = s.free := by
  unfold ackFrame
  dsimp only
  simp only [computeLamps_frame]
  exact ⟨(foldl_keeps (·.pending) _ (fun _ _ => by simp) _ _).trans (by simp),
    (foldl_keeps (·.tu.cpBase) _ (fun _ _ => by simp) _ _).trans (by simp),
    (foldl_keeps (·.tu.book) _ (fun _ _ => by simp) _ _).trans (by simp),
    (foldl_keeps (·.su) _ (fun _ _ => by simp) _ _).trans (by simp),
    (foldl_keeps (·.fiu) _ (fun _ _ => by simp) _ _).trans (by simp),
    (foldl_keeps (·.ctu) _ (fun _ _ => by simp) _ _).trans (by simp),
    (foldl_keeps (·.ls) _ (fun _ _ => by simp) _ _).trans (by simp),
    (foldl_keeps (·.ve) _ (fun _ _ => by simp) _ _).trans (by simp),
    (foldl_keeps (·.sh) _ (fun _ _ => by simp) _ _).trans (by simp),
    (foldl_keeps (·.pu) _ (fun _ _ => by simp) _ _).trans (by simp),
    (foldl_keeps (·.time) _ (fun _ _ => by simp) _ _).trans (by simp),
    (foldl_keeps (·.free) _ (fun _ _ => by simp) _ _).trans (by simp)⟩

@[simp] theorem markRetired_frame (c : Nat) (s : State) :
    (markRetired c s).pending = s.pending ∧
    (markRetired c s).tu.cpBase = s.tu.cpBase ∧
    (markRetired c s).tu.book = s.tu.book ∧
    (markRetired c s).su = s.su ∧
    (markRetired c s).ct = s.ct ∧
    (markRetired c s).fiu = s.fiu ∧
    (markRetired c s).ctu = s.ctu ∧
    (markRetired c s).ls = s.ls ∧
    (markRetired c s).ve = s.ve ∧
    (markRetired c s).sh = s.sh ∧
    (markRetired c s).pu = s.pu ∧
    (markRetired c s).time = s.time ∧
    (markRetired c s).free = s.free := by
  exact ⟨rfl, rfl, rfl, rfl, rfl, rfl, rfl, rfl, rfl, rfl, rfl, rfl, rfl⟩

/-! ### Clips -/

@[simp] theorem reportClip_frame (i : Nat) (o : Option ClipState) (c : ClipCause) (s : State) :
    (reportClip i o c s).pending = s.pending ∧
    (reportClip i o c s).tu.cpBase = s.tu.cpBase ∧
    (reportClip i o c s).tu.book = s.tu.book ∧
    (reportClip i o c s).su = s.su ∧
    (reportClip i o c s).ct = s.ct ∧
    (reportClip i o c s).fiu = s.fiu ∧
    (reportClip i o c s).ctu = s.ctu ∧
    (reportClip i o c s).fl = s.fl ∧
    (reportClip i o c s).ls = s.ls ∧
    (reportClip i o c s).ve = s.ve ∧
    (reportClip i o c s).sh = s.sh ∧
    (reportClip i o c s).pu = s.pu ∧
    (reportClip i o c s).time = s.time ∧
    (reportClip i o c s).free = s.free := by
  unfold reportClip
  (repeat' split) <;> simp

@[simp] theorem countFrame_frame (c : Option Nat) (l : Nat) (s : State) :
    (countFrame c l s).pending = s.pending ∧
    (countFrame c l s).tu.cpBase = s.tu.cpBase ∧
    (countFrame c l s).tu.book = s.tu.book ∧
    (countFrame c l s).su = s.su ∧
    (countFrame c l s).fiu = s.fiu ∧
    (countFrame c l s).ctu = s.ctu ∧
    (countFrame c l s).fl = s.fl ∧
    (countFrame c l s).ls = s.ls ∧
    (countFrame c l s).ve = s.ve ∧
    (countFrame c l s).sh = s.sh ∧
    (countFrame c l s).pu = s.pu ∧
    (countFrame c l s).time = s.time ∧
    (countFrame c l s).free = s.free := by
  unfold countFrame
  (repeat' split) <;> simp

@[simp] theorem sourceOpened_frame (i : Nat) (s : State) :
    (sourceOpened i s).pending = s.pending ∧
    (sourceOpened i s).tu.cpBase = s.tu.cpBase ∧
    (sourceOpened i s).tu.book = s.tu.book ∧
    (sourceOpened i s).su = s.su ∧
    (sourceOpened i s).fiu = s.fiu ∧
    (sourceOpened i s).ctu = s.ctu ∧
    (sourceOpened i s).fl = s.fl ∧
    (sourceOpened i s).ls = s.ls ∧
    (sourceOpened i s).ve = s.ve ∧
    (sourceOpened i s).sh = s.sh ∧
    (sourceOpened i s).pu = s.pu ∧
    (sourceOpened i s).time = s.time ∧
    (sourceOpened i s).free = s.free := by
  unfold sourceOpened
  (repeat' split) <;> simp

@[simp] theorem destOpened_frame (i d : Nat) (s : State) :
    (destOpened i d s).pending = s.pending ∧
    (destOpened i d s).tu.cpBase = s.tu.cpBase ∧
    (destOpened i d s).tu.book = s.tu.book ∧
    (destOpened i d s).su = s.su ∧
    (destOpened i d s).fiu = s.fiu ∧
    (destOpened i d s).ctu = s.ctu ∧
    (destOpened i d s).fl = s.fl ∧
    (destOpened i d s).ls = s.ls ∧
    (destOpened i d s).ve = s.ve ∧
    (destOpened i d s).sh = s.sh ∧
    (destOpened i d s).pu = s.pu ∧
    (destOpened i d s).time = s.time ∧
    (destOpened i d s).free = s.free := by
  unfold destOpened
  (repeat' split) <;> simp

@[simp] theorem raiseMismatches_frame (i : Nat) (ds : List Nat) (s : State) :
    (raiseMismatches i ds s).pending = s.pending ∧
    (raiseMismatches i ds s).tu.cpBase = s.tu.cpBase ∧
    (raiseMismatches i ds s).tu.book = s.tu.book ∧
    (raiseMismatches i ds s).su = s.su ∧
    (raiseMismatches i ds s).fiu = s.fiu ∧
    (raiseMismatches i ds s).ctu = s.ctu ∧
    (raiseMismatches i ds s).ls = s.ls ∧
    (raiseMismatches i ds s).ve = s.ve ∧
    (raiseMismatches i ds s).sh = s.sh ∧
    (raiseMismatches i ds s).pu = s.pu ∧
    (raiseMismatches i ds s).time = s.time ∧
    (raiseMismatches i ds s).free = s.free := by
  unfold raiseMismatches
  exact ⟨(foldl_keeps (·.pending) _ (fun _ _ => by simp) _ _),
    (foldl_keeps (·.tu.cpBase) _ (fun _ _ => by simp) _ _),
    (foldl_keeps (·.tu.book) _ (fun _ _ => by simp) _ _),
    (foldl_keeps (·.su) _ (fun _ _ => by simp) _ _),
    (foldl_keeps (·.fiu) _ (fun _ _ => by simp) _ _),
    (foldl_keeps (·.ctu) _ (fun _ _ => by simp) _ _),
    (foldl_keeps (·.ls) _ (fun _ _ => by simp) _ _),
    (foldl_keeps (·.ve) _ (fun _ _ => by simp) _ _),
    (foldl_keeps (·.sh) _ (fun _ _ => by simp) _ _),
    (foldl_keeps (·.pu) _ (fun _ _ => by simp) _ _),
    (foldl_keeps (·.time) _ (fun _ _ => by simp) _ _),
    (foldl_keeps (·.free) _ (fun _ _ => by simp) _ _)⟩

@[simp] theorem verifyIfEnough_frame (i : Nat) (s : State) :
    (verifyIfEnough i s).pending = s.pending ∧
    (verifyIfEnough i s).tu.cpBase = s.tu.cpBase ∧
    (verifyIfEnough i s).tu.book = s.tu.book ∧
    (verifyIfEnough i s).su = s.su ∧
    (verifyIfEnough i s).fiu = s.fiu ∧
    (verifyIfEnough i s).ctu = s.ctu ∧
    (verifyIfEnough i s).fl = s.fl ∧
    (verifyIfEnough i s).ls = s.ls ∧
    (verifyIfEnough i s).ve = s.ve ∧
    (verifyIfEnough i s).sh = s.sh ∧
    (verifyIfEnough i s).pu = s.pu ∧
    (verifyIfEnough i s).time = s.time ∧
    (verifyIfEnough i s).free = s.free := by
  unfold verifyIfEnough
  (repeat' split) <;> simp

@[simp] theorem sourceGood_frame (i : Nat) (fp : Fingerprint) (s : State) :
    (sourceGood i fp s).pending = s.pending ∧
    (sourceGood i fp s).tu.cpBase = s.tu.cpBase ∧
    (sourceGood i fp s).tu.book = s.tu.book ∧
    (sourceGood i fp s).su = s.su ∧
    (sourceGood i fp s).fiu = s.fiu ∧
    (sourceGood i fp s).ctu = s.ctu ∧
    (sourceGood i fp s).ls = s.ls ∧
    (sourceGood i fp s).ve = s.ve ∧
    (sourceGood i fp s).sh = s.sh ∧
    (sourceGood i fp s).pu = s.pu ∧
    (sourceGood i fp s).time = s.time ∧
    (sourceGood i fp s).free = s.free := by
  unfold sourceGood
  dsimp only
  (repeat' split) <;> simp

@[simp] theorem sourceFailed_frame (i k : Nat) (p : Option Nat) (s : State) :
    (sourceFailed i k p s).pending = s.pending ∧
    (sourceFailed i k p s).tu.cpBase = s.tu.cpBase ∧
    (sourceFailed i k p s).tu.book = s.tu.book ∧
    (sourceFailed i k p s).su = s.su ∧
    (sourceFailed i k p s).fiu = s.fiu ∧
    (sourceFailed i k p s).ctu = s.ctu ∧
    (sourceFailed i k p s).ls = s.ls ∧
    (sourceFailed i k p s).ve = s.ve ∧
    (sourceFailed i k p s).sh = s.sh ∧
    (sourceFailed i k p s).pu = s.pu ∧
    (sourceFailed i k p s).time = s.time ∧
    (sourceFailed i k p s).free = s.free := by
  unfold sourceFailed
  dsimp only
  (repeat' split) <;> simp

@[simp] theorem compareDest_frame (i : Nat) (c : Clip) (d : Nat) (fp : Fingerprint) (s : State) :
    (compareDest i c d fp s).pending = s.pending ∧
    (compareDest i c d fp s).tu.cpBase = s.tu.cpBase ∧
    (compareDest i c d fp s).tu.book = s.tu.book ∧
    (compareDest i c d fp s).su = s.su ∧
    (compareDest i c d fp s).fiu = s.fiu ∧
    (compareDest i c d fp s).ctu = s.ctu ∧
    (compareDest i c d fp s).ls = s.ls ∧
    (compareDest i c d fp s).ve = s.ve ∧
    (compareDest i c d fp s).sh = s.sh ∧
    (compareDest i c d fp s).pu = s.pu ∧
    (compareDest i c d fp s).time = s.time ∧
    (compareDest i c d fp s).free = s.free := by
  unfold compareDest
  dsimp only
  (repeat' split) <;> simp

@[simp] theorem destGood_frame (i d : Nat) (fp : Fingerprint) (s : State) :
    (destGood i d fp s).pending = s.pending ∧
    (destGood i d fp s).tu.cpBase = s.tu.cpBase ∧
    (destGood i d fp s).tu.book = s.tu.book ∧
    (destGood i d fp s).su = s.su ∧
    (destGood i d fp s).fiu = s.fiu ∧
    (destGood i d fp s).ctu = s.ctu ∧
    (destGood i d fp s).ls = s.ls ∧
    (destGood i d fp s).ve = s.ve ∧
    (destGood i d fp s).sh = s.sh ∧
    (destGood i d fp s).pu = s.pu ∧
    (destGood i d fp s).time = s.time ∧
    (destGood i d fp s).free = s.free := by
  unfold destGood
  (repeat' split) <;> simp

@[simp] theorem destFailed_frame (i d : Nat) (s : State) :
    (destFailed i d s).pending = s.pending ∧
    (destFailed i d s).tu.cpBase = s.tu.cpBase ∧
    (destFailed i d s).tu.book = s.tu.book ∧
    (destFailed i d s).su = s.su ∧
    (destFailed i d s).fiu = s.fiu ∧
    (destFailed i d s).ctu = s.ctu ∧
    (destFailed i d s).fl = s.fl ∧
    (destFailed i d s).ls = s.ls ∧
    (destFailed i d s).ve = s.ve ∧
    (destFailed i d s).sh = s.sh ∧
    (destFailed i d s).pu = s.pu ∧
    (destFailed i d s).time = s.time ∧
    (destFailed i d s).free = s.free := by
  unfold destFailed
  dsimp only
  (repeat' split) <;> simp

@[simp] theorem clipOpenAct_frame (label slot camera required : Nat) (s : State) :
    (clipOpenAct label slot camera required s).1.pending = s.pending ∧
    (clipOpenAct label slot camera required s).1.tu.cpBase = s.tu.cpBase ∧
    (clipOpenAct label slot camera required s).1.tu.book = s.tu.book ∧
    (clipOpenAct label slot camera required s).1.su = s.su ∧
    (clipOpenAct label slot camera required s).1.fiu = s.fiu ∧
    (clipOpenAct label slot camera required s).1.ctu = s.ctu ∧
    (clipOpenAct label slot camera required s).1.fl = s.fl ∧
    (clipOpenAct label slot camera required s).1.ls = s.ls ∧
    (clipOpenAct label slot camera required s).1.ve = s.ve ∧
    (clipOpenAct label slot camera required s).1.sh = s.sh ∧
    (clipOpenAct label slot camera required s).1.pu = s.pu ∧
    (clipOpenAct label slot camera required s).1.time = s.time ∧
    (clipOpenAct label slot camera required s).1.free = s.free := by
  unfold clipOpenAct
  dsimp only [refuse]
  (repeat' split) <;> simp

@[simp] theorem forgetClip_frame (i : Nat) (s : State) :
    (forgetClip i s).pending = s.pending ∧
    (forgetClip i s).tu.cpBase = s.tu.cpBase ∧
    (forgetClip i s).tu.book = s.tu.book ∧
    (forgetClip i s).ct = s.ct ∧
    (forgetClip i s).fiu = s.fiu ∧
    (forgetClip i s).ctu = s.ctu ∧
    (forgetClip i s).fl = s.fl ∧
    (forgetClip i s).ls = s.ls ∧
    (forgetClip i s).ve = s.ve ∧
    (forgetClip i s).sh = s.sh ∧
    (forgetClip i s).pu = s.pu ∧
    (forgetClip i s).time = s.time ∧
    (forgetClip i s).free = s.free := by
  exact ⟨rfl, rfl, rfl, rfl, rfl, rfl, rfl, rfl, rfl, rfl, rfl, rfl, rfl⟩

@[simp] theorem retireClip_frame (i : Nat) (c : Clip) (s : State) :
    (retireClip i c s).pending = s.pending ∧
    (retireClip i c s).tu.cpBase = s.tu.cpBase ∧
    (retireClip i c s).tu.book = s.tu.book ∧
    (retireClip i c s).fiu = s.fiu ∧
    (retireClip i c s).ctu = s.ctu ∧
    (retireClip i c s).ls = s.ls ∧
    (retireClip i c s).ve = s.ve ∧
    (retireClip i c s).sh = s.sh ∧
    (retireClip i c s).pu = s.pu ∧
    (retireClip i c s).time = s.time ∧
    (retireClip i c s).free = s.free := by
  unfold retireClip
  dsimp only
  simp

@[simp] theorem clipRetireAct_frame (i : Nat) (s : State) :
    (clipRetireAct i s).1.pending = s.pending ∧
    (clipRetireAct i s).1.tu.cpBase = s.tu.cpBase ∧
    (clipRetireAct i s).1.tu.book = s.tu.book ∧
    (clipRetireAct i s).1.fiu = s.fiu ∧
    (clipRetireAct i s).1.ctu = s.ctu ∧
    (clipRetireAct i s).1.ls = s.ls ∧
    (clipRetireAct i s).1.ve = s.ve ∧
    (clipRetireAct i s).1.sh = s.sh ∧
    (clipRetireAct i s).1.pu = s.pu ∧
    (clipRetireAct i s).1.time = s.time ∧
    (clipRetireAct i s).1.free = s.free := by
  unfold clipRetireAct
  dsimp only [refuse]
  (repeat' split) <;> simp

/-! ### Streams -/

@[simp] theorem handToClip_frame (id : Nat) (e : Stream) (o : StreamOutcome) (p : Option Nat) (s : State) :
    (handToClip id e o p s).pending = s.pending ∧
    (handToClip id e o p s).tu.cpBase = s.tu.cpBase ∧
    (handToClip id e o p s).tu.book = s.tu.book ∧
    (handToClip id e o p s).su = s.su ∧
    (handToClip id e o p s).fiu = s.fiu ∧
    (handToClip id e o p s).ctu = s.ctu ∧
    (handToClip id e o p s).ls = s.ls ∧
    (handToClip id e o p s).ve = s.ve ∧
    (handToClip id e o p s).sh = s.sh ∧
    (handToClip id e o p s).pu = s.pu ∧
    (handToClip id e o p s).time = s.time ∧
    (handToClip id e o p s).free = s.free := by
  unfold handToClip
  (repeat' split) <;> simp

@[simp] theorem keepNote_frame (id : Nat) (e : Stream) (o : StreamOutcome) (s : State) :
    (keepNote id e o s).pending = s.pending ∧
    (keepNote id e o s).tu.cpBase = s.tu.cpBase ∧
    (keepNote id e o s).tu.book = s.tu.book ∧
    (keepNote id e o s).ct = s.ct ∧
    (keepNote id e o s).fiu = s.fiu ∧
    (keepNote id e o s).ctu = s.ctu ∧
    (keepNote id e o s).fl = s.fl ∧
    (keepNote id e o s).ls = s.ls ∧
    (keepNote id e o s).ve = s.ve ∧
    (keepNote id e o s).sh = s.sh ∧
    (keepNote id e o s).pu = s.pu ∧
    (keepNote id e o s).time = s.time ∧
    (keepNote id e o s).free = s.free := by
  unfold keepNote
  (repeat' split) <;> simp

@[simp] theorem endStream_frame (id : Nat) (o : StreamOutcome) (a p : Option Nat) (s : State) :
    (endStream id o a p s).pending = s.pending ∧
    (endStream id o a p s).tu.cpBase = s.tu.cpBase ∧
    (endStream id o a p s).tu.book = s.tu.book ∧
    (endStream id o a p s).fiu = s.fiu ∧
    (endStream id o a p s).ctu = s.ctu ∧
    (endStream id o a p s).ls = s.ls ∧
    (endStream id o a p s).ve = s.ve ∧
    (endStream id o a p s).sh = s.sh ∧
    (endStream id o a p s).pu = s.pu ∧
    (endStream id o a p s).time = s.time ∧
    (endStream id o a p s).free = s.free := by
  unfold endStream
  (repeat' split) <;> simp

@[simp] theorem streamBeat_frame (id a : Nat) (d : BeatData) (st : Strobes) (m : List Mark) (s : State) :
    (streamBeat id a d st m s).1.pending = s.pending ∧
    (streamBeat id a d st m s).1.tu.cpBase = s.tu.cpBase ∧
    (streamBeat id a d st m s).1.tu.book = s.tu.book ∧
    (streamBeat id a d st m s).1.fiu = s.fiu ∧
    (streamBeat id a d st m s).1.ctu = s.ctu ∧
    (streamBeat id a d st m s).1.ls = s.ls ∧
    (streamBeat id a d st m s).1.ve = s.ve ∧
    (streamBeat id a d st m s).1.sh = s.sh ∧
    (streamBeat id a d st m s).1.pu = s.pu ∧
    (streamBeat id a d st m s).1.time = s.time ∧
    (streamBeat id a d st m s).1.free = s.free := by
  unfold streamBeat
  dsimp only
  (repeat' split) <;> simp

@[simp] theorem untappedStreams_frame (r : Request) (s : State) :
    (untappedStreams r s).pending = s.pending ∧
    (untappedStreams r s).tu.cpBase = s.tu.cpBase ∧
    (untappedStreams r s).tu.book = s.tu.book ∧
    (untappedStreams r s).fiu = s.fiu ∧
    (untappedStreams r s).ctu = s.ctu ∧
    (untappedStreams r s).ls = s.ls ∧
    (untappedStreams r s).ve = s.ve ∧
    (untappedStreams r s).sh = s.sh ∧
    (untappedStreams r s).pu = s.pu ∧
    (untappedStreams r s).time = s.time := by
  unfold untappedStreams
  dsimp only
  exact ⟨(foldl_keeps (·.pending) _ (fun _ _ => by simp) _ _).trans (by simp),
    (foldl_keeps (·.tu.cpBase) _ (fun _ _ => by simp) _ _).trans (by simp),
    (foldl_keeps (·.tu.book) _ (fun _ _ => by simp) _ _).trans (by simp),
    (foldl_keeps (·.fiu) _ (fun _ _ => by simp) _ _).trans (by simp),
    (foldl_keeps (·.ctu) _ (fun _ _ => by simp) _ _).trans (by simp),
    (foldl_keeps (·.ls) _ (fun _ _ => by simp) _ _).trans (by simp),
    (foldl_keeps (·.ve) _ (fun _ _ => by simp) _ _).trans (by simp),
    (foldl_keeps (·.sh) _ (fun _ _ => by simp) _ _).trans (by simp),
    (foldl_keeps (·.pu) _ (fun _ _ => by simp) _ _).trans (by simp),
    (foldl_keeps (·.time) _ (fun _ _ => by simp) _ _).trans (by simp)⟩

@[simp] theorem noteResponse_frame (n : Nat) (ok : Bool) (s : State) :
    (noteResponse n ok s).pending = s.pending ∧
    (noteResponse n ok s).tu.cpBase = s.tu.cpBase ∧
    (noteResponse n ok s).tu.book = s.tu.book ∧
    (noteResponse n ok s).fiu = s.fiu ∧
    (noteResponse n ok s).ctu = s.ctu ∧
    (noteResponse n ok s).ls = s.ls ∧
    (noteResponse n ok s).ve = s.ve ∧
    (noteResponse n ok s).sh = s.sh ∧
    (noteResponse n ok s).pu = s.pu ∧
    (noteResponse n ok s).time = s.time ∧
    (noteResponse n ok s).free = s.free := by
  unfold noteResponse
  dsimp only
  (repeat' split) <;> simp

@[simp] theorem streamResponse_frame (n : Nat) (ok : Bool) (s : State) :
    (streamResponse n ok s).pending = s.pending ∧
    (streamResponse n ok s).tu.cpBase = s.tu.cpBase ∧
    (streamResponse n ok s).tu.book = s.tu.book ∧
    (streamResponse n ok s).fiu = s.fiu ∧
    (streamResponse n ok s).ctu = s.ctu ∧
    (streamResponse n ok s).ls = s.ls ∧
    (streamResponse n ok s).ve = s.ve ∧
    (streamResponse n ok s).sh = s.sh ∧
    (streamResponse n ok s).pu = s.pu ∧
    (streamResponse n ok s).time = s.time ∧
    (streamResponse n ok s).free = s.free := by
  unfold streamResponse
  dsimp only
  (repeat' split) <;> simp

@[simp] theorem openStream_frame (id : Nat) (e : Stream) (s : State) :
    (openStream id e s).pending = s.pending ∧
    (openStream id e s).tu.cpBase = s.tu.cpBase ∧
    (openStream id e s).tu.book = s.tu.book ∧
    (openStream id e s).fiu = s.fiu ∧
    (openStream id e s).ctu = s.ctu ∧
    (openStream id e s).fl = s.fl ∧
    (openStream id e s).ls = s.ls ∧
    (openStream id e s).ve = s.ve ∧
    (openStream id e s).sh = s.sh ∧
    (openStream id e s).pu = s.pu ∧
    (openStream id e s).time = s.time ∧
    (openStream id e s).free = s.free := by
  unfold openStream
  dsimp only
  (repeat' split) <;> simp

@[simp] theorem streamOpenAct_frame (c r d b l x : Nat) (s : State) :
    (streamOpenAct c r d b l x s).1.pending = s.pending ∧
    (streamOpenAct c r d b l x s).1.tu.cpBase = s.tu.cpBase ∧
    (streamOpenAct c r d b l x s).1.tu.book = s.tu.book ∧
    (streamOpenAct c r d b l x s).1.fiu = s.fiu ∧
    (streamOpenAct c r d b l x s).1.ctu = s.ctu ∧
    (streamOpenAct c r d b l x s).1.fl = s.fl ∧
    (streamOpenAct c r d b l x s).1.ls = s.ls ∧
    (streamOpenAct c r d b l x s).1.ve = s.ve ∧
    (streamOpenAct c r d b l x s).1.sh = s.sh ∧
    (streamOpenAct c r d b l x s).1.pu = s.pu ∧
    (streamOpenAct c r d b l x s).1.time = s.time ∧
    (streamOpenAct c r d b l x s).1.free = s.free := by
  unfold streamOpenAct
  dsimp only [refuse]
  (repeat' split) <;> simp

@[simp] theorem streamCloseAct_frame (i n : Nat) (s : State) :
    (streamCloseAct i n s).1.pending = s.pending ∧
    (streamCloseAct i n s).1.tu.cpBase = s.tu.cpBase ∧
    (streamCloseAct i n s).1.tu.book = s.tu.book ∧
    (streamCloseAct i n s).1.fiu = s.fiu ∧
    (streamCloseAct i n s).1.ctu = s.ctu ∧
    (streamCloseAct i n s).1.ls = s.ls ∧
    (streamCloseAct i n s).1.ve = s.ve ∧
    (streamCloseAct i n s).1.sh = s.sh ∧
    (streamCloseAct i n s).1.pu = s.pu ∧
    (streamCloseAct i n s).1.time = s.time ∧
    (streamCloseAct i n s).1.free = s.free := by
  unfold streamCloseAct
  dsimp only [refuse]
  (repeat' split) <;> simp

@[simp] theorem streamAbortAct_frame (i : Nat) (s : State) :
    (streamAbortAct i s).1.pending = s.pending ∧
    (streamAbortAct i s).1.tu.cpBase = s.tu.cpBase ∧
    (streamAbortAct i s).1.tu.book = s.tu.book ∧
    (streamAbortAct i s).1.fiu = s.fiu ∧
    (streamAbortAct i s).1.ctu = s.ctu ∧
    (streamAbortAct i s).1.ls = s.ls ∧
    (streamAbortAct i s).1.ve = s.ve ∧
    (streamAbortAct i s).1.sh = s.sh ∧
    (streamAbortAct i s).1.pu = s.pu ∧
    (streamAbortAct i s).1.time = s.time ∧
    (streamAbortAct i s).1.free = s.free := by
  unfold streamAbortAct
  dsimp only [refuse]
  (repeat' split) <;> simp

/-! ### Cards and time -/

@[simp] theorem cardDetChange_frame (k : Nat) (b : Bool) (s : State) :
    (cardDetChange k b s).pending = s.pending ∧
    (cardDetChange k b s).tu.cpBase = s.tu.cpBase ∧
    (cardDetChange k b s).tu.book = s.tu.book ∧
    (cardDetChange k b s).su = s.su ∧
    (cardDetChange k b s).fiu = s.fiu ∧
    (cardDetChange k b s).ctu = s.ctu ∧
    (cardDetChange k b s).fl = s.fl ∧
    (cardDetChange k b s).ls = s.ls ∧
    (cardDetChange k b s).ve = s.ve ∧
    (cardDetChange k b s).sh = s.sh ∧
    (cardDetChange k b s).pu = s.pu ∧
    (cardDetChange k b s).time = s.time ∧
    (cardDetChange k b s).free = s.free := by
  exact ⟨rfl, rfl, rfl, rfl, rfl, rfl, rfl, rfl, rfl, rfl, rfl, rfl, rfl⟩

@[simp] theorem cardInsertion_frame (k : Nat) (s : State) :
    (cardInsertion k s).pending = s.pending ∧
    (cardInsertion k s).tu.cpBase = s.tu.cpBase ∧
    (cardInsertion k s).tu.book = s.tu.book ∧
    (cardInsertion k s).su = s.su ∧
    (cardInsertion k s).fiu = s.fiu ∧
    (cardInsertion k s).ctu = s.ctu ∧
    (cardInsertion k s).fl = s.fl ∧
    (cardInsertion k s).ls = s.ls ∧
    (cardInsertion k s).ve = s.ve ∧
    (cardInsertion k s).sh = s.sh ∧
    (cardInsertion k s).pu = s.pu ∧
    (cardInsertion k s).time = s.time ∧
    (cardInsertion k s).free = s.free := by
  unfold cardInsertion
  dsimp only
  (repeat' split) <;> simp

@[simp] theorem pullSources_frame (k : Nat) (s : State) :
    (pullSources k s).pending = s.pending ∧
    (pullSources k s).tu.cpBase = s.tu.cpBase ∧
    (pullSources k s).tu.book = s.tu.book ∧
    (pullSources k s).fiu = s.fiu ∧
    (pullSources k s).ctu = s.ctu ∧
    (pullSources k s).ls = s.ls ∧
    (pullSources k s).ve = s.ve ∧
    (pullSources k s).sh = s.sh ∧
    (pullSources k s).pu = s.pu ∧
    (pullSources k s).time = s.time ∧
    (pullSources k s).free = s.free := by
  unfold pullSources
  exact ⟨(foldl_keeps (·.pending) _ (fun _ _ => by simp) _ _),
    (foldl_keeps (·.tu.cpBase) _ (fun _ _ => by simp) _ _),
    (foldl_keeps (·.tu.book) _ (fun _ _ => by simp) _ _),
    (foldl_keeps (·.fiu) _ (fun _ _ => by simp) _ _),
    (foldl_keeps (·.ctu) _ (fun _ _ => by simp) _ _),
    (foldl_keeps (·.ls) _ (fun _ _ => by simp) _ _),
    (foldl_keeps (·.ve) _ (fun _ _ => by simp) _ _),
    (foldl_keeps (·.sh) _ (fun _ _ => by simp) _ _),
    (foldl_keeps (·.pu) _ (fun _ _ => by simp) _ _),
    (foldl_keeps (·.time) _ (fun _ _ => by simp) _ _),
    (foldl_keeps (·.free) _ (fun _ _ => by simp) _ _)⟩

@[simp] theorem cardRemoval_frame (k : Nat) (s : State) :
    (cardRemoval k s).pending = s.pending ∧
    (cardRemoval k s).tu.cpBase = s.tu.cpBase ∧
    (cardRemoval k s).tu.book = s.tu.book ∧
    (cardRemoval k s).fiu = s.fiu ∧
    (cardRemoval k s).ctu = s.ctu ∧
    (cardRemoval k s).ls = s.ls ∧
    (cardRemoval k s).ve = s.ve ∧
    (cardRemoval k s).sh = s.sh ∧
    (cardRemoval k s).pu = s.pu ∧
    (cardRemoval k s).time = s.time ∧
    (cardRemoval k s).free = s.free := by
  unfold cardRemoval
  dsimp only
  (repeat' split) <;> simp

@[simp] theorem timeBaseTick_frame  (s : State) :
    (timeBaseTick s).pending = s.pending ∧
    (timeBaseTick s).tu.cpBase = s.tu.cpBase ∧
    (timeBaseTick s).tu.book = s.tu.book ∧
    (timeBaseTick s).su = s.su ∧
    (timeBaseTick s).ct = s.ct ∧
    (timeBaseTick s).fiu = s.fiu ∧
    (timeBaseTick s).ctu = s.ctu ∧
    (timeBaseTick s).fl = s.fl ∧
    (timeBaseTick s).ls = s.ls ∧
    (timeBaseTick s).ve = s.ve ∧
    (timeBaseTick s).sh = s.sh ∧
    (timeBaseTick s).free = s.free := by
  exact ⟨rfl, rfl, rfl, rfl, rfl, rfl, rfl, rfl, rfl, rfl, rfl, rfl⟩

/-! ### Camera tracks -/

@[simp] theorem raiseFrame_frame (k : FaultKind) (f : FrameSlot) (d : Nat) (s : State) :
    (raiseFrame k f d s).pending = s.pending ∧
    (raiseFrame k f d s).tu.cpBase = s.tu.cpBase ∧
    (raiseFrame k f d s).tu.book = s.tu.book ∧
    (raiseFrame k f d s).su = s.su ∧
    (raiseFrame k f d s).fiu = s.fiu ∧
    (raiseFrame k f d s).ctu = s.ctu ∧
    (raiseFrame k f d s).ls = s.ls ∧
    (raiseFrame k f d s).ve = s.ve ∧
    (raiseFrame k f d s).sh = s.sh ∧
    (raiseFrame k f d s).pu = s.pu ∧
    (raiseFrame k f d s).time = s.time ∧
    (raiseFrame k f d s).free = s.free := by
  unfold raiseFrame
  simp

@[simp] theorem checkInvalid_frame (f : FrameSlot) (b : Nat) (s : State) :
    (checkInvalid f b s).pending = s.pending ∧
    (checkInvalid f b s).tu.cpBase = s.tu.cpBase ∧
    (checkInvalid f b s).tu.book = s.tu.book ∧
    (checkInvalid f b s).su = s.su ∧
    (checkInvalid f b s).fiu = s.fiu ∧
    (checkInvalid f b s).ctu = s.ctu ∧
    (checkInvalid f b s).ls = s.ls ∧
    (checkInvalid f b s).ve = s.ve ∧
    (checkInvalid f b s).sh = s.sh ∧
    (checkInvalid f b s).pu = s.pu ∧
    (checkInvalid f b s).time = s.time ∧
    (checkInvalid f b s).free = s.free := by
  unfold checkInvalid
  (repeat' split) <;> simp

@[simp] theorem checkNumber_frame (f : FrameSlot) (l : Nat) (s : State) :
    (checkNumber f l s).pending = s.pending ∧
    (checkNumber f l s).tu.cpBase = s.tu.cpBase ∧
    (checkNumber f l s).tu.book = s.tu.book ∧
    (checkNumber f l s).su = s.su ∧
    (checkNumber f l s).fiu = s.fiu ∧
    (checkNumber f l s).ctu = s.ctu ∧
    (checkNumber f l s).ls = s.ls ∧
    (checkNumber f l s).ve = s.ve ∧
    (checkNumber f l s).sh = s.sh ∧
    (checkNumber f l s).pu = s.pu ∧
    (checkNumber f l s).time = s.time ∧
    (checkNumber f l s).free = s.free := by
  unfold checkNumber
  (repeat' split) <;> simp

@[simp] theorem checkTimecode_frame (f : FrameSlot) (b l c : Nat) (s : State) :
    (checkTimecode f b l c s).pending = s.pending ∧
    (checkTimecode f b l c s).tu.cpBase = s.tu.cpBase ∧
    (checkTimecode f b l c s).tu.book = s.tu.book ∧
    (checkTimecode f b l c s).su = s.su ∧
    (checkTimecode f b l c s).fiu = s.fiu ∧
    (checkTimecode f b l c s).ctu = s.ctu ∧
    (checkTimecode f b l c s).ls = s.ls ∧
    (checkTimecode f b l c s).ve = s.ve ∧
    (checkTimecode f b l c s).sh = s.sh ∧
    (checkTimecode f b l c s).pu = s.pu ∧
    (checkTimecode f b l c s).time = s.time ∧
    (checkTimecode f b l c s).free = s.free := by
  unfold checkTimecode
  dsimp only
  (repeat' split) <;> simp

@[simp] theorem checkFrozen_frame (f : FrameSlot) (l g : Nat) (s : State) :
    (checkFrozen f l g s).pending = s.pending ∧
    (checkFrozen f l g s).tu.cpBase = s.tu.cpBase ∧
    (checkFrozen f l g s).tu.book = s.tu.book ∧
    (checkFrozen f l g s).su = s.su ∧
    (checkFrozen f l g s).fiu = s.fiu ∧
    (checkFrozen f l g s).ctu = s.ctu ∧
    (checkFrozen f l g s).ls = s.ls ∧
    (checkFrozen f l g s).ve = s.ve ∧
    (checkFrozen f l g s).sh = s.sh ∧
    (checkFrozen f l g s).pu = s.pu ∧
    (checkFrozen f l g s).time = s.time ∧
    (checkFrozen f l g s).free = s.free := by
  unfold checkFrozen
  (repeat' split) <;> simp

@[simp] theorem checkHistory_frame (f : FrameSlot) (c : Camera) (s : State) :
    (checkHistory f c s).pending = s.pending ∧
    (checkHistory f c s).tu.cpBase = s.tu.cpBase ∧
    (checkHistory f c s).tu.book = s.tu.book ∧
    (checkHistory f c s).su = s.su ∧
    (checkHistory f c s).fiu = s.fiu ∧
    (checkHistory f c s).ctu = s.ctu ∧
    (checkHistory f c s).ls = s.ls ∧
    (checkHistory f c s).ve = s.ve ∧
    (checkHistory f c s).sh = s.sh ∧
    (checkHistory f c s).pu = s.pu ∧
    (checkHistory f c s).time = s.time ∧
    (checkHistory f c s).free = s.free := by
  unfold checkHistory
  dsimp only
  (repeat' split) <;> simp

@[simp] theorem checkExposure_frame (f : FrameSlot) (q : Nat) (s : State) :
    (checkExposure f q s).pending = s.pending ∧
    (checkExposure f q s).tu.cpBase = s.tu.cpBase ∧
    (checkExposure f q s).tu.book = s.tu.book ∧
    (checkExposure f q s).su = s.su ∧
    (checkExposure f q s).fiu = s.fiu ∧
    (checkExposure f q s).ls = s.ls ∧
    (checkExposure f q s).ve = s.ve ∧
    (checkExposure f q s).sh = s.sh ∧
    (checkExposure f q s).pu = s.pu ∧
    (checkExposure f q s).time = s.time ∧
    (checkExposure f q s).free = s.free := by
  unfold checkExposure
  dsimp only
  (repeat' split) <;> simp

@[simp] theorem trackCandidates_frame (f : FrameSlot) (s : State) :
    (trackCandidates f s).pending = s.pending ∧
    (trackCandidates f s).tu.cpBase = s.tu.cpBase ∧
    (trackCandidates f s).tu.book = s.tu.book ∧
    (trackCandidates f s).su = s.su ∧
    (trackCandidates f s).ct = s.ct ∧
    (trackCandidates f s).fiu = s.fiu ∧
    (trackCandidates f s).fl = s.fl ∧
    (trackCandidates f s).ls = s.ls ∧
    (trackCandidates f s).ve = s.ve ∧
    (trackCandidates f s).sh = s.sh ∧
    (trackCandidates f s).pu = s.pu ∧
    (trackCandidates f s).time = s.time ∧
    (trackCandidates f s).free = s.free := by
  unfold trackCandidates
  dsimp only
  (repeat' split) <;> simp

@[simp] theorem checkStuck_frame (f : FrameSlot) (p : Nat × Nat) (s : State) :
    (checkStuck f p s).pending = s.pending ∧
    (checkStuck f p s).tu.cpBase = s.tu.cpBase ∧
    (checkStuck f p s).tu.book = s.tu.book ∧
    (checkStuck f p s).su = s.su ∧
    (checkStuck f p s).fiu = s.fiu ∧
    (checkStuck f p s).ls = s.ls ∧
    (checkStuck f p s).ve = s.ve ∧
    (checkStuck f p s).sh = s.sh ∧
    (checkStuck f p s).pu = s.pu ∧
    (checkStuck f p s).time = s.time ∧
    (checkStuck f p s).free = s.free := by
  unfold checkStuck
  (repeat' split) <;> simp

@[simp] theorem trackerSteps_frame (f : FrameSlot) (s : State) :
    (trackerSteps f s).pending = s.pending ∧
    (trackerSteps f s).tu.cpBase = s.tu.cpBase ∧
    (trackerSteps f s).tu.book = s.tu.book ∧
    (trackerSteps f s).su = s.su ∧
    (trackerSteps f s).fiu = s.fiu ∧
    (trackerSteps f s).ls = s.ls ∧
    (trackerSteps f s).ve = s.ve ∧
    (trackerSteps f s).sh = s.sh ∧
    (trackerSteps f s).pu = s.pu ∧
    (trackerSteps f s).time = s.time ∧
    (trackerSteps f s).free = s.free := by
  unfold trackerSteps
  exact ⟨(foldl_keeps (·.pending) _ (fun _ _ => by simp) _ _).trans (by simp),
    (foldl_keeps (·.tu.cpBase) _ (fun _ _ => by simp) _ _).trans (by simp),
    (foldl_keeps (·.tu.book) _ (fun _ _ => by simp) _ _).trans (by simp),
    (foldl_keeps (·.su) _ (fun _ _ => by simp) _ _).trans (by simp),
    (foldl_keeps (·.fiu) _ (fun _ _ => by simp) _ _).trans (by simp),
    (foldl_keeps (·.ls) _ (fun _ _ => by simp) _ _).trans (by simp),
    (foldl_keeps (·.ve) _ (fun _ _ => by simp) _ _).trans (by simp),
    (foldl_keeps (·.sh) _ (fun _ _ => by simp) _ _).trans (by simp),
    (foldl_keeps (·.pu) _ (fun _ _ => by simp) _ _).trans (by simp),
    (foldl_keeps (·.time) _ (fun _ _ => by simp) _ _).trans (by simp),
    (foldl_keeps (·.free) _ (fun _ _ => by simp) _ _).trans (by simp)⟩

@[simp] theorem raiseUnpaired_frame (k : Nat) (p : StereoPair) (h : HeldRecord) (s : State) :
    (raiseUnpaired k p h s).pending = s.pending ∧
    (raiseUnpaired k p h s).tu.cpBase = s.tu.cpBase ∧
    (raiseUnpaired k p h s).tu.book = s.tu.book ∧
    (raiseUnpaired k p h s).su = s.su ∧
    (raiseUnpaired k p h s).fiu = s.fiu ∧
    (raiseUnpaired k p h s).ctu = s.ctu ∧
    (raiseUnpaired k p h s).ls = s.ls ∧
    (raiseUnpaired k p h s).ve = s.ve ∧
    (raiseUnpaired k p h s).sh = s.sh ∧
    (raiseUnpaired k p h s).pu = s.pu ∧
    (raiseUnpaired k p h s).time = s.time ∧
    (raiseUnpaired k p h s).free = s.free := by
  unfold raiseUnpaired
  simp

@[simp] theorem setQueue_frame (k : Nat) (q : List HeldRecord) (s : State) :
    (setQueue k q s).pending = s.pending ∧
    (setQueue k q s).tu.cpBase = s.tu.cpBase ∧
    (setQueue k q s).tu.book = s.tu.book ∧
    (setQueue k q s).su = s.su ∧
    (setQueue k q s).ct = s.ct ∧
    (setQueue k q s).fiu = s.fiu ∧
    (setQueue k q s).fl = s.fl ∧
    (setQueue k q s).ls = s.ls ∧
    (setQueue k q s).ve = s.ve ∧
    (setQueue k q s).sh = s.sh ∧
    (setQueue k q s).pu = s.pu ∧
    (setQueue k q s).time = s.time ∧
    (setQueue k q s).free = s.free := by
  exact ⟨rfl, rfl, rfl, rfl, rfl, rfl, rfl, rfl, rfl, rfl, rfl, rfl, rfl⟩

@[simp] theorem holdFrame_frame (k : Nat) (p : StereoPair) (h : HeldRecord) (s : State) :
    (holdFrame k p h s).pending = s.pending ∧
    (holdFrame k p h s).tu.cpBase = s.tu.cpBase ∧
    (holdFrame k p h s).tu.book = s.tu.book ∧
    (holdFrame k p h s).su = s.su ∧
    (holdFrame k p h s).fiu = s.fiu ∧
    (holdFrame k p h s).ls = s.ls ∧
    (holdFrame k p h s).ve = s.ve ∧
    (holdFrame k p h s).sh = s.sh ∧
    (holdFrame k p h s).pu = s.pu ∧
    (holdFrame k p h s).time = s.time ∧
    (holdFrame k p h s).free = s.free := by
  unfold holdFrame
  dsimp only
  (repeat' split) <;> simp

@[simp] theorem checkExposurePair_frame (f : FrameSlot) (p : StereoPair) (h : HeldRecord) (m : Nat) (s : State) :
    (checkExposurePair f p h m s).pending = s.pending ∧
    (checkExposurePair f p h m s).tu.cpBase = s.tu.cpBase ∧
    (checkExposurePair f p h m s).tu.book = s.tu.book ∧
    (checkExposurePair f p h m s).su = s.su ∧
    (checkExposurePair f p h m s).fiu = s.fiu ∧
    (checkExposurePair f p h m s).ctu = s.ctu ∧
    (checkExposurePair f p h m s).ls = s.ls ∧
    (checkExposurePair f p h m s).ve = s.ve ∧
    (checkExposurePair f p h m s).sh = s.sh ∧
    (checkExposurePair f p h m s).pu = s.pu ∧
    (checkExposurePair f p h m s).time = s.time ∧
    (checkExposurePair f p h m s).free = s.free := by
  unfold checkExposurePair
  dsimp only
  (repeat' split) <;> simp

@[simp] theorem pairFrame_frame (k : Nat) (p : StereoPair) (f : FrameSlot) (h : HeldRecord) (l : Nat) (s : State) :
    (pairFrame k p f h l s).pending = s.pending ∧
    (pairFrame k p f h l s).tu.cpBase = s.tu.cpBase ∧
    (pairFrame k p f h l s).tu.book = s.tu.book ∧
    (pairFrame k p f h l s).su = s.su ∧
    (pairFrame k p f h l s).fiu = s.fiu ∧
    (pairFrame k p f h l s).ls = s.ls ∧
    (pairFrame k p f h l s).ve = s.ve ∧
    (pairFrame k p f h l s).sh = s.sh ∧
    (pairFrame k p f h l s).pu = s.pu ∧
    (pairFrame k p f h l s).time = s.time ∧
    (pairFrame k p f h l s).free = s.free := by
  unfold pairFrame
  dsimp only
  split
  · simp only [setQueue_frame]
    exact ⟨(foldl_keeps (·.pending) _ (fun _ _ => by simp) _ _).trans (by simp),
      (foldl_keeps (·.tu.cpBase) _ (fun _ _ => by simp) _ _).trans (by simp),
      (foldl_keeps (·.tu.book) _ (fun _ _ => by simp) _ _).trans (by simp),
      (foldl_keeps (·.su) _ (fun _ _ => by simp) _ _).trans (by simp),
      (foldl_keeps (·.fiu) _ (fun _ _ => by simp) _ _).trans (by simp),
      (foldl_keeps (·.ls) _ (fun _ _ => by simp) _ _).trans (by simp),
      (foldl_keeps (·.ve) _ (fun _ _ => by simp) _ _).trans (by simp),
      (foldl_keeps (·.sh) _ (fun _ _ => by simp) _ _).trans (by simp),
      (foldl_keeps (·.pu) _ (fun _ _ => by simp) _ _).trans (by simp),
      (foldl_keeps (·.time) _ (fun _ _ => by simp) _ _).trans (by simp),
      (foldl_keeps (·.free) _ (fun _ _ => by simp) _ _).trans (by simp)⟩
  · split
    · simp only [checkExposurePair_frame, setQueue_frame]
      exact ⟨(foldl_keeps (·.pending) _ (fun _ _ => by simp) _ _).trans (by simp),
        (foldl_keeps (·.tu.cpBase) _ (fun _ _ => by simp) _ _).trans (by simp),
        (foldl_keeps (·.tu.book) _ (fun _ _ => by simp) _ _).trans (by simp),
        (foldl_keeps (·.su) _ (fun _ _ => by simp) _ _).trans (by simp),
        (foldl_keeps (·.fiu) _ (fun _ _ => by simp) _ _).trans (by simp),
        (foldl_keeps (·.ls) _ (fun _ _ => by simp) _ _).trans (by simp),
        (foldl_keeps (·.ve) _ (fun _ _ => by simp) _ _).trans (by simp),
        (foldl_keeps (·.sh) _ (fun _ _ => by simp) _ _).trans (by simp),
        (foldl_keeps (·.pu) _ (fun _ _ => by simp) _ _).trans (by simp),
        (foldl_keeps (·.time) _ (fun _ _ => by simp) _ _).trans (by simp),
        (foldl_keeps (·.free) _ (fun _ _ => by simp) _ _).trans (by simp)⟩
    · simp only [raiseUnpaired_frame]
      exact ⟨(foldl_keeps (·.pending) _ (fun _ _ => by simp) _ _).trans (by simp),
        (foldl_keeps (·.tu.cpBase) _ (fun _ _ => by simp) _ _).trans (by simp),
        (foldl_keeps (·.tu.book) _ (fun _ _ => by simp) _ _).trans (by simp),
        (foldl_keeps (·.su) _ (fun _ _ => by simp) _ _).trans (by simp),
        (foldl_keeps (·.fiu) _ (fun _ _ => by simp) _ _).trans (by simp),
        (foldl_keeps (·.ls) _ (fun _ _ => by simp) _ _).trans (by simp),
        (foldl_keeps (·.ve) _ (fun _ _ => by simp) _ _).trans (by simp),
        (foldl_keeps (·.sh) _ (fun _ _ => by simp) _ _).trans (by simp),
        (foldl_keeps (·.pu) _ (fun _ _ => by simp) _ _).trans (by simp),
        (foldl_keeps (·.time) _ (fun _ _ => by simp) _ _).trans (by simp),
        (foldl_keeps (·.free) _ (fun _ _ => by simp) _ _).trans (by simp)⟩

@[simp] theorem stereoStep_frame (f : FrameSlot) (c : Camera) (m : Nat) (s : State) :
    (stereoStep f c m s).pending = s.pending ∧
    (stereoStep f c m s).tu.cpBase = s.tu.cpBase ∧
    (stereoStep f c m s).tu.book = s.tu.book ∧
    (stereoStep f c m s).su = s.su ∧
    (stereoStep f c m s).fiu = s.fiu ∧
    (stereoStep f c m s).ls = s.ls ∧
    (stereoStep f c m s).ve = s.ve ∧
    (stereoStep f c m s).sh = s.sh ∧
    (stereoStep f c m s).pu = s.pu ∧
    (stereoStep f c m s).time = s.time ∧
    (stereoStep f c m s).free = s.free := by
  unfold stereoStep
  dsimp only
  (repeat' split) <;> simp

@[simp] theorem rememberFrame_frame (f : FrameSlot) (b : Nat) (s : State) :
    (rememberFrame f b s).pending = s.pending ∧
    (rememberFrame f b s).tu.cpBase = s.tu.cpBase ∧
    (rememberFrame f b s).tu.book = s.tu.book ∧
    (rememberFrame f b s).su = s.su ∧
    (rememberFrame f b s).ct = s.ct ∧
    (rememberFrame f b s).fiu = s.fiu ∧
    (rememberFrame f b s).fl = s.fl ∧
    (rememberFrame f b s).ls = s.ls ∧
    (rememberFrame f b s).ve = s.ve ∧
    (rememberFrame f b s).sh = s.sh ∧
    (rememberFrame f b s).pu = s.pu ∧
    (rememberFrame f b s).time = s.time ∧
    (rememberFrame f b s).free = s.free := by
  exact ⟨rfl, rfl, rfl, rfl, rfl, rfl, rfl, rfl, rfl, rfl, rfl, rfl, rfl⟩

@[simp] theorem trackFrame_frame (f : FrameSlot) (q m : Nat) (s : State) :
    (trackFrame f q m s).pending = s.pending ∧
    (trackFrame f q m s).tu.cpBase = s.tu.cpBase ∧
    (trackFrame f q m s).tu.book = s.tu.book ∧
    (trackFrame f q m s).su = s.su ∧
    (trackFrame f q m s).fiu = s.fiu ∧
    (trackFrame f q m s).ls = s.ls ∧
    (trackFrame f q m s).ve = s.ve ∧
    (trackFrame f q m s).sh = s.sh ∧
    (trackFrame f q m s).pu = s.pu ∧
    (trackFrame f q m s).time = s.time ∧
    (trackFrame f q m s).free = s.free := by
  unfold trackFrame
  dsimp only
  simp

@[simp] theorem cameraSetAct_frame (a b c d e f g : Nat) (h : Bool) (s : State) :
    (cameraSetAct a b c d e f g h s).1.pending = s.pending ∧
    (cameraSetAct a b c d e f g h s).1.tu.cpBase = s.tu.cpBase ∧
    (cameraSetAct a b c d e f g h s).1.tu.book = s.tu.book ∧
    (cameraSetAct a b c d e f g h s).1.su = s.su ∧
    (cameraSetAct a b c d e f g h s).1.ct = s.ct ∧
    (cameraSetAct a b c d e f g h s).1.fiu = s.fiu ∧
    (cameraSetAct a b c d e f g h s).1.fl = s.fl ∧
    (cameraSetAct a b c d e f g h s).1.ls = s.ls ∧
    (cameraSetAct a b c d e f g h s).1.ve = s.ve ∧
    (cameraSetAct a b c d e f g h s).1.sh = s.sh ∧
    (cameraSetAct a b c d e f g h s).1.pu = s.pu ∧
    (cameraSetAct a b c d e f g h s).1.time = s.time ∧
    (cameraSetAct a b c d e f g h s).1.free = s.free := by
  unfold cameraSetAct
  dsimp only [refuse]
  (repeat' split) <;> simp

@[simp] theorem pairSetAct_frame (a b c d : Nat) (s : State) :
    (pairSetAct a b c d s).1.pending = s.pending ∧
    (pairSetAct a b c d s).1.tu.cpBase = s.tu.cpBase ∧
    (pairSetAct a b c d s).1.tu.book = s.tu.book ∧
    (pairSetAct a b c d s).1.su = s.su ∧
    (pairSetAct a b c d s).1.ct = s.ct ∧
    (pairSetAct a b c d s).1.fiu = s.fiu ∧
    (pairSetAct a b c d s).1.fl = s.fl ∧
    (pairSetAct a b c d s).1.ls = s.ls ∧
    (pairSetAct a b c d s).1.ve = s.ve ∧
    (pairSetAct a b c d s).1.sh = s.sh ∧
    (pairSetAct a b c d s).1.pu = s.pu ∧
    (pairSetAct a b c d s).1.time = s.time ∧
    (pairSetAct a b c d s).1.free = s.free := by
  unfold pairSetAct
  dsimp only [refuse]
  (repeat' split) <;> simp

@[simp] theorem zonesSetAct_frame (z : List Zone) (s : State) :
    (zonesSetAct z s).1.pending = s.pending ∧
    (zonesSetAct z s).1.tu.cpBase = s.tu.cpBase ∧
    (zonesSetAct z s).1.tu.book = s.tu.book ∧
    (zonesSetAct z s).1.su = s.su ∧
    (zonesSetAct z s).1.ct = s.ct ∧
    (zonesSetAct z s).1.fiu = s.fiu ∧
    (zonesSetAct z s).1.fl = s.fl ∧
    (zonesSetAct z s).1.ls = s.ls ∧
    (zonesSetAct z s).1.ve = s.ve ∧
    (zonesSetAct z s).1.sh = s.sh ∧
    (zonesSetAct z s).1.pu = s.pu ∧
    (zonesSetAct z s).1.time = s.time ∧
    (zonesSetAct z s).1.free = s.free := by
  unfold zonesSetAct
  dsimp only [refuse]
  (repeat' split) <;> simp

@[simp] theorem trackerClearAct_frame  (s : State) :
    (trackerClearAct s).1.pending = s.pending ∧
    (trackerClearAct s).1.tu.cpBase = s.tu.cpBase ∧
    (trackerClearAct s).1.tu.book = s.tu.book ∧
    (trackerClearAct s).1.su = s.su ∧
    (trackerClearAct s).1.ct = s.ct ∧
    (trackerClearAct s).1.fiu = s.fiu ∧
    (trackerClearAct s).1.fl = s.fl ∧
    (trackerClearAct s).1.ls = s.ls ∧
    (trackerClearAct s).1.ve = s.ve ∧
    (trackerClearAct s).1.sh = s.sh ∧
    (trackerClearAct s).1.pu = s.pu ∧
    (trackerClearAct s).1.time = s.time ∧
    (trackerClearAct s).1.free = s.free := by
  unfold trackerClearAct
  dsimp only [refuse]
  simp

/-! ### Looks and the shuttle -/

@[simp] theorem startLoad_frame (k a n : Nat) (s : State) :
    (startLoad k a n s).pending = s.pending ∧
    (startLoad k a n s).tu.cpBase = s.tu.cpBase ∧
    (startLoad k a n s).tu.book = s.tu.book ∧
    (startLoad k a n s).su = s.su ∧
    (startLoad k a n s).ct = s.ct ∧
    (startLoad k a n s).fiu = s.fiu ∧
    (startLoad k a n s).ctu = s.ctu ∧
    (startLoad k a n s).fl = s.fl ∧
    (startLoad k a n s).ve = s.ve ∧
    (startLoad k a n s).sh = s.sh ∧
    (startLoad k a n s).pu = s.pu ∧
    (startLoad k a n s).time = s.time ∧
    (startLoad k a n s).free = s.free := by
  exact ⟨rfl, rfl, rfl, rfl, rfl, rfl, rfl, rfl, rfl, rfl, rfl, rfl, rfl⟩

@[simp] theorem endLoad_frame (k : Nat) (x : LookSlot) (s : State) :
    (endLoad k x s).pending = s.pending ∧
    (endLoad k x s).tu.cpBase = s.tu.cpBase ∧
    (endLoad k x s).tu.book = s.tu.book ∧
    (endLoad k x s).su = s.su ∧
    (endLoad k x s).ct = s.ct ∧
    (endLoad k x s).fiu = s.fiu ∧
    (endLoad k x s).ctu = s.ctu ∧
    (endLoad k x s).fl = s.fl ∧
    (endLoad k x s).ve = s.ve ∧
    (endLoad k x s).sh = s.sh ∧
    (endLoad k x s).pu = s.pu ∧
    (endLoad k x s).time = s.time ∧
    (endLoad k x s).free = s.free := by
  unfold endLoad
  (repeat' split) <;> simp

@[simp] theorem stageBeat_frame (k : Nat) (d : BeatData) (r : Resp) (s : State) :
    (stageBeat k d r s).pending = s.pending ∧
    (stageBeat k d r s).tu.cpBase = s.tu.cpBase ∧
    (stageBeat k d r s).tu.book = s.tu.book ∧
    (stageBeat k d r s).su = s.su ∧
    (stageBeat k d r s).ct = s.ct ∧
    (stageBeat k d r s).fiu = s.fiu ∧
    (stageBeat k d r s).ctu = s.ctu ∧
    (stageBeat k d r s).fl = s.fl ∧
    (stageBeat k d r s).ve = s.ve ∧
    (stageBeat k d r s).sh = s.sh ∧
    (stageBeat k d r s).pu = s.pu ∧
    (stageBeat k d r s).time = s.time ∧
    (stageBeat k d r s).free = s.free := by
  unfold stageBeat
  dsimp only
  (repeat' split) <;> simp

@[simp] theorem shuttleProfileAct_frame (v : Nat) (p : Profile) (s : State) :
    (shuttleProfileAct v p s).1.pending = s.pending ∧
    (shuttleProfileAct v p s).1.tu.cpBase = s.tu.cpBase ∧
    (shuttleProfileAct v p s).1.tu.book = s.tu.book ∧
    (shuttleProfileAct v p s).1.su = s.su ∧
    (shuttleProfileAct v p s).1.ct = s.ct ∧
    (shuttleProfileAct v p s).1.fiu = s.fiu ∧
    (shuttleProfileAct v p s).1.ctu = s.ctu ∧
    (shuttleProfileAct v p s).1.fl = s.fl ∧
    (shuttleProfileAct v p s).1.ls = s.ls ∧
    (shuttleProfileAct v p s).1.ve = s.ve ∧
    (shuttleProfileAct v p s).1.pu = s.pu ∧
    (shuttleProfileAct v p s).1.time = s.time ∧
    (shuttleProfileAct v p s).1.free = s.free := by
  unfold shuttleProfileAct
  dsimp only [refuse]
  (repeat' split) <;> simp

@[simp] theorem shuttleGoAct_frame (v n : Nat) (d : Option Direction) (s : State) :
    (shuttleGoAct v n d s).1.pending = s.pending ∧
    (shuttleGoAct v n d s).1.tu.cpBase = s.tu.cpBase ∧
    (shuttleGoAct v n d s).1.tu.book = s.tu.book ∧
    (shuttleGoAct v n d s).1.su = s.su ∧
    (shuttleGoAct v n d s).1.ct = s.ct ∧
    (shuttleGoAct v n d s).1.fiu = s.fiu ∧
    (shuttleGoAct v n d s).1.ctu = s.ctu ∧
    (shuttleGoAct v n d s).1.fl = s.fl ∧
    (shuttleGoAct v n d s).1.ls = s.ls ∧
    (shuttleGoAct v n d s).1.ve = s.ve ∧
    (shuttleGoAct v n d s).1.pu = s.pu ∧
    (shuttleGoAct v n d s).1.time = s.time ∧
    (shuttleGoAct v n d s).1.free = s.free := by
  unfold shuttleGoAct
  dsimp only [refuse]
  (repeat' split) <;> simp

@[simp] theorem motionAct_frame (f : Motion → Motion × Nat) (v : Nat) (s : State) :
    (motionAct f v s).1.pending = s.pending ∧
    (motionAct f v s).1.tu.cpBase = s.tu.cpBase ∧
    (motionAct f v s).1.tu.book = s.tu.book ∧
    (motionAct f v s).1.su = s.su ∧
    (motionAct f v s).1.ct = s.ct ∧
    (motionAct f v s).1.fiu = s.fiu ∧
    (motionAct f v s).1.ctu = s.ctu ∧
    (motionAct f v s).1.fl = s.fl ∧
    (motionAct f v s).1.ls = s.ls ∧
    (motionAct f v s).1.ve = s.ve ∧
    (motionAct f v s).1.pu = s.pu ∧
    (motionAct f v s).1.time = s.time ∧
    (motionAct f v s).1.free = s.free := by
  unfold motionAct
  dsimp only [refuse]
  (repeat' split) <;> simp

/-! ### Views -/

@[simp] theorem viewWindowSetAct_frame (v b w h : Nat) (s : State) :
    (viewWindowSetAct v b w h s).1.pending = s.pending ∧
    (viewWindowSetAct v b w h s).1.tu.cpBase = s.tu.cpBase ∧
    (viewWindowSetAct v b w h s).1.tu.book = s.tu.book ∧
    (viewWindowSetAct v b w h s).1.su = s.su ∧
    (viewWindowSetAct v b w h s).1.ct = s.ct ∧
    (viewWindowSetAct v b w h s).1.fiu = s.fiu ∧
    (viewWindowSetAct v b w h s).1.ctu = s.ctu ∧
    (viewWindowSetAct v b w h s).1.fl = s.fl ∧
    (viewWindowSetAct v b w h s).1.ls = s.ls ∧
    (viewWindowSetAct v b w h s).1.sh = s.sh ∧
    (viewWindowSetAct v b w h s).1.pu = s.pu ∧
    (viewWindowSetAct v b w h s).1.time = s.time ∧
    (viewWindowSetAct v b w h s).1.free = s.free := by
  unfold viewWindowSetAct
  dsimp only [refuse]
  (repeat' split) <;> simp

@[simp] theorem setPending_frame (v : Nat) (x : Settings) (s : State) :
    (setPending v x s).pending = s.pending ∧
    (setPending v x s).tu.cpBase = s.tu.cpBase ∧
    (setPending v x s).tu.book = s.tu.book ∧
    (setPending v x s).su = s.su ∧
    (setPending v x s).ct = s.ct ∧
    (setPending v x s).fiu = s.fiu ∧
    (setPending v x s).ctu = s.ctu ∧
    (setPending v x s).fl = s.fl ∧
    (setPending v x s).ls = s.ls ∧
    (setPending v x s).sh = s.sh ∧
    (setPending v x s).pu = s.pu ∧
    (setPending v x s).time = s.time ∧
    (setPending v x s).free = s.free := by
  exact ⟨rfl, rfl, rfl, rfl, rfl, rfl, rfl, rfl, rfl, rfl, rfl, rfl, rfl⟩

@[simp] theorem viewOnAct_frame (v : Nat) (s : State) :
    (viewOnAct v s).1.pending = s.pending ∧
    (viewOnAct v s).1.tu.cpBase = s.tu.cpBase ∧
    (viewOnAct v s).1.tu.book = s.tu.book ∧
    (viewOnAct v s).1.su = s.su ∧
    (viewOnAct v s).1.ct = s.ct ∧
    (viewOnAct v s).1.fiu = s.fiu ∧
    (viewOnAct v s).1.ctu = s.ctu ∧
    (viewOnAct v s).1.fl = s.fl ∧
    (viewOnAct v s).1.ls = s.ls ∧
    (viewOnAct v s).1.sh = s.sh ∧
    (viewOnAct v s).1.pu = s.pu ∧
    (viewOnAct v s).1.time = s.time ∧
    (viewOnAct v s).1.free = s.free := by
  unfold viewOnAct
  dsimp only [refuse]
  (repeat' split) <;> simp

@[simp] theorem viewOffAct_frame (v : Nat) (s : State) :
    (viewOffAct v s).1.pending = s.pending ∧
    (viewOffAct v s).1.tu.cpBase = s.tu.cpBase ∧
    (viewOffAct v s).1.tu.book = s.tu.book ∧
    (viewOffAct v s).1.su = s.su ∧
    (viewOffAct v s).1.ct = s.ct ∧
    (viewOffAct v s).1.fiu = s.fiu ∧
    (viewOffAct v s).1.ctu = s.ctu ∧
    (viewOffAct v s).1.fl = s.fl ∧
    (viewOffAct v s).1.ls = s.ls ∧
    (viewOffAct v s).1.sh = s.sh ∧
    (viewOffAct v s).1.pu = s.pu ∧
    (viewOffAct v s).1.time = s.time ∧
    (viewOffAct v s).1.free = s.free := by
  unfold viewOffAct
  dsimp only [refuse]
  (repeat' split) <;> simp

@[simp] theorem zonesSwitchAct_frame (x : Bool) (v : Nat) (s : State) :
    (zonesSwitchAct x v s).1.pending = s.pending ∧
    (zonesSwitchAct x v s).1.tu.cpBase = s.tu.cpBase ∧
    (zonesSwitchAct x v s).1.tu.book = s.tu.book ∧
    (zonesSwitchAct x v s).1.su = s.su ∧
    (zonesSwitchAct x v s).1.ct = s.ct ∧
    (zonesSwitchAct x v s).1.fiu = s.fiu ∧
    (zonesSwitchAct x v s).1.ctu = s.ctu ∧
    (zonesSwitchAct x v s).1.fl = s.fl ∧
    (zonesSwitchAct x v s).1.ls = s.ls ∧
    (zonesSwitchAct x v s).1.sh = s.sh ∧
    (zonesSwitchAct x v s).1.pu = s.pu ∧
    (zonesSwitchAct x v s).1.time = s.time ∧
    (zonesSwitchAct x v s).1.free = s.free := by
  unfold zonesSwitchAct
  dsimp only [refuse]
  (repeat' split) <;> simp

@[simp] theorem viewSourceAct_frame (v c : Nat) (s : State) :
    (viewSourceAct v c s).1.pending = s.pending ∧
    (viewSourceAct v c s).1.tu.cpBase = s.tu.cpBase ∧
    (viewSourceAct v c s).1.tu.book = s.tu.book ∧
    (viewSourceAct v c s).1.su = s.su ∧
    (viewSourceAct v c s).1.ct = s.ct ∧
    (viewSourceAct v c s).1.fiu = s.fiu ∧
    (viewSourceAct v c s).1.ctu = s.ctu ∧
    (viewSourceAct v c s).1.fl = s.fl ∧
    (viewSourceAct v c s).1.ls = s.ls ∧
    (viewSourceAct v c s).1.sh = s.sh ∧
    (viewSourceAct v c s).1.pu = s.pu ∧
    (viewSourceAct v c s).1.time = s.time ∧
    (viewSourceAct v c s).1.free = s.free := by
  unfold viewSourceAct
  dsimp only [refuse]
  (repeat' split) <;> simp

@[simp] theorem viewGeometryAct_frame (v a b d : Nat) (h g : Bool) (s : State) :
    (viewGeometryAct v a b d h g s).1.pending = s.pending ∧
    (viewGeometryAct v a b d h g s).1.tu.cpBase = s.tu.cpBase ∧
    (viewGeometryAct v a b d h g s).1.tu.book = s.tu.book ∧
    (viewGeometryAct v a b d h g s).1.su = s.su ∧
    (viewGeometryAct v a b d h g s).1.ct = s.ct ∧
    (viewGeometryAct v a b d h g s).1.fiu = s.fiu ∧
    (viewGeometryAct v a b d h g s).1.ctu = s.ctu ∧
    (viewGeometryAct v a b d h g s).1.fl = s.fl ∧
    (viewGeometryAct v a b d h g s).1.ls = s.ls ∧
    (viewGeometryAct v a b d h g s).1.sh = s.sh ∧
    (viewGeometryAct v a b d h g s).1.pu = s.pu ∧
    (viewGeometryAct v a b d h g s).1.time = s.time ∧
    (viewGeometryAct v a b d h g s).1.free = s.free := by
  unfold viewGeometryAct
  dsimp only [refuse]
  (repeat' split) <;> simp

@[simp] theorem lookSelectAct_frame (v k r : Nat) (s : State) :
    (lookSelectAct v k r s).1.pending = s.pending ∧
    (lookSelectAct v k r s).1.tu.cpBase = s.tu.cpBase ∧
    (lookSelectAct v k r s).1.tu.book = s.tu.book ∧
    (lookSelectAct v k r s).1.su = s.su ∧
    (lookSelectAct v k r s).1.ct = s.ct ∧
    (lookSelectAct v k r s).1.fiu = s.fiu ∧
    (lookSelectAct v k r s).1.ctu = s.ctu ∧
    (lookSelectAct v k r s).1.fl = s.fl ∧
    (lookSelectAct v k r s).1.ls = s.ls ∧
    (lookSelectAct v k r s).1.sh = s.sh ∧
    (lookSelectAct v k r s).1.pu = s.pu ∧
    (lookSelectAct v k r s).1.time = s.time ∧
    (lookSelectAct v k r s).1.free = s.free := by
  unfold lookSelectAct
  dsimp only [refuse]
  (repeat' split) <;> simp

@[simp] theorem bandsSetAct_frame (v : Nat) (b : Option (List Band)) (m : Nat) (s : State) :
    (bandsSetAct v b m s).1.pending = s.pending ∧
    (bandsSetAct v b m s).1.tu.cpBase = s.tu.cpBase ∧
    (bandsSetAct v b m s).1.tu.book = s.tu.book ∧
    (bandsSetAct v b m s).1.su = s.su ∧
    (bandsSetAct v b m s).1.ct = s.ct ∧
    (bandsSetAct v b m s).1.fiu = s.fiu ∧
    (bandsSetAct v b m s).1.ctu = s.ctu ∧
    (bandsSetAct v b m s).1.fl = s.fl ∧
    (bandsSetAct v b m s).1.ls = s.ls ∧
    (bandsSetAct v b m s).1.sh = s.sh ∧
    (bandsSetAct v b m s).1.pu = s.pu ∧
    (bandsSetAct v b m s).1.time = s.time ∧
    (bandsSetAct v b m s).1.free = s.free := by
  unfold bandsSetAct
  dsimp only [refuse]
  (repeat' split) <;> simp

@[simp] theorem overlaySetAct_frame (v a b : Nat) (x y : Strip) (s : State) :
    (overlaySetAct v a b x y s).1.pending = s.pending ∧
    (overlaySetAct v a b x y s).1.tu.cpBase = s.tu.cpBase ∧
    (overlaySetAct v a b x y s).1.tu.book = s.tu.book ∧
    (overlaySetAct v a b x y s).1.su = s.su ∧
    (overlaySetAct v a b x y s).1.ct = s.ct ∧
    (overlaySetAct v a b x y s).1.fiu = s.fiu ∧
    (overlaySetAct v a b x y s).1.ctu = s.ctu ∧
    (overlaySetAct v a b x y s).1.fl = s.fl ∧
    (overlaySetAct v a b x y s).1.ls = s.ls ∧
    (overlaySetAct v a b x y s).1.sh = s.sh ∧
    (overlaySetAct v a b x y s).1.pu = s.pu ∧
    (overlaySetAct v a b x y s).1.time = s.time ∧
    (overlaySetAct v a b x y s).1.free = s.free := by
  unfold overlaySetAct
  dsimp only [refuse]
  (repeat' split) <;> simp

@[simp] theorem clipMarkSetAct_frame (v : Nat) (b : Bool) (c : Rgb Nat) (s : State) :
    (clipMarkSetAct v b c s).1.pending = s.pending ∧
    (clipMarkSetAct v b c s).1.tu.cpBase = s.tu.cpBase ∧
    (clipMarkSetAct v b c s).1.tu.book = s.tu.book ∧
    (clipMarkSetAct v b c s).1.su = s.su ∧
    (clipMarkSetAct v b c s).1.ct = s.ct ∧
    (clipMarkSetAct v b c s).1.fiu = s.fiu ∧
    (clipMarkSetAct v b c s).1.ctu = s.ctu ∧
    (clipMarkSetAct v b c s).1.fl = s.fl ∧
    (clipMarkSetAct v b c s).1.ls = s.ls ∧
    (clipMarkSetAct v b c s).1.sh = s.sh ∧
    (clipMarkSetAct v b c s).1.pu = s.pu ∧
    (clipMarkSetAct v b c s).1.time = s.time ∧
    (clipMarkSetAct v b c s).1.free = s.free := by
  unfold clipMarkSetAct
  dsimp only [refuse]
  (repeat' split) <;> simp

@[simp] theorem reportView_frame (v : Nat) (k : ViewKind) (d : Nat) (s : State) :
    (reportView v k d s).pending = s.pending ∧
    (reportView v k d s).tu.cpBase = s.tu.cpBase ∧
    (reportView v k d s).tu.book = s.tu.book ∧
    (reportView v k d s).su = s.su ∧
    (reportView v k d s).ct = s.ct ∧
    (reportView v k d s).fiu = s.fiu ∧
    (reportView v k d s).ctu = s.ctu ∧
    (reportView v k d s).fl = s.fl ∧
    (reportView v k d s).ls = s.ls ∧
    (reportView v k d s).ve = s.ve ∧
    (reportView v k d s).sh = s.sh ∧
    (reportView v k d s).pu = s.pu ∧
    (reportView v k d s).time = s.time ∧
    (reportView v k d s).free = s.free := by
  unfold reportView
  simp

@[simp] theorem validateBands_frame (v h : Nat) (s : State) :
    (validateBands v h s).pending = s.pending ∧
    (validateBands v h s).tu.cpBase = s.tu.cpBase ∧
    (validateBands v h s).tu.book = s.tu.book ∧
    (validateBands v h s).su = s.su ∧
    (validateBands v h s).ct = s.ct ∧
    (validateBands v h s).fiu = s.fiu ∧
    (validateBands v h s).ctu = s.ctu ∧
    (validateBands v h s).fl = s.fl ∧
    (validateBands v h s).ls = s.ls ∧
    (validateBands v h s).sh = s.sh ∧
    (validateBands v h s).pu = s.pu ∧
    (validateBands v h s).time = s.time ∧
    (validateBands v h s).free = s.free := by
  unfold validateBands
  dsimp only
  (repeat' split) <;> simp

@[simp] theorem validateStrips_frame (v h : Nat) (s : State) :
    (validateStrips v h s).pending = s.pending ∧
    (validateStrips v h s).tu.cpBase = s.tu.cpBase ∧
    (validateStrips v h s).tu.book = s.tu.book ∧
    (validateStrips v h s).su = s.su ∧
    (validateStrips v h s).ct = s.ct ∧
    (validateStrips v h s).fiu = s.fiu ∧
    (validateStrips v h s).ctu = s.ctu ∧
    (validateStrips v h s).fl = s.fl ∧
    (validateStrips v h s).ls = s.ls ∧
    (validateStrips v h s).sh = s.sh ∧
    (validateStrips v h s).pu = s.pu ∧
    (validateStrips v h s).time = s.time ∧
    (validateStrips v h s).free = s.free := by
  unfold validateStrips
  dsimp only
  (repeat' split) <;> simp

@[simp] theorem beginFrame_frame (v h : Nat) (s : State) :
    (beginFrame v h s).pending = s.pending ∧
    (beginFrame v h s).tu.cpBase = s.tu.cpBase ∧
    (beginFrame v h s).tu.book = s.tu.book ∧
    (beginFrame v h s).su = s.su ∧
    (beginFrame v h s).ct = s.ct ∧
    (beginFrame v h s).fiu = s.fiu ∧
    (beginFrame v h s).ctu = s.ctu ∧
    (beginFrame v h s).fl = s.fl ∧
    (beginFrame v h s).ls = s.ls ∧
    (beginFrame v h s).sh = s.sh ∧
    (beginFrame v h s).pu = s.pu ∧
    (beginFrame v h s).time = s.time ∧
    (beginFrame v h s).free = s.free := by
  unfold beginFrame
  dsimp only
  simp

@[simp] theorem mixStep_frame (v : Nat) (s : State) :
    (mixStep v s).pending = s.pending ∧
    (mixStep v s).tu.cpBase = s.tu.cpBase ∧
    (mixStep v s).tu.book = s.tu.book ∧
    (mixStep v s).su = s.su ∧
    (mixStep v s).ct = s.ct ∧
    (mixStep v s).fiu = s.fiu ∧
    (mixStep v s).ctu = s.ctu ∧
    (mixStep v s).fl = s.fl ∧
    (mixStep v s).ls = s.ls ∧
    (mixStep v s).sh = s.sh ∧
    (mixStep v s).pu = s.pu ∧
    (mixStep v s).time = s.time ∧
    (mixStep v s).free = s.free := by
  unfold mixStep
  dsimp only
  (repeat' split) <;> simp

@[simp] theorem shuttleStep_frame (v : Nat) (s : State) :
    (shuttleStep v s).pending = s.pending ∧
    (shuttleStep v s).tu.cpBase = s.tu.cpBase ∧
    (shuttleStep v s).tu.book = s.tu.book ∧
    (shuttleStep v s).su = s.su ∧
    (shuttleStep v s).ct = s.ct ∧
    (shuttleStep v s).fiu = s.fiu ∧
    (shuttleStep v s).ctu = s.ctu ∧
    (shuttleStep v s).fl = s.fl ∧
    (shuttleStep v s).ls = s.ls ∧
    (shuttleStep v s).ve = s.ve ∧
    (shuttleStep v s).pu = s.pu ∧
    (shuttleStep v s).time = s.time ∧
    (shuttleStep v s).free = s.free := by
  unfold shuttleStep
  dsimp only
  (repeat' split) <;> simp

@[simp] theorem pinStep_frame (v h : Nat) (s : State) :
    (pinStep v h s).pending = s.pending ∧
    (pinStep v h s).tu.cpBase = s.tu.cpBase ∧
    (pinStep v h s).tu.book = s.tu.book ∧
    (pinStep v h s).su = s.su ∧
    (pinStep v h s).ct = s.ct ∧
    (pinStep v h s).fiu = s.fiu ∧
    (pinStep v h s).ctu = s.ctu ∧
    (pinStep v h s).fl = s.fl ∧
    (pinStep v h s).ls = s.ls ∧
    (pinStep v h s).sh = s.sh ∧
    (pinStep v h s).pu = s.pu ∧
    (pinStep v h s).time = s.time ∧
    (pinStep v h s).free = s.free := by
  exact ⟨rfl, rfl, rfl, rfl, rfl, rfl, rfl, rfl, rfl, rfl, rfl, rfl, rfl⟩

@[simp] theorem takeBoundary_frame (v h : Nat) (s : State) :
    (takeBoundary v h s).pending = s.pending ∧
    (takeBoundary v h s).tu.cpBase = s.tu.cpBase ∧
    (takeBoundary v h s).tu.book = s.tu.book ∧
    (takeBoundary v h s).su = s.su ∧
    (takeBoundary v h s).ct = s.ct ∧
    (takeBoundary v h s).fiu = s.fiu ∧
    (takeBoundary v h s).ctu = s.ctu ∧
    (takeBoundary v h s).fl = s.fl ∧
    (takeBoundary v h s).ls = s.ls ∧
    (takeBoundary v h s).pu = s.pu ∧
    (takeBoundary v h s).time = s.time ∧
    (takeBoundary v h s).free = s.free := by
  unfold takeBoundary
  simp

@[simp] theorem setAnswer_frame (t : Nat) (a : UpAnswer) (s : State) :
    (setAnswer t a s).pending = s.pending ∧
    (setAnswer t a s).tu.cpBase = s.tu.cpBase ∧
    (setAnswer t a s).su = s.su ∧
    (setAnswer t a s).ct = s.ct ∧
    (setAnswer t a s).fiu = s.fiu ∧
    (setAnswer t a s).ctu = s.ctu ∧
    (setAnswer t a s).fl = s.fl ∧
    (setAnswer t a s).ls = s.ls ∧
    (setAnswer t a s).ve = s.ve ∧
    (setAnswer t a s).sh = s.sh ∧
    (setAnswer t a s).pu = s.pu ∧
    (setAnswer t a s).time = s.time ∧
    (setAnswer t a s).free = s.free := by
  exact ⟨rfl, rfl, rfl, rfl, rfl, rfl, rfl, rfl, rfl, rfl, rfl, rfl, rfl⟩

@[simp] theorem serveRead_frame (v : Nat) (r : ServedRead) (s : State) :
    (serveRead v r s).pending = s.pending ∧
    (serveRead v r s).tu.cpBase = s.tu.cpBase ∧
    (serveRead v r s).su = s.su ∧
    (serveRead v r s).ct = s.ct ∧
    (serveRead v r s).fiu = s.fiu ∧
    (serveRead v r s).ctu = s.ctu ∧
    (serveRead v r s).fl = s.fl ∧
    (serveRead v r s).ls = s.ls ∧
    (serveRead v r s).sh = s.sh ∧
    (serveRead v r s).pu = s.pu ∧
    (serveRead v r s).time = s.time ∧
    (serveRead v r s).free = s.free := by
  unfold serveRead
  dsimp only
  (repeat' split) <;> simp

@[simp] theorem viewRead_frame (v t r c b : Nat) (w : ViewWindow) (s : State) :
    (viewRead v t r c b w s).pending = s.pending ∧
    (viewRead v t r c b w s).tu.cpBase = s.tu.cpBase ∧
    (viewRead v t r c b w s).su = s.su ∧
    (viewRead v t r c b w s).ct = s.ct ∧
    (viewRead v t r c b w s).fiu = s.fiu ∧
    (viewRead v t r c b w s).ctu = s.ctu ∧
    (viewRead v t r c b w s).fl = s.fl ∧
    (viewRead v t r c b w s).ls = s.ls ∧
    (viewRead v t r c b w s).pu = s.pu ∧
    (viewRead v t r c b w s).time = s.time ∧
    (viewRead v t r c b w s).free = s.free := by
  unfold viewRead
  dsimp only
  (repeat' split) <;> simp

@[simp] theorem fetchFault_frame (v : Nat) (r : ServedRead) (s : State) :
    (fetchFault v r s).pending = s.pending ∧
    (fetchFault v r s).tu.cpBase = s.tu.cpBase ∧
    (fetchFault v r s).tu.book = s.tu.book ∧
    (fetchFault v r s).su = s.su ∧
    (fetchFault v r s).ct = s.ct ∧
    (fetchFault v r s).fiu = s.fiu ∧
    (fetchFault v r s).ctu = s.ctu ∧
    (fetchFault v r s).fl = s.fl ∧
    (fetchFault v r s).ls = s.ls ∧
    (fetchFault v r s).sh = s.sh ∧
    (fetchFault v r s).pu = s.pu ∧
    (fetchFault v r s).time = s.time ∧
    (fetchFault v r s).free = s.free := by
  unfold fetchFault
  dsimp only
  (repeat' split) <;> simp

@[simp] theorem returnBeats_frame (v i : Nat) (b : List ReadBeat) (r : ServedRead) (s : State) :
    (returnBeats v i b r s).pending = s.pending ∧
    (returnBeats v i b r s).tu.cpBase = s.tu.cpBase ∧
    (returnBeats v i b r s).su = s.su ∧
    (returnBeats v i b r s).ct = s.ct ∧
    (returnBeats v i b r s).fiu = s.fiu ∧
    (returnBeats v i b r s).ctu = s.ctu ∧
    (returnBeats v i b r s).fl = s.fl ∧
    (returnBeats v i b r s).ls = s.ls ∧
    (returnBeats v i b r s).sh = s.sh ∧
    (returnBeats v i b r s).pu = s.pu ∧
    (returnBeats v i b r s).time = s.time ∧
    (returnBeats v i b r s).free = s.free := by
  unfold returnBeats
  dsimp only
  (repeat' split) <;> simp

@[simp] theorem viewFetchReturn_frame (t i : Nat) (b : List ReadBeat) (s : State) :
    (viewFetchReturn t i b s).pending = s.pending ∧
    (viewFetchReturn t i b s).tu.cpBase = s.tu.cpBase ∧
    (viewFetchReturn t i b s).su = s.su ∧
    (viewFetchReturn t i b s).ct = s.ct ∧
    (viewFetchReturn t i b s).fiu = s.fiu ∧
    (viewFetchReturn t i b s).ctu = s.ctu ∧
    (viewFetchReturn t i b s).fl = s.fl ∧
    (viewFetchReturn t i b s).ls = s.ls ∧
    (viewFetchReturn t i b s).sh = s.sh ∧
    (viewFetchReturn t i b s).pu = s.pu ∧
    (viewFetchReturn t i b s).time = s.time ∧
    (viewFetchReturn t i b s).free = s.free := by
  unfold viewFetchReturn
  (repeat' split) <;> simp

@[simp] theorem noticeView_frame (k v : Nat) (s : State) :
    (noticeView k v s).pending = s.pending ∧
    (noticeView k v s).tu.cpBase = s.tu.cpBase ∧
    (noticeView k v s).tu.book = s.tu.book ∧
    (noticeView k v s).su = s.su ∧
    (noticeView k v s).ct = s.ct ∧
    (noticeView k v s).fiu = s.fiu ∧
    (noticeView k v s).ctu = s.ctu ∧
    (noticeView k v s).fl = s.fl ∧
    (noticeView k v s).ls = s.ls ∧
    (noticeView k v s).sh = s.sh ∧
    (noticeView k v s).pu = s.pu ∧
    (noticeView k v s).time = s.time ∧
    (noticeView k v s).free = s.free := by
  unfold noticeView
  dsimp only
  (repeat' split) <;> simp

@[simp] theorem noticeViews_frame (k : Nat) (s : State) :
    (noticeViews k s).pending = s.pending ∧
    (noticeViews k s).tu.cpBase = s.tu.cpBase ∧
    (noticeViews k s).tu.book = s.tu.book ∧
    (noticeViews k s).su = s.su ∧
    (noticeViews k s).ct = s.ct ∧
    (noticeViews k s).fiu = s.fiu ∧
    (noticeViews k s).ctu = s.ctu ∧
    (noticeViews k s).fl = s.fl ∧
    (noticeViews k s).ls = s.ls ∧
    (noticeViews k s).sh = s.sh ∧
    (noticeViews k s).pu = s.pu ∧
    (noticeViews k s).time = s.time := by
  unfold noticeViews
  dsimp only
  exact ⟨(foldl_keeps (·.pending) _ (fun _ _ => by simp) _ _).trans (by simp),
    (foldl_keeps (·.tu.cpBase) _ (fun _ _ => by simp) _ _).trans (by simp),
    (foldl_keeps (·.tu.book) _ (fun _ _ => by simp) _ _).trans (by simp),
    (foldl_keeps (·.su) _ (fun _ _ => by simp) _ _).trans (by simp),
    (foldl_keeps (·.ct) _ (fun _ _ => by simp) _ _).trans (by simp),
    (foldl_keeps (·.fiu) _ (fun _ _ => by simp) _ _).trans (by simp),
    (foldl_keeps (·.ctu) _ (fun _ _ => by simp) _ _).trans (by simp),
    (foldl_keeps (·.fl) _ (fun _ _ => by simp) _ _).trans (by simp),
    (foldl_keeps (·.ls) _ (fun _ _ => by simp) _ _).trans (by simp),
    (foldl_keeps (·.sh) _ (fun _ _ => by simp) _ _).trans (by simp),
    (foldl_keeps (·.pu) _ (fun _ _ => by simp) _ _).trans (by simp),
    (foldl_keeps (·.time) _ (fun _ _ => by simp) _ _).trans (by simp)⟩

/-! ### Frames -/

@[simp] theorem poolSetAct_frame (b c n : Nat) (s : State) :
    (poolSetAct b c n s).1.pending = s.pending ∧
    (poolSetAct b c n s).1.tu.cpBase = s.tu.cpBase ∧
    (poolSetAct b c n s).1.tu.book = s.tu.book ∧
    (poolSetAct b c n s).1.su = s.su ∧
    (poolSetAct b c n s).1.ct = s.ct ∧
    (poolSetAct b c n s).1.ctu = s.ctu ∧
    (poolSetAct b c n s).1.fl = s.fl ∧
    (poolSetAct b c n s).1.ls = s.ls ∧
    (poolSetAct b c n s).1.ve = s.ve ∧
    (poolSetAct b c n s).1.sh = s.sh ∧
    (poolSetAct b c n s).1.pu = s.pu ∧
    (poolSetAct b c n s).1.time = s.time ∧
    (poolSetAct b c n s).1.free = s.free := by
  unfold poolSetAct
  dsimp only [refuse]
  (repeat' split) <;> simp

@[simp] theorem countStray_frame  (s : State) :
    (countStray s).pending = s.pending ∧
    (countStray s).tu.cpBase = s.tu.cpBase ∧
    (countStray s).tu.book = s.tu.book ∧
    (countStray s).su = s.su ∧
    (countStray s).ct = s.ct ∧
    (countStray s).ctu = s.ctu ∧
    (countStray s).fl = s.fl ∧
    (countStray s).ls = s.ls ∧
    (countStray s).ve = s.ve ∧
    (countStray s).sh = s.sh ∧
    (countStray s).pu = s.pu ∧
    (countStray s).time = s.time ∧
    (countStray s).free = s.free := by
  exact ⟨rfl, rfl, rfl, rfl, rfl, rfl, rfl, rfl, rfl, rfl, rfl, rfl, rfl⟩

@[simp] theorem abandonFrame_frame (k : Nat) (s : State) :
    (abandonFrame k s).pending = s.pending ∧
    (abandonFrame k s).tu.cpBase = s.tu.cpBase ∧
    (abandonFrame k s).tu.book = s.tu.book ∧
    (abandonFrame k s).su = s.su ∧
    (abandonFrame k s).fiu = s.fiu ∧
    (abandonFrame k s).ctu = s.ctu ∧
    (abandonFrame k s).ls = s.ls ∧
    (abandonFrame k s).ve = s.ve ∧
    (abandonFrame k s).sh = s.sh ∧
    (abandonFrame k s).pu = s.pu ∧
    (abandonFrame k s).time = s.time ∧
    (abandonFrame k s).free = s.free := by
  unfold abandonFrame
  (repeat' split) <;> simp

@[simp] theorem settleHeader_frame (k e : Nat) (f : FrameSlot) (s : State) :
    (settleHeader k e f s).pending = s.pending ∧
    (settleHeader k e f s).tu.cpBase = s.tu.cpBase ∧
    (settleHeader k e f s).tu.book = s.tu.book ∧
    (settleHeader k e f s).su = s.su ∧
    (settleHeader k e f s).ctu = s.ctu ∧
    (settleHeader k e f s).ls = s.ls ∧
    (settleHeader k e f s).ve = s.ve ∧
    (settleHeader k e f s).sh = s.sh ∧
    (settleHeader k e f s).pu = s.pu ∧
    (settleHeader k e f s).time = s.time ∧
    (settleHeader k e f s).free = s.free := by
  unfold settleHeader
  dsimp only
  (repeat' split) <;> simp

@[simp] theorem takeHeader_frame (k : Nat) (d : BeatData) (s : State) :
    (takeHeader k d s).pending = s.pending ∧
    (takeHeader k d s).tu.cpBase = s.tu.cpBase ∧
    (takeHeader k d s).tu.book = s.tu.book ∧
    (takeHeader k d s).su = s.su ∧
    (takeHeader k d s).ctu = s.ctu ∧
    (takeHeader k d s).ls = s.ls ∧
    (takeHeader k d s).sh = s.sh ∧
    (takeHeader k d s).pu = s.pu ∧
    (takeHeader k d s).time = s.time := by
  unfold takeHeader
  dsimp only
  simp

@[simp] theorem spoilHeader_frame (k : Nat) (s : State) :
    (spoilHeader k s).pending = s.pending ∧
    (spoilHeader k s).tu.cpBase = s.tu.cpBase ∧
    (spoilHeader k s).tu.book = s.tu.book ∧
    (spoilHeader k s).su = s.su ∧
    (spoilHeader k s).ctu = s.ctu ∧
    (spoilHeader k s).ls = s.ls ∧
    (spoilHeader k s).sh = s.sh ∧
    (spoilHeader k s).pu = s.pu ∧
    (spoilHeader k s).time = s.time := by
  unfold spoilHeader
  dsimp only
  (repeat' split) <;> simp

@[simp] theorem headerBeat_frame (r : Request) (b : List WriteBeat) (i k o : Nat) (s : State) :
    (headerBeat r b i k o s).1.pending = s.pending ∧
    (headerBeat r b i k o s).1.tu.cpBase = s.tu.cpBase ∧
    (headerBeat r b i k o s).1.tu.book = s.tu.book ∧
    (headerBeat r b i k o s).1.su = s.su ∧
    (headerBeat r b i k o s).1.ctu = s.ctu ∧
    (headerBeat r b i k o s).1.ls = s.ls ∧
    (headerBeat r b i k o s).1.sh = s.sh ∧
    (headerBeat r b i k o s).1.pu = s.pu ∧
    (headerBeat r b i k o s).1.time = s.time := by
  unfold headerBeat
  dsimp only
  (repeat' split) <;> simp

@[simp] theorem reportFrame_frame (k : Nat) (f : FrameSlot) (s : State) :
    (reportFrame k f s).pending = s.pending ∧
    (reportFrame k f s).tu.cpBase = s.tu.cpBase ∧
    (reportFrame k f s).tu.book = s.tu.book ∧
    (reportFrame k f s).su = s.su ∧
    (reportFrame k f s).ct = s.ct ∧
    (reportFrame k f s).fiu = s.fiu ∧
    (reportFrame k f s).ctu = s.ctu ∧
    (reportFrame k f s).fl = s.fl ∧
    (reportFrame k f s).ls = s.ls ∧
    (reportFrame k f s).ve = s.ve ∧
    (reportFrame k f s).sh = s.sh ∧
    (reportFrame k f s).pu = s.pu ∧
    (reportFrame k f s).time = s.time ∧
    (reportFrame k f s).free = s.free := by
  unfold reportFrame
  (repeat' split) <;> simp

@[simp] theorem endFrame_frame (k : Nat) (f : FrameSlot) (s : State) :
    (endFrame k f s).pending = s.pending ∧
    (endFrame k f s).tu.cpBase = s.tu.cpBase ∧
    (endFrame k f s).tu.book = s.tu.book ∧
    (endFrame k f s).su = s.su ∧
    (endFrame k f s).ls = s.ls ∧
    (endFrame k f s).ve = s.ve ∧
    (endFrame k f s).sh = s.sh ∧
    (endFrame k f s).pu = s.pu ∧
    (endFrame k f s).time = s.time ∧
    (endFrame k f s).free = s.free := by
  unfold endFrame
  dsimp only
  simp

@[simp] theorem overwriteFrame_frame (k : Nat) (s : State) :
    (overwriteFrame k s).pending = s.pending ∧
    (overwriteFrame k s).tu.cpBase = s.tu.cpBase ∧
    (overwriteFrame k s).tu.book = s.tu.book ∧
    (overwriteFrame k s).su = s.su ∧
    (overwriteFrame k s).ctu = s.ctu ∧
    (overwriteFrame k s).ls = s.ls ∧
    (overwriteFrame k s).ve = s.ve ∧
    (overwriteFrame k s).sh = s.sh ∧
    (overwriteFrame k s).pu = s.pu ∧
    (overwriteFrame k s).time = s.time ∧
    (overwriteFrame k s).free = s.free := by
  unfold overwriteFrame
  simp

@[simp] theorem bodyBeat_frame (r : Request) (i k o : Nat) (d : BeatData) (st : Strobes) (s : State) :
    (bodyBeat r i k o d st s).1.pending = s.pending ∧
    (bodyBeat r i k o d st s).1.tu.cpBase = s.tu.cpBase ∧
    (bodyBeat r i k o d st s).1.tu.book = s.tu.book ∧
    (bodyBeat r i k o d st s).1.su = s.su ∧
    (bodyBeat r i k o d st s).1.ls = s.ls ∧
    (bodyBeat r i k o d st s).1.ve = s.ve ∧
    (bodyBeat r i k o d st s).1.sh = s.sh ∧
    (bodyBeat r i k o d st s).1.pu = s.pu ∧
    (bodyBeat r i k o d st s).1.time = s.time ∧
    (bodyBeat r i k o d st s).1.free = s.free := by
  unfold bodyBeat
  dsimp only
  (repeat' split) <;> simp

@[simp] theorem poolBeat_frame (r : Request) (b : List WriteBeat) (i : Nat) (d : BeatData) (st : Strobes) (p : Pool) (s : State) :
    (poolBeat r b i d st p s).1.pending = s.pending ∧
    (poolBeat r b i d st p s).1.tu.cpBase = s.tu.cpBase ∧
    (poolBeat r b i d st p s).1.tu.book = s.tu.book ∧
    (poolBeat r b i d st p s).1.su = s.su ∧
    (poolBeat r b i d st p s).1.ls = s.ls ∧
    (poolBeat r b i d st p s).1.sh = s.sh ∧
    (poolBeat r b i d st p s).1.pu = s.pu ∧
    (poolBeat r b i d st p s).1.time = s.time := by
  unfold poolBeat
  dsimp only
  (repeat' split) <;> simp

@[simp] theorem frameResponse_frame (a k g : Nat) (ok : Bool) (s : State) :
    (frameResponse a k g ok s).pending = s.pending ∧
    (frameResponse a k g ok s).tu.cpBase = s.tu.cpBase ∧
    (frameResponse a k g ok s).tu.book = s.tu.book ∧
    (frameResponse a k g ok s).su = s.su ∧
    (frameResponse a k g ok s).ctu = s.ctu ∧
    (frameResponse a k g ok s).ls = s.ls ∧
    (frameResponse a k g ok s).ve = s.ve ∧
    (frameResponse a k g ok s).sh = s.sh ∧
    (frameResponse a k g ok s).pu = s.pu ∧
    (frameResponse a k g ok s).time = s.time ∧
    (frameResponse a k g ok s).free = s.free := by
  unfold frameResponse
  dsimp only
  (repeat' split) <;> simp

/-! ### The panel -/

@[simp] theorem lookNext_frame (v : Nat) (s : State) :
    (lookNext v s).1.pending = s.pending ∧
    (lookNext v s).1.tu.cpBase = s.tu.cpBase ∧
    (lookNext v s).1.tu.book = s.tu.book ∧
    (lookNext v s).1.su = s.su ∧
    (lookNext v s).1.ct = s.ct ∧
    (lookNext v s).1.fiu = s.fiu ∧
    (lookNext v s).1.ctu = s.ctu ∧
    (lookNext v s).1.fl = s.fl ∧
    (lookNext v s).1.ls = s.ls ∧
    (lookNext v s).1.sh = s.sh ∧
    (lookNext v s).1.pu = s.pu ∧
    (lookNext v s).1.time = s.time ∧
    (lookNext v s).1.free = s.free := by
  unfold lookNext
  (repeat' split) <;> simp

@[simp] theorem zonesToggle_frame (v : Nat) (s : State) :
    (zonesToggle v s).1.pending = s.pending ∧
    (zonesToggle v s).1.tu.cpBase = s.tu.cpBase ∧
    (zonesToggle v s).1.tu.book = s.tu.book ∧
    (zonesToggle v s).1.su = s.su ∧
    (zonesToggle v s).1.ct = s.ct ∧
    (zonesToggle v s).1.fiu = s.fiu ∧
    (zonesToggle v s).1.ctu = s.ctu ∧
    (zonesToggle v s).1.fl = s.fl ∧
    (zonesToggle v s).1.ls = s.ls ∧
    (zonesToggle v s).1.sh = s.sh ∧
    (zonesToggle v s).1.pu = s.pu ∧
    (zonesToggle v s).1.time = s.time ∧
    (zonesToggle v s).1.free = s.free := by
  exact ⟨rfl, rfl, rfl, rfl, rfl, rfl, rfl, rfl, rfl, rfl, rfl, rfl, rfl⟩

@[simp] theorem bandsToggle_frame (v : Nat) (s : State) :
    (bandsToggle v s).1.pending = s.pending ∧
    (bandsToggle v s).1.tu.cpBase = s.tu.cpBase ∧
    (bandsToggle v s).1.tu.book = s.tu.book ∧
    (bandsToggle v s).1.su = s.su ∧
    (bandsToggle v s).1.ct = s.ct ∧
    (bandsToggle v s).1.fiu = s.fiu ∧
    (bandsToggle v s).1.ctu = s.ctu ∧
    (bandsToggle v s).1.fl = s.fl ∧
    (bandsToggle v s).1.ls = s.ls ∧
    (bandsToggle v s).1.sh = s.sh ∧
    (bandsToggle v s).1.pu = s.pu ∧
    (bandsToggle v s).1.time = s.time ∧
    (bandsToggle v s).1.free = s.free := by
  exact ⟨rfl, rfl, rfl, rfl, rfl, rfl, rfl, rfl, rfl, rfl, rfl, rfl, rfl⟩

@[simp] theorem shuttlePress_frame (d : Direction) (v : Nat) (s : State) :
    (shuttlePress d v s).1.pending = s.pending ∧
    (shuttlePress d v s).1.tu.cpBase = s.tu.cpBase ∧
    (shuttlePress d v s).1.tu.book = s.tu.book ∧
    (shuttlePress d v s).1.su = s.su ∧
    (shuttlePress d v s).1.ct = s.ct ∧
    (shuttlePress d v s).1.fiu = s.fiu ∧
    (shuttlePress d v s).1.ctu = s.ctu ∧
    (shuttlePress d v s).1.fl = s.fl ∧
    (shuttlePress d v s).1.ls = s.ls ∧
    (shuttlePress d v s).1.ve = s.ve ∧
    (shuttlePress d v s).1.pu = s.pu ∧
    (shuttlePress d v s).1.time = s.time ∧
    (shuttlePress d v s).1.free = s.free := by
  exact ⟨rfl, rfl, rfl, rfl, rfl, rfl, rfl, rfl, rfl, rfl, rfl, rfl, rfl⟩

@[simp] theorem stopPress_frame (v : Nat) (s : State) :
    (stopPress v s).1.pending = s.pending ∧
    (stopPress v s).1.tu.cpBase = s.tu.cpBase ∧
    (stopPress v s).1.tu.book = s.tu.book ∧
    (stopPress v s).1.su = s.su ∧
    (stopPress v s).1.ct = s.ct ∧
    (stopPress v s).1.fiu = s.fiu ∧
    (stopPress v s).1.ctu = s.ctu ∧
    (stopPress v s).1.fl = s.fl ∧
    (stopPress v s).1.ls = s.ls ∧
    (stopPress v s).1.ve = s.ve ∧
    (stopPress v s).1.pu = s.pu ∧
    (stopPress v s).1.time = s.time ∧
    (stopPress v s).1.free = s.free := by
  exact ⟨rfl, rfl, rfl, rfl, rfl, rfl, rfl, rfl, rfl, rfl, rfl, rfl, rfl⟩

@[simp] theorem holdToggle_frame (v : Nat) (s : State) :
    (holdToggle v s).1.pending = s.pending ∧
    (holdToggle v s).1.tu.cpBase = s.tu.cpBase ∧
    (holdToggle v s).1.tu.book = s.tu.book ∧
    (holdToggle v s).1.su = s.su ∧
    (holdToggle v s).1.ct = s.ct ∧
    (holdToggle v s).1.fiu = s.fiu ∧
    (holdToggle v s).1.ctu = s.ctu ∧
    (holdToggle v s).1.fl = s.fl ∧
    (holdToggle v s).1.ls = s.ls ∧
    (holdToggle v s).1.ve = s.ve ∧
    (holdToggle v s).1.pu = s.pu ∧
    (holdToggle v s).1.time = s.time ∧
    (holdToggle v s).1.free = s.free := by
  unfold holdToggle
  dsimp only
  (repeat' split) <;> simp

@[simp] theorem locatePress_frame (f : Option Nat) (v : Nat) (s : State) :
    (locatePress f v s).1.pending = s.pending ∧
    (locatePress f v s).1.tu.cpBase = s.tu.cpBase ∧
    (locatePress f v s).1.tu.book = s.tu.book ∧
    (locatePress f v s).1.su = s.su ∧
    (locatePress f v s).1.ct = s.ct ∧
    (locatePress f v s).1.fiu = s.fiu ∧
    (locatePress f v s).1.ctu = s.ctu ∧
    (locatePress f v s).1.fl = s.fl ∧
    (locatePress f v s).1.ls = s.ls ∧
    (locatePress f v s).1.ve = s.ve ∧
    (locatePress f v s).1.pu = s.pu ∧
    (locatePress f v s).1.time = s.time ∧
    (locatePress f v s).1.free = s.free := by
  unfold locatePress
  (repeat' split) <;> simp

@[simp] theorem ackHere_frame (v : Nat) (s : State) :
    (ackHere v s).1.pending = s.pending ∧
    (ackHere v s).1.tu.cpBase = s.tu.cpBase ∧
    (ackHere v s).1.tu.book = s.tu.book ∧
    (ackHere v s).1.su = s.su ∧
    (ackHere v s).1.fiu = s.fiu ∧
    (ackHere v s).1.ctu = s.ctu ∧
    (ackHere v s).1.ls = s.ls ∧
    (ackHere v s).1.ve = s.ve ∧
    (ackHere v s).1.sh = s.sh ∧
    (ackHere v s).1.pu = s.pu ∧
    (ackHere v s).1.time = s.time ∧
    (ackHere v s).1.free = s.free := by
  unfold ackHere
  dsimp only
  simp

@[simp] theorem doAction_frame (a : PanelAction) (v : Nat) (s : State) :
    (doAction a v s).1.pending = s.pending ∧
    (doAction a v s).1.tu.cpBase = s.tu.cpBase ∧
    (doAction a v s).1.tu.book = s.tu.book ∧
    (doAction a v s).1.su = s.su ∧
    (doAction a v s).1.fiu = s.fiu ∧
    (doAction a v s).1.ctu = s.ctu ∧
    (doAction a v s).1.ls = s.ls ∧
    (doAction a v s).1.pu = s.pu ∧
    (doAction a v s).1.time = s.time ∧
    (doAction a v s).1.free = s.free := by
  unfold doAction
  (repeat' split) <;> simp

@[simp] theorem actAndReport_frame (k : Nat) (e : PanelEvent) (h : Option Nat) (s : State) :
    (actAndReport k e h s).pending = s.pending ∧
    (actAndReport k e h s).tu.cpBase = s.tu.cpBase ∧
    (actAndReport k e h s).tu.book = s.tu.book ∧
    (actAndReport k e h s).su = s.su ∧
    (actAndReport k e h s).fiu = s.fiu ∧
    (actAndReport k e h s).ctu = s.ctu ∧
    (actAndReport k e h s).ls = s.ls ∧
    (actAndReport k e h s).pu = s.pu ∧
    (actAndReport k e h s).time = s.time ∧
    (actAndReport k e h s).free = s.free := by
  unfold actAndReport
  dsimp only
  simp

@[simp] theorem keyChange_frame (k : Nat) (b : Bool) (s : State) :
    (keyChange k b s).pending = s.pending ∧
    (keyChange k b s).tu.cpBase = s.tu.cpBase ∧
    (keyChange k b s).tu.book = s.tu.book ∧
    (keyChange k b s).su = s.su ∧
    (keyChange k b s).ct = s.ct ∧
    (keyChange k b s).fiu = s.fiu ∧
    (keyChange k b s).ctu = s.ctu ∧
    (keyChange k b s).fl = s.fl ∧
    (keyChange k b s).ls = s.ls ∧
    (keyChange k b s).ve = s.ve ∧
    (keyChange k b s).sh = s.sh ∧
    (keyChange k b s).time = s.time ∧
    (keyChange k b s).free = s.free := by
  exact ⟨rfl, rfl, rfl, rfl, rfl, rfl, rfl, rfl, rfl, rfl, rfl, rfl, rfl⟩

@[simp] theorem keyPress_frame (k : Nat) (s : State) :
    (keyPress k s).pending = s.pending ∧
    (keyPress k s).tu.cpBase = s.tu.cpBase ∧
    (keyPress k s).tu.book = s.tu.book ∧
    (keyPress k s).su = s.su ∧
    (keyPress k s).fiu = s.fiu ∧
    (keyPress k s).ctu = s.ctu ∧
    (keyPress k s).ls = s.ls ∧
    (keyPress k s).time = s.time ∧
    (keyPress k s).free = s.free := by
  unfold keyPress
  (repeat' split) <;> simp

@[simp] theorem keyRelease_frame (k : Nat) (s : State) :
    (keyRelease k s).pending = s.pending ∧
    (keyRelease k s).tu.cpBase = s.tu.cpBase ∧
    (keyRelease k s).tu.book = s.tu.book ∧
    (keyRelease k s).su = s.su ∧
    (keyRelease k s).ct = s.ct ∧
    (keyRelease k s).fiu = s.fiu ∧
    (keyRelease k s).ctu = s.ctu ∧
    (keyRelease k s).fl = s.fl ∧
    (keyRelease k s).ls = s.ls ∧
    (keyRelease k s).ve = s.ve ∧
    (keyRelease k s).sh = s.sh ∧
    (keyRelease k s).time = s.time ∧
    (keyRelease k s).free = s.free := by
  unfold keyRelease
  (repeat' split) <;> simp

@[simp] theorem keyRepeat_frame (k : Nat) (s : State) :
    (keyRepeat k s).pending = s.pending ∧
    (keyRepeat k s).tu.cpBase = s.tu.cpBase ∧
    (keyRepeat k s).tu.book = s.tu.book ∧
    (keyRepeat k s).su = s.su ∧
    (keyRepeat k s).fiu = s.fiu ∧
    (keyRepeat k s).ctu = s.ctu ∧
    (keyRepeat k s).ls = s.ls ∧
    (keyRepeat k s).time = s.time ∧
    (keyRepeat k s).free = s.free := by
  unfold keyRepeat
  (repeat' split) <;> simp

@[simp] theorem panelTimingAct_frame (a b c : Nat) (s : State) :
    (panelTimingAct a b c s).1.pending = s.pending ∧
    (panelTimingAct a b c s).1.tu.cpBase = s.tu.cpBase ∧
    (panelTimingAct a b c s).1.tu.book = s.tu.book ∧
    (panelTimingAct a b c s).1.su = s.su ∧
    (panelTimingAct a b c s).1.ct = s.ct ∧
    (panelTimingAct a b c s).1.fiu = s.fiu ∧
    (panelTimingAct a b c s).1.ctu = s.ctu ∧
    (panelTimingAct a b c s).1.fl = s.fl ∧
    (panelTimingAct a b c s).1.ls = s.ls ∧
    (panelTimingAct a b c s).1.ve = s.ve ∧
    (panelTimingAct a b c s).1.sh = s.sh ∧
    (panelTimingAct a b c s).1.time = s.time ∧
    (panelTimingAct a b c s).1.free = s.free := by
  exact ⟨rfl, rfl, rfl, rfl, rfl, rfl, rfl, rfl, rfl, rfl, rfl, rfl, rfl⟩

@[simp] theorem panelBindAct_frame (k : Nat) (a : Option PanelAction) (v r : Nat) (s : State) :
    (panelBindAct k a v r s).1.pending = s.pending ∧
    (panelBindAct k a v r s).1.tu.cpBase = s.tu.cpBase ∧
    (panelBindAct k a v r s).1.tu.book = s.tu.book ∧
    (panelBindAct k a v r s).1.su = s.su ∧
    (panelBindAct k a v r s).1.ct = s.ct ∧
    (panelBindAct k a v r s).1.fiu = s.fiu ∧
    (panelBindAct k a v r s).1.ctu = s.ctu ∧
    (panelBindAct k a v r s).1.fl = s.fl ∧
    (panelBindAct k a v r s).1.ls = s.ls ∧
    (panelBindAct k a v r s).1.ve = s.ve ∧
    (panelBindAct k a v r s).1.sh = s.sh ∧
    (panelBindAct k a v r s).1.time = s.time ∧
    (panelBindAct k a v r s).1.free = s.free := by
  unfold panelBindAct
  dsimp only [refuse]
  (repeat' split) <;> simp

@[simp] theorem routeDetent_frame (d : Direction) (s : State) :
    (routeDetent d s).pending = s.pending ∧
    (routeDetent d s).tu.cpBase = s.tu.cpBase ∧
    (routeDetent d s).tu.book = s.tu.book ∧
    (routeDetent d s).su = s.su ∧
    (routeDetent d s).ct = s.ct ∧
    (routeDetent d s).fiu = s.fiu ∧
    (routeDetent d s).ctu = s.ctu ∧
    (routeDetent d s).fl = s.fl ∧
    (routeDetent d s).ls = s.ls ∧
    (routeDetent d s).ve = s.ve ∧
    (routeDetent d s).pu = s.pu ∧
    (routeDetent d s).time = s.time ∧
    (routeDetent d s).free = s.free := by
  unfold routeDetent
  dsimp only
  (repeat' split) <;> simp

@[simp] theorem jogStep_frame (d : Direction) (p : Bool × Bool) (s : State) :
    (jogStep d p s).pending = s.pending ∧
    (jogStep d p s).tu.cpBase = s.tu.cpBase ∧
    (jogStep d p s).tu.book = s.tu.book ∧
    (jogStep d p s).su = s.su ∧
    (jogStep d p s).ct = s.ct ∧
    (jogStep d p s).fiu = s.fiu ∧
    (jogStep d p s).ctu = s.ctu ∧
    (jogStep d p s).fl = s.fl ∧
    (jogStep d p s).ls = s.ls ∧
    (jogStep d p s).ve = s.ve ∧
    (jogStep d p s).time = s.time ∧
    (jogStep d p s).free = s.free := by
  unfold jogStep
  (repeat' split) <;> simp

@[simp] theorem compareSample_frame (p : Bool × Bool) (s : State) :
    (compareSample p s).pending = s.pending ∧
    (compareSample p s).tu.cpBase = s.tu.cpBase ∧
    (compareSample p s).tu.book = s.tu.book ∧
    (compareSample p s).su = s.su ∧
    (compareSample p s).ct = s.ct ∧
    (compareSample p s).fiu = s.fiu ∧
    (compareSample p s).ctu = s.ctu ∧
    (compareSample p s).fl = s.fl ∧
    (compareSample p s).ls = s.ls ∧
    (compareSample p s).ve = s.ve ∧
    (compareSample p s).time = s.time ∧
    (compareSample p s).free = s.free := by
  unfold compareSample
  (repeat' split) <;> simp

@[simp] theorem jogSample_frame (p : Bool × Bool) (s : State) :
    (jogSample p s).pending = s.pending ∧
    (jogSample p s).tu.cpBase = s.tu.cpBase ∧
    (jogSample p s).tu.book = s.tu.book ∧
    (jogSample p s).su = s.su ∧
    (jogSample p s).ct = s.ct ∧
    (jogSample p s).fiu = s.fiu ∧
    (jogSample p s).ctu = s.ctu ∧
    (jogSample p s).fl = s.fl ∧
    (jogSample p s).ls = s.ls ∧
    (jogSample p s).ve = s.ve ∧
    (jogSample p s).time = s.time ∧
    (jogSample p s).free = s.free := by
  unfold jogSample
  (repeat' split) <;> simp

/-! ### Snapshots and resets -/

@[simp] theorem endSnapshot_frame (n : Nat) (a : Answer) (s : State) :
    (endSnapshot n a s).pending = s.pending ∧
    (endSnapshot n a s).tu.cpBase = s.tu.cpBase ∧
    (endSnapshot n a s).tu.book = s.tu.book ∧
    (endSnapshot n a s).su = s.su ∧
    (endSnapshot n a s).ct = s.ct ∧
    (endSnapshot n a s).fiu = s.fiu ∧
    (endSnapshot n a s).ctu = s.ctu ∧
    (endSnapshot n a s).fl = s.fl ∧
    (endSnapshot n a s).ls = s.ls ∧
    (endSnapshot n a s).ve = s.ve ∧
    (endSnapshot n a s).sh = s.sh ∧
    (endSnapshot n a s).pu = s.pu ∧
    (endSnapshot n a s).time = s.time ∧
    (endSnapshot n a s).free = s.free := by
  unfold endSnapshot
  simp

@[simp] theorem startSnapshot_frame (n : Nat) (s : State) :
    (startSnapshot n s).pending = s.pending ∧
    (startSnapshot n s).tu.cpBase = s.tu.cpBase ∧
    (startSnapshot n s).tu.book = s.tu.book ∧
    (startSnapshot n s).su = s.su ∧
    (startSnapshot n s).ct = s.ct ∧
    (startSnapshot n s).fiu = s.fiu ∧
    (startSnapshot n s).ctu = s.ctu ∧
    (startSnapshot n s).fl = s.fl ∧
    (startSnapshot n s).ls = s.ls ∧
    (startSnapshot n s).ve = s.ve ∧
    (startSnapshot n s).sh = s.sh ∧
    (startSnapshot n s).pu = s.pu ∧
    (startSnapshot n s).time = s.time ∧
    (startSnapshot n s).free = s.free := by
  unfold startSnapshot
  (repeat' split) <;> simp

@[simp] theorem takeSnapshot_frame  (s : State) :
    (takeSnapshot s).pending = s.pending ∧
    (takeSnapshot s).tu.cpBase = s.tu.cpBase ∧
    (takeSnapshot s).tu.book = s.tu.book ∧
    (takeSnapshot s).su = s.su ∧
    (takeSnapshot s).ct = s.ct ∧
    (takeSnapshot s).fiu = s.fiu ∧
    (takeSnapshot s).ctu = s.ctu ∧
    (takeSnapshot s).fl = s.fl ∧
    (takeSnapshot s).ls = s.ls ∧
    (takeSnapshot s).ve = s.ve ∧
    (takeSnapshot s).sh = s.sh ∧
    (takeSnapshot s).pu = s.pu ∧
    (takeSnapshot s).time = s.time ∧
    (takeSnapshot s).free = s.free := by
  unfold takeSnapshot
  simp

@[simp] theorem countLoss_frame (ok : Bool) (s : State) :
    (countLoss ok s).pending = s.pending ∧
    (countLoss ok s).tu.cpBase = s.tu.cpBase ∧
    (countLoss ok s).tu.book = s.tu.book ∧
    (countLoss ok s).su = s.su ∧
    (countLoss ok s).ct = s.ct ∧
    (countLoss ok s).fiu = s.fiu ∧
    (countLoss ok s).ctu = s.ctu ∧
    (countLoss ok s).fl = s.fl ∧
    (countLoss ok s).ls = s.ls ∧
    (countLoss ok s).ve = s.ve ∧
    (countLoss ok s).sh = s.sh ∧
    (countLoss ok s).pu = s.pu ∧
    (countLoss ok s).time = s.time ∧
    (countLoss ok s).free = s.free := by
  unfold countLoss
  (repeat' split) <;> simp

@[simp] theorem endOperation_frame (r : ReadyReport) (ok : Bool) (s : State) :
    (endOperation r ok s).pending = s.pending ∧
    (endOperation r ok s).tu.cpBase = s.tu.cpBase ∧
    (endOperation r ok s).tu.book = s.tu.book ∧
    (endOperation r ok s).su = s.su ∧
    (endOperation r ok s).ct = s.ct ∧
    (endOperation r ok s).fiu = s.fiu ∧
    (endOperation r ok s).ctu = s.ctu ∧
    (endOperation r ok s).fl = s.fl ∧
    (endOperation r ok s).ls = s.ls ∧
    (endOperation r ok s).ve = s.ve ∧
    (endOperation r ok s).sh = s.sh ∧
    (endOperation r ok s).pu = s.pu ∧
    (endOperation r ok s).time = s.time ∧
    (endOperation r ok s).free = s.free := by
  unfold endOperation
  (repeat' split) <;> simp

@[simp] theorem reportResponse_frame (r : ReadyReport) (ok : Bool) (s : State) :
    (reportResponse r ok s).pending = s.pending ∧
    (reportResponse r ok s).tu.cpBase = s.tu.cpBase ∧
    (reportResponse r ok s).tu.book = s.tu.book ∧
    (reportResponse r ok s).su = s.su ∧
    (reportResponse r ok s).ct = s.ct ∧
    (reportResponse r ok s).fiu = s.fiu ∧
    (reportResponse r ok s).ctu = s.ctu ∧
    (reportResponse r ok s).fl = s.fl ∧
    (reportResponse r ok s).ls = s.ls ∧
    (reportResponse r ok s).ve = s.ve ∧
    (reportResponse r ok s).sh = s.sh ∧
    (reportResponse r ok s).pu = s.pu ∧
    (reportResponse r ok s).time = s.time ∧
    (reportResponse r ok s).free = s.free := by
  unfold reportResponse
  simp

@[simp] theorem forgetSent_frame (i : Nat) (s : State) :
    (forgetSent i s).pending = s.pending ∧
    (forgetSent i s).tu.cpBase = s.tu.cpBase ∧
    (forgetSent i s).tu.book = s.tu.book ∧
    (forgetSent i s).su = s.su ∧
    (forgetSent i s).ct = s.ct ∧
    (forgetSent i s).fiu = s.fiu ∧
    (forgetSent i s).ctu = s.ctu ∧
    (forgetSent i s).fl = s.fl ∧
    (forgetSent i s).ls = s.ls ∧
    (forgetSent i s).ve = s.ve ∧
    (forgetSent i s).sh = s.sh ∧
    (forgetSent i s).pu = s.pu ∧
    (forgetSent i s).time = s.time ∧
    (forgetSent i s).free = s.free := by
  exact ⟨rfl, rfl, rfl, rfl, rfl, rfl, rfl, rfl, rfl, rfl, rfl, rfl, rfl, rfl⟩

@[simp] theorem reportWriteResponse_frame (n : Nat) (ok : Bool) (s : State) :
    (reportWriteResponse n ok s).pending = s.pending ∧
    (reportWriteResponse n ok s).tu.cpBase = s.tu.cpBase ∧
    (reportWriteResponse n ok s).tu.book = s.tu.book ∧
    (reportWriteResponse n ok s).su = s.su ∧
    (reportWriteResponse n ok s).ct = s.ct ∧
    (reportWriteResponse n ok s).fiu = s.fiu ∧
    (reportWriteResponse n ok s).ctu = s.ctu ∧
    (reportWriteResponse n ok s).fl = s.fl ∧
    (reportWriteResponse n ok s).ls = s.ls ∧
    (reportWriteResponse n ok s).ve = s.ve ∧
    (reportWriteResponse n ok s).sh = s.sh ∧
    (reportWriteResponse n ok s).pu = s.pu ∧
    (reportWriteResponse n ok s).time = s.time ∧
    (reportWriteResponse n ok s).free = s.free := by
  unfold reportWriteResponse
  (repeat' split) <;> simp

@[simp] theorem resetUnits_frame  (s : State) :
    (resetUnits s).pending = s.pending ∧
    (resetUnits s).tu.cpBase = s.tu.cpBase ∧
    (resetUnits s).tu.book = s.tu.book ∧
    (resetUnits s).ls = s.ls ∧
    (resetUnits s).pu = s.pu ∧
    (resetUnits s).time = s.time ∧
    (resetUnits s).free = s.free := by
  exact ⟨rfl, rfl, rfl, rfl, rfl, rfl, rfl⟩

@[simp] theorem engineResetAct_frame  (s : State) :
    (engineResetAct s).1.pending = s.pending ∧
    (engineResetAct s).1.tu.cpBase = s.tu.cpBase ∧
    (engineResetAct s).1.tu.book = s.tu.book ∧
    (engineResetAct s).1.ls = s.ls ∧
    (engineResetAct s).1.pu = s.pu ∧
    (engineResetAct s).1.time = s.time ∧
    (engineResetAct s).1.free = s.free := by
  unfold engineResetAct
  simp

/-! ### Records -/

end Sys2Proof.Machine
end

