-- ==== Sys2Proof/Laws/Moves.lean ====
section
/-! SUPPORT. What one step can do to the units, said once: a chain of moves, each one operation of one unit (or a change
of CIR's state, of TU's queues or of the command queue, which the units do not see). An invariant of the units that every
move keeps is kept by every step. -/

namespace Sys2Proof.Machine

/-- The units, the time base and the control page are the same in two states. -/
structure SameUnits (s t : State) : Prop where
  cpBase : t.tu.cpBase = s.tu.cpBase
  su : t.su = s.su
  ct : t.ct = s.ct
  fiu : t.fiu = s.fiu
  ctu : t.ctu = s.ctu
  fl : t.fl = s.fl
  ls : t.ls = s.ls
  ve : t.ve = s.ve
  sh : t.sh = s.sh
  pu : t.pu = s.pu
  time : t.time = s.time

/-- One operation of one unit. -/
inductive Move : State → State → Prop
  | hardReset (n : Nat) (s : State) : Move s (hardReset n s)
  | tick (s : State) : Move s (timeBaseTick s)
  | poolSet (b c n : Nat) (s : State) : Move s (poolSetAct b c n s).1
  | viewWindowSet (v b w h : Nat) (s : State) : Move s (viewWindowSetAct v b w h s).1
  | streamOpen (c r d b l x : Nat) (s : State) : Move s (streamOpenAct c r d b l x s).1
  | endStream (i : Nat) (o : StreamOutcome) (a : Option Nat) (s : State) : Move s (endStream i o a none s)
  | clipOpen (l k c r : Nat) (s : State) : Move s (clipOpenAct l k c r s).1
  | clipRetire (i : Nat) (s : State) : Move s (clipRetireAct i s).1
  | cameraSet (a b c d e f g : Nat) (h : Bool) (s : State) : Move s (cameraSetAct a b c d e f g h s).1
  | pairSet (a b c d : Nat) (s : State) : Move s (pairSetAct a b c d s).1
  | zonesSet (z : List Zone) (s : State) (h : z.length = 6) : Move s (zonesSetAct z s).1
  | trackerClear (s : State) : Move s (trackerClearAct s).1
  | faultAck (i : Nat) (s : State) : Move s (faultAckAct i s).1
  | clipFaultsAck (i : Nat) (s : State) : Move s (clipFaultsAckAct i s).1
  | viewOn (v : Nat) (s : State) : Move s (viewOnAct v s).1
  | viewOff (v : Nat) (s : State) : Move s (viewOffAct v s).1
  | zonesSwitch (x : Bool) (v : Nat) (s : State) : Move s (zonesSwitchAct x v s).1
  | viewSource (v c : Nat) (s : State) : Move s (viewSourceAct v c s).1
  | viewGeometry (v a b d : Nat) (h g : Bool) (s : State) : Move s (viewGeometryAct v a b d h g s).1
  | lookSelect (v k r : Nat) (s : State) : Move s (lookSelectAct v k r s).1
  | bandsSet (v : Nat) (b : Option (List Band)) (m : Nat) (s : State) : Move s (bandsSetAct v b m s).1
  | overlaySet (v a b : Nat) (x y : Strip) (s : State) : Move s (overlaySetAct v a b x y s).1
  | clipMarkSet (v : Nat) (b : Bool) (c : Rgb Nat) (s : State) : Move s (clipMarkSetAct v b c s).1
  | shuttleProfile (v : Nat) (p : Profile) (s : State) : Move s (shuttleProfileAct v p s).1
  | shuttleGo (v n : Nat) (d : Option Direction) (s : State) : Move s (shuttleGoAct v n d s).1
  | shuttleStop (v : Nat) (s : State) : Move s (motionAct stopMotion v s).1
  | shuttleHold (v : Nat) (s : State) : Move s (motionAct holdMotion v s).1
  | shuttleRelease (v : Nat) (s : State) : Move s (motionAct releaseMotion v s).1
  | shuttleLocate (v n : Nat) (s : State) (h : n < 4294967296) : Move s (motionAct (fun m => (locateMotion n m, n)) v s).1
  | panelBind (k : Nat) (a : Option PanelAction) (v r : Nat) (s : State) : Move s (panelBindAct k a v r s).1
  | panelTiming (a b c : Nat) (s : State) : Move s (panelTimingAct a b c s).1
  | engineReset (s : State) : Move s (engineResetAct s).1
  | startLoad (k a n : Nat) (s : State) : Move s (startLoad k a n s)
  | stageBeat (k : Nat) (d : BeatData) (r : Resp) (s : State) : Move s (stageBeat k d r s)
  | streamBeat (i a : Nat) (d : BeatData) (st : Strobes) (m : List Mark) (s : State) : Move s (streamBeat i a d st m s).1
  | streamResponse (n : Nat) (ok : Bool) (s : State) : Move s (streamResponse n ok s)
  | frameResponse (a k g : Nat) (ok : Bool) (s : State) : Move s (frameResponse a k g ok s)
  | poolBeat (r : Request) (b : List WriteBeat) (i : Nat) (d : BeatData) (st : Strobes) (p : Pool) (s : State)
      (h : s.fiu.pool = some p) : Move s (poolBeat r b i d st p s).1
  | countStray (s : State) : Move s (countStray s)
  | viewRead (v t r c b : Nat) (w : ViewWindow) (s : State) (h : (viewAt s v).window = some w) :
      Move s (viewRead v t r c b w s)
  | viewFetchReturn (t i : Nat) (b : List ReadBeat) (s : State) : Move s (viewFetchReturn t i b s)
  | cardDetChange (k : Nat) (b : Bool) (s : State) : Move s (cardDetChange k b s)
  | cardInsertion (k : Nat) (s : State) : Move s (cardInsertion k s)
  | cardRemoval (k : Nat) (s : State) : Move s (cardRemoval k s)
  | keyChange (k : Nat) (b : Bool) (s : State) : Move s (keyChange k b s)
  | keyPress (k : Nat) (s : State) : Move s (keyPress k s)
  | keyRelease (k : Nat) (s : State) : Move s (keyRelease k s)
  | keyRepeat (k : Nat) (s : State) : Move s (keyRepeat k s)
  | jogSample (p : Bool × Bool) (s : State) : Move s (jogSample p s)
  | quiet {s t : State} (h : SameUnits s t) (hp : t.pending = s.pending) : Move s t

/-- A chain of moves. -/
abbrev Moves : State → State → Prop := Relation.ReflTransGen Move

theorem Moves.refl (s : State) : Moves s s := Relation.ReflTransGen.refl

theorem Moves.quiet {s t u : State} (h : Moves s t) (k : SameUnits t u) (hp : u.pending = t.pending := by first | (simp; done) | rfl) :
    Moves s u := h.tail (.quiet k hp)

theorem createReport_sameUnits (b : ReportBody) (s : State) : SameUnits s (createReport b s) := by
  constructor <;> simp

theorem makeReady_sameUnits (s : State) : SameUnits s (makeReady s) := by
  constructor <;> simp

theorem withCir_sameUnits (x : Intake) (s : State) : SameUnits s (s.withCir x) := by
  constructor <;> rfl

theorem withTu_sameUnits (x : Transit) (s : State) (h : x.cpBase = s.tu.cpBase) : SameUnits s (s.withTu x) := by
  constructor <;> first | rfl | exact h

theorem withPending_sameUnits (x : List Instr) (s : State) : SameUnits s (s.withPending x) := by
  constructor <;> rfl

theorem withFree_sameUnits (x : Nat) (s : State) : SameUnits s (s.withFree x) := by
  constructor <;> rfl

theorem chooseOrder_sameUnits {α : Type} (l : List α) (s : State) : SameUnits s (chooseOrder l s).2 := by
  constructor <;> simp

/-- A record whose act is a move is a chain of moves. -/
theorem completeCommand_moves {code : Nat} {act : State → State × Answer} {s t : State} (h : Moves s t)
    (ha : ∀ u, Moves u (act u).1) : Moves s (completeCommand code act t) := by
  unfold completeCommand
  have h1 : Moves s (advanceSequence t) := h.quiet (withCir_sameUnits _ t) rfl
  exact Moves.quiet (h1.trans (ha _)) (createReport_sameUnits _ _) (createReport_pending _ _)

theorem foldl_moves {α : Type} {f : State → α → State} {s t : State} {l : List α}
    (hf : ∀ u a, Moves u (f u a)) (h : Moves s t) : Moves s (l.foldl f t) := by
  induction l generalizing t with
  | nil => exact h
  | cons a l ih => exact ih (h.trans (hf _ _))

theorem refuse_moves (r : Reason) (u : State) : Moves u (refuse r u).1 := Moves.refl u

theorem streamCloseAct_moves (i n : Nat) (u : State) : Moves u (streamCloseAct i n u).1 := by
  unfold streamCloseAct
  dsimp only [refuse]
  split
  · exact Moves.refl _
  · split
    · exact Moves.refl _
    · exact .single (.endStream _ _ _ _)

theorem streamAbortAct_moves (i : Nat) (u : State) : Moves u (streamAbortAct i u).1 := by
  unfold streamAbortAct
  dsimp only [refuse]
  split
  · exact Moves.refl _
  · split
    · exact Moves.refl _
    · exact .single (.endStream _ _ _ _)

theorem takeLookLoad_moves (k : BitVec 8) (a : BitVec 64) (s : State) : Moves s (takeLookLoad k a s) := by
  unfold takeLookLoad
  split
  · exact completeCommand_moves (.refl s) (refuse_moves _)
  · exact (Moves.quiet (.refl s) (withCir_sameUnits _ s)).tail (.startLoad _ _ _ _)

theorem takeSnapshot_moves (s : State) : Moves s (takeSnapshot s) := by
  refine Relation.ReflTransGen.single (.quiet ?_ (by simp))
  constructor <;> simp

theorem takePoolSet_moves (base : BitVec 64) (slotCount : BitVec 16) (slotSize : BitVec 64) (s : State) : Moves s (takePoolSet base slotCount slotSize s) := by
  unfold takePoolSet
  exact completeCommand_moves (.refl s) fun u => .single (.poolSet _ _ _ u)

theorem takeViewWindowSet_moves (view : BitVec 8) (base : BitVec 64) (width height : BitVec 16) (s : State) : Moves s (takeViewWindowSet view base width height s) := by
  unfold takeViewWindowSet
  exact completeCommand_moves (.refl s) fun u => .single (.viewWindowSet _ _ _ _ u)

theorem takeStreamOpen_moves (clip role destination : BitVec 8) (base length : BitVec 64) (expected : BitVec 48) (s : State) : Moves s (takeStreamOpen clip role destination base length expected s) := by
  unfold takeStreamOpen
  exact completeCommand_moves (.refl s) fun u => .single (.streamOpen _ _ _ _ _ _ u)

theorem takeStreamClose_moves (stream : BitVec 8) (finalLength : BitVec 48) (s : State) : Moves s (takeStreamClose stream finalLength s) := by
  unfold takeStreamClose
  exact completeCommand_moves (.refl s) (streamCloseAct_moves _ _)

theorem takeStreamAbort_moves (stream : BitVec 8) (s : State) : Moves s (takeStreamAbort stream s) := by
  unfold takeStreamAbort
  exact completeCommand_moves (.refl s) (streamAbortAct_moves _)

theorem takeClipOpen_moves (label : BitVec 32) (slot camera required : BitVec 8) (s : State) : Moves s (takeClipOpen label slot camera required s) := by
  unfold takeClipOpen
  exact completeCommand_moves (.refl s) fun u => .single (.clipOpen _ _ _ _ u)

theorem takeClipRetire_moves (clip : BitVec 8) (s : State) : Moves s (takeClipRetire clip s) := by
  unfold takeClipRetire
  exact completeCommand_moves (.refl s) fun u => .single (.clipRetire _ u)

theorem takeCameraSet_moves (camera : BitVec 8) (clipLevel hotLevel : BitVec 16) (base : BitVec 8) (exposureHigh hysteresis : BitVec 16) (persistence frameReports : BitVec 8) (s : State) : Moves s (takeCameraSet camera clipLevel hotLevel base exposureHigh hysteresis persistence frameReports s) := by
  unfold takeCameraSet
  exact completeCommand_moves (.refl s) fun u => .single (.cameraSet _ _ _ _ _ _ _ _ u)

theorem takePairSet_moves (pair left right : BitVec 8) (tolerance : BitVec 32) (s : State) : Moves s (takePairSet pair left right tolerance s) := by
  unfold takePairSet
  exact completeCommand_moves (.refl s) fun u => .single (.pairSet _ _ _ _ u)

theorem takeZonesSet_moves (bounds : Six (BitVec 16)) (colours : Six (Rgb (BitVec 16))) (s : State) : Moves s (takeZonesSet bounds colours s) := by
  unfold takeZonesSet
  exact completeCommand_moves (.refl s) fun u => .single (.zonesSet _ u rfl)

theorem takeTrackerClear_moves  (s : State) : Moves s (takeTrackerClear  s) := by
  unfold takeTrackerClear
  exact completeCommand_moves (.refl s) fun u => .single (.trackerClear u)

theorem takeFaultAck_moves (id : BitVec 32) (s : State) : Moves s (takeFaultAck id s) := by
  unfold takeFaultAck
  exact completeCommand_moves (.refl s) fun u => .single (.faultAck _ u)

theorem takeClipFaultsAck_moves (clip : BitVec 8) (s : State) : Moves s (takeClipFaultsAck clip s) := by
  unfold takeClipFaultsAck
  exact completeCommand_moves (.refl s) fun u => .single (.clipFaultsAck _ u)

theorem takeViewOn_moves (view : BitVec 8) (s : State) : Moves s (takeViewOn view s) := by
  unfold takeViewOn
  exact completeCommand_moves (.refl s) fun u => .single (.viewOn _ u)

theorem takeViewOff_moves (view : BitVec 8) (s : State) : Moves s (takeViewOff view s) := by
  unfold takeViewOff
  exact completeCommand_moves (.refl s) fun u => .single (.viewOff _ u)

theorem takeZonesOn_moves (view : BitVec 8) (s : State) : Moves s (takeZonesOn view s) := by
  unfold takeZonesOn
  exact completeCommand_moves (.refl s) fun u => .single (.zonesSwitch _ _ u)

theorem takeZonesOff_moves (view : BitVec 8) (s : State) : Moves s (takeZonesOff view s) := by
  unfold takeZonesOff
  exact completeCommand_moves (.refl s) fun u => .single (.zonesSwitch _ _ u)

theorem takeViewSource_moves (view camera : BitVec 8) (s : State) : Moves s (takeViewSource view camera s) := by
  unfold takeViewSource
  exact completeCommand_moves (.refl s) fun u => .single (.viewSource _ _ u)

theorem takeViewGeometry_moves (view : BitVec 8) (x0 y0 : BitVec 16) (decimation hFlip vFlip : BitVec 8) (s : State) : Moves s (takeViewGeometry view x0 y0 decimation hFlip vFlip s) := by
  unfold takeViewGeometry
  exact completeCommand_moves (.refl s) fun u => .single (.viewGeometry _ _ _ _ _ _ u)

theorem takeLookSelect_moves (view slot : BitVec 8) (rate : BitVec 16) (s : State) : Moves s (takeLookSelect view slot rate s) := by
  unfold takeLookSelect
  exact completeCommand_moves (.refl s) fun u => .single (.lookSelect _ _ _ u)

theorem takeBandsSet_moves (view count : BitVec 8) (start1 end1 : BitVec 16) (look1 : BitVec 8) (start2 end2 : BitVec 16) (look2 mode : BitVec 8) (s : State) : Moves s (takeBandsSet view count start1 end1 look1 start2 end2 look2 mode s) := by
  unfold takeBandsSet
  exact completeCommand_moves (.refl s) fun u => .single (.bandsSet _ _ _ u)

theorem takeOverlaySet_moves (view : BitVec 8) (address : BitVec 64) (stride : BitVec 32) (start1 : BitVec 16) (count1 : BitVec 8) (start2 : BitVec 16) (count2 : BitVec 8) (s : State) : Moves s (takeOverlaySet view address stride start1 count1 start2 count2 s) := by
  unfold takeOverlaySet
  exact completeCommand_moves (.refl s) fun u => .single (.overlaySet _ _ _ _ _ u)

theorem takeClipMarkSet_moves (view on : BitVec 8) (colour : Rgb (BitVec 16)) (s : State) : Moves s (takeClipMarkSet view on colour s) := by
  unfold takeClipMarkSet
  exact completeCommand_moves (.refl s) fun u => .single (.clipMarkSet _ _ _ u)

theorem takeShuttleProfile_moves (view : BitVec 8) (s0 s1 s2 s3 s4 n : BitVec 16) (preDwell postDwell stopOnFault : BitVec 8) (s : State) : Moves s (takeShuttleProfile view s0 s1 s2 s3 s4 n preDwell postDwell stopOnFault s) := by
  unfold takeShuttleProfile
  exact completeCommand_moves (.refl s) fun u => .single (.shuttleProfile _ _ u)

theorem takeShuttleGo_moves (view : BitVec 8) (distance : BitVec 32) (direction : BitVec 8) (s : State) : Moves s (takeShuttleGo view distance direction s) := by
  unfold takeShuttleGo
  exact completeCommand_moves (.refl s) fun u => .single (.shuttleGo _ _ _ u)

theorem takeShuttleStop_moves (view : BitVec 8) (s : State) : Moves s (takeShuttleStop view s) := by
  unfold takeShuttleStop
  exact completeCommand_moves (.refl s) fun u => .single (.shuttleStop _ u)

theorem takeShuttleHold_moves (view : BitVec 8) (s : State) : Moves s (takeShuttleHold view s) := by
  unfold takeShuttleHold
  exact completeCommand_moves (.refl s) fun u => .single (.shuttleHold _ u)

theorem takeShuttleRelease_moves (view : BitVec 8) (s : State) : Moves s (takeShuttleRelease view s) := by
  unfold takeShuttleRelease
  exact completeCommand_moves (.refl s) fun u => .single (.shuttleRelease _ u)

theorem takeShuttleLocate_moves (view : BitVec 8) (frame : BitVec 32) (s : State) : Moves s (takeShuttleLocate view frame s) := by
  unfold takeShuttleLocate
  exact completeCommand_moves (.refl s) fun u => .single (.shuttleLocate _ _ u frame.isLt)

theorem takePanelBind_moves (key action view rep : BitVec 8) (s : State) : Moves s (takePanelBind key action view rep s) := by
  unfold takePanelBind
  exact completeCommand_moves (.refl s) fun u => .single (.panelBind _ _ _ _ u)

theorem takePanelTiming_moves (debounce delay interval : BitVec 16) (s : State) : Moves s (takePanelTiming debounce delay interval s) := by
  unfold takePanelTiming
  exact completeCommand_moves (.refl s) fun u => .single (.panelTiming _ _ _ u)

theorem takeEngineReset_moves  (s : State) : Moves s (takeEngineReset  s) := by
  unfold takeEngineReset
  exact completeCommand_moves (.refl s) fun u => .single (.engineReset u)

theorem takeUnknown_moves (code : Nat) (s : State) : Moves s (takeUnknown code s) := by
  unfold takeUnknown
  exact completeCommand_moves (.refl s) (refuse_moves _)

/-- A record executed is a chain of moves. -/
theorem executeRecord_moves (i : Instr) (s : State) : Moves s (executeRecord i s) :=
  match i with
  | .hardReset _ => .refl s
  | .writeRequestAddress _ => .refl s
  | .readRequest _ => .refl s
  | .writeBeat _ _ => .refl s
  | .writeResponse _ _ => .refl s
  | .forwardedReadData _ _ => .refl s
  | .orderBookRelease _ _ => .refl s
  | .arbiterSend => .refl s
  | .preResetResponse => .refl s
  | .reportMadeReady => .refl s
  | .reportWriteResponse _ _ => .refl s
  | .lookFetchBeat _ _ _ => .refl s
  | .viewFetchReturn _ _ _ => .refl s
  | .commandRecordIgnored _ _ => .refl s
  | .commandSlotPartial _ _ => .refl s
  | .consumedCountWrite _ => .refl s
  | .unknownCommand _ => takeUnknown_moves _ s
  | .poolSet _ _ _ => takePoolSet_moves _ _ _ s
  | .viewWindowSet _ _ _ _ => takeViewWindowSet_moves _ _ _ _ s
  | .streamOpen _ _ _ _ _ _ => takeStreamOpen_moves _ _ _ _ _ _ s
  | .streamClose _ _ => takeStreamClose_moves _ _ s
  | .streamAbort _ => takeStreamAbort_moves _ s
  | .clipOpen _ _ _ _ => takeClipOpen_moves _ _ _ _ s
  | .clipRetire _ => takeClipRetire_moves _ s
  | .cameraSet _ _ _ _ _ _ _ _ => takeCameraSet_moves _ _ _ _ _ _ _ _ s
  | .pairSet _ _ _ _ => takePairSet_moves _ _ _ _ s
  | .zonesSet _ _ => takeZonesSet_moves _ _ s
  | .trackerClear => takeTrackerClear_moves s
  | .faultAck _ => takeFaultAck_moves _ s
  | .clipFaultsAck _ => takeClipFaultsAck_moves _ s
  | .lookLoad _ _ => takeLookLoad_moves _ _ s
  | .viewOn _ => takeViewOn_moves _ s
  | .viewOff _ => takeViewOff_moves _ s
  | .zonesOn _ => takeZonesOn_moves _ s
  | .zonesOff _ => takeZonesOff_moves _ s
  | .viewSource _ _ => takeViewSource_moves _ _ s
  | .viewGeometry _ _ _ _ _ _ => takeViewGeometry_moves _ _ _ _ _ _ s
  | .lookSelect _ _ _ => takeLookSelect_moves _ _ _ s
  | .bandsSet _ _ _ _ _ _ _ _ _ => takeBandsSet_moves _ _ _ _ _ _ _ _ _ s
  | .overlaySet _ _ _ _ _ _ _ => takeOverlaySet_moves _ _ _ _ _ _ _ s
  | .clipMarkSet _ _ _ => takeClipMarkSet_moves _ _ _ s
  | .shuttleProfile _ _ _ _ _ _ _ _ _ _ => takeShuttleProfile_moves _ _ _ _ _ _ _ _ _ _ s
  | .shuttleGo _ _ _ => takeShuttleGo_moves _ _ _ s
  | .shuttleStop _ => takeShuttleStop_moves _ s
  | .shuttleHold _ => takeShuttleHold_moves _ s
  | .shuttleRelease _ => takeShuttleRelease_moves _ s
  | .shuttleLocate _ _ => takeShuttleLocate_moves _ _ s
  | .panelBind _ _ _ _ => takePanelBind_moves _ _ _ _ s
  | .panelTiming _ _ _ => takePanelTiming_moves _ _ _ s
  | .snapshot => takeSnapshot_moves s
  | .engineReset => takeEngineReset_moves s
  | .cardDetChange _ _ => .refl s
  | .cardInsertion _ => .refl s
  | .cardRemoval _ => .refl s
  | .keyChange _ _ => .refl s
  | .keyPress _ => .refl s
  | .keyRelease _ => .refl s
  | .keyRepeat _ => .refl s
  | .jogDetent _ _ => .refl s
  | .timeBaseTick => .refl s
  | .jogTransition _ _ => .refl s

theorem createReport_moves (b : ReportBody) (s : State) : Moves s (createReport b s) :=
  Moves.quiet (.refl s) (createReport_sameUnits b s)

theorem judgeRecord_moves (k : Nat) (r : BitVec 512) (s : State) : Moves s (judgeRecord k r s) := by
  unfold judgeRecord
  split
  · exact executeRecord_moves _ s
  · exact createReport_moves _ s

theorem judgeSlot_moves (k : Nat) (a b : Option WriteBeat) (s : State) : Moves s (judgeSlot k a b s) := by
  unfold judgeSlot
  (repeat' split) <;> first | exact judgeRecord_moves _ _ s | exact createReport_moves _ s

theorem ringBeat_moves (r : Request) (b : List WriteBeat) (i : Nat) (s : State) : Moves s (ringBeat r b i s) := by
  unfold ringBeat
  dsimp only
  split
  · exact .refl s
  · exact foldl_moves (fun u k => judgeSlot_moves _ _ _ u) (.refl s)

theorem consumedCount_moves (v : Nat) (s : State) : Moves s (consumedCount v s) := by
  unfold consumedCount
  have h : Moves s (s.withCir { s.cir with c := consumedAfter s v }) :=
    Relation.ReflTransGen.single (.quiet (withCir_sameUnits _ s) (State.withCir_pending _ _))
  exact Moves.quiet h (makeReady_sameUnits _) (makeReady_pending _)

theorem ite_moves {s t u : State} {p : Prop} [Decidable p] (ht : Moves s t) (hu : Moves s u) :
    Moves s (if p then t else u) := by
  split <;> assumption

theorem consumedBeat_moves (a : Nat) (d : BeatData) (st : Strobes) (s : State) : Moves s (consumedBeat a d st s) := by
  rw [consumedBeat]
  by_cases h : a = (controlPage s).base + 8128 ∧ st.toNat % 16 = 15
  · rw [if_pos h]; exact consumedCount_moves _ s
  · rw [if_neg h]

theorem routeBeat_moves (r : Request) (l : List WriteBeat) (m : List Mark) (i : Nat) (b : WriteBeat) (s : State) :
    Moves s (routeBeat r l m i b s).1 := by
  unfold routeBeat
  generalize ownerOf s (beatAddress r i) = o
  cases o with
  | commandRing => exact ringBeat_moves _ _ _ s
  | reportRing => exact .refl s
  | consumedLine => exact consumedBeat_moves _ _ _ s
  | pool =>
    cases h : s.fiu.pool with
    | none => simpa only [h] using Moves.refl s
    | some p => simpa only [h] using Relation.ReflTransGen.single (Move.poolBeat r l i b.data b.strobes p s h)
  | stream k => exact .single (.streamBeat _ _ _ _ _ _)
  | view v => exact .refl s
  | nowhere => exact .refl s

theorem changeEntry_sameUnits (n : Nat) (f : BookEntry → BookEntry) (s : State) : SameUnits s (changeEntry n f s) :=
  withTu_sameUnits _ s rfl

theorem driveData_sameUnits (s : State) : SameUnits s (driveData s) :=
  withTu_sameUnits _ s rfl

theorem addMark_moves {n : Nat} {m : Option Mark} {s t : State} (h : Moves s t) : Moves s (addMark n m t) := by
  unfold addMark
  split
  · exact h
  · exact h.quiet (changeEntry_sameUnits _ _ _)

theorem dataBeat_moves (b : WriteBeat) (s : State) : Moves s (dataBeat b s) := by
  unfold dataBeat
  split
  · exact .refl s
  · rename_i w rest _
    have h1 : Moves s (s.withTu { s.tu with inWrites := countArrival w rest }) :=
      Moves.quiet (.refl s) (withTu_sameUnits _ s rfl)
    dsimp only
    split
    · exact h1
    · unfold forwardedBeat
      have h2 := (h1.quiet (changeEntry_sameUnits w.tag (fun e => { e with writeBeats := e.writeBeats ++ [b] }) _)).quiet
        (driveData_sameUnits _)
      dsimp only
      split
      · exact h2
      · split
        · exact addMark_moves (h2.trans (routeBeat_moves _ _ _ _ _ _))
        · exact h2

theorem untappedEffect_moves (r : Request) (s : State) : Moves s (untappedEffect r s) := by
  unfold untappedEffect
  split
  · exact .refl s
  · have h : Moves s (untappedStreams r s) := by
      unfold untappedStreams
      exact foldl_moves (fun u a => .single (.endStream _ _ _ u)) (Moves.quiet (.refl s) (chooseOrder_sameUnits _ s))
    dsimp only
    split
    · exact h.tail (.countStray _)
    · exact h

theorem enterBook_sameUnits (d : Dir) (r : Request) (k : EntryKind) (a : Option UpAnswer) (s : State) :
    SameUnits s (enterBook d r k a s) :=
  withTu_sameUnits _ s rfl

theorem forwardRequest_sameUnits (d : Dir) (r : Request) (s : State) : SameUnits s (forwardRequest d r s) := by
  constructor <;> rfl

theorem writeAddress_moves (r : Request) (s : State) : Moves s (writeAddress r s) := by
  unfold writeAddress
  split
  · exact .refl s
  · split
    · exact ((untappedEffect_moves r s).quiet (enterBook_sameUnits _ _ _ _ _)).quiet (withTu_sameUnits _ _ rfl)
    · exact ((untappedEffect_moves r s).quiet (forwardRequest_sameUnits _ _ _)).quiet (withTu_sameUnits _ _ rfl)

theorem servedBy_window {s : State} {r : Request} {x : Nat × ViewWindow} (h : servedBy s r = some x) :
    (viewAt s x.1).window = some x.2 := by
  have h1 := List.mem_of_find?_eq_some h
  simp only [List.mem_filterMap, Option.map_eq_some_iff] at h1
  obtain ⟨v, -, w, hw, rfl⟩ := h1
  exact hw

theorem readAddress_moves (r : Request) (s : State) : Moves s (readAddress r s) := by
  unfold readAddress
  split
  · exact .refl s
  · split
    · unfold settleViewRead
      split
      · rename_i x hx
        split
        · refine ((untappedEffect_moves r s).quiet (enterBook_sameUnits _ _ _ _ _)).tail (.viewRead _ _ _ _ _ _ _ ?_)
          exact servedBy_window hx
        · exact (untappedEffect_moves r s).quiet (enterBook_sameUnits _ _ _ _ _)
      · exact (untappedEffect_moves r s).quiet (enterBook_sameUnits _ _ _ _ _)
    · exact (untappedEffect_moves r s).quiet (forwardRequest_sameUnits _ _ _)

theorem setAnswer_sameUnits (n : Nat) (a : UpAnswer) (s : State) : SameUnits s (setAnswer n a s) :=
  withTu_sameUnits _ s rfl

theorem forgetSent_sameUnits (i : Nat) (s : State) : SameUnits s (forgetSent i s) :=
  withTu_sameUnits _ s rfl

theorem writeResponse_moves (i : Nat) (r : Resp) (s : State) : Moves s (writeResponse i r s) := by
  unfold writeResponse
  split
  · exact .refl s
  · split
    · unfold returnWrite
      split
      · exact .refl s
      · split
        · unfold showOwners
          refine foldl_moves ?_ (Moves.quiet (Moves.quiet (Moves.quiet (.refl s) (forgetSent_sameUnits _ s))
            (setAnswer_sameUnits _ _ _)) (chooseOrder_sameUnits _ _))
          intro u m
          unfold showMark
          split
          · exact .single (.streamResponse _ _ _)
          · exact .single (.frameResponse _ _ _ _ _)
        · exact .refl s
    · exact .refl s

theorem reportWriteResponse_moves (n : Nat) (ok : Bool) (s : State) : Moves s (reportWriteResponse n ok s) :=
  Relation.ReflTransGen.single (.quiet (by constructor <;> simp) (by simp))

theorem arbiterSend_sameUnits (s : State) : SameUnits s (arbiterSend s) := by
  unfold arbiterSend
  (repeat' split) <;> constructor <;> simp [sendBackground, sendArrival, driveData]

theorem releaseEntry_sameUnits (d : Dir) (i : Nat) (s : State) : SameUnits s (releaseEntry d i s) := by
  unfold releaseEntry
  (repeat' split) <;> constructor <;> simp

theorem readData_sameUnits (i : Nat) (b : List ReadBeat) (s : State) : SameUnits s (readData i b s) := by
  unfold readData
  (repeat' split) <;> constructor <;> simp [changeEntry]

theorem readData_pending (i : Nat) (b : List ReadBeat) (s : State) : (readData i b s).pending = s.pending := by
  unfold readData
  split <;> rfl

theorem releaseEntry_pending (d : Dir) (i : Nat) (s : State) : (releaseEntry d i s).pending = s.pending := by
  unfold releaseEntry
  (repeat' split) <;> rfl

theorem arbiterSend_pending (s : State) : (arbiterSend s).pending = s.pending := by
  unfold arbiterSend
  (repeat' split) <;> simp [sendBackground, sendArrival, driveData]

/-- Every command answers a next state, by a chain of moves. -/
theorem exec_runs (c : Instr) (s : State) : ∃ t, exec c s = .next t ∧ Moves s t :=
  match c with
  | .hardReset _ => ⟨_, rfl, .single (.hardReset _ s)⟩
  | .writeRequestAddress _ => ⟨_, rfl, writeAddress_moves _ s⟩
  | .readRequest _ => ⟨_, rfl, readAddress_moves _ s⟩
  | .writeBeat _ _ => ⟨_, rfl, dataBeat_moves _ s⟩
  | .writeResponse _ _ => ⟨_, rfl, writeResponse_moves _ _ s⟩
  | .forwardedReadData _ _ => ⟨_, rfl, .single (.quiet (readData_sameUnits _ _ s) (readData_pending _ _ s))⟩
  | .orderBookRelease _ _ => ⟨_, rfl, .single (.quiet (releaseEntry_sameUnits _ _ s) (releaseEntry_pending _ _ s))⟩
  | .arbiterSend => ⟨_, rfl, .single (.quiet (arbiterSend_sameUnits s) (arbiterSend_pending s))⟩
  | .preResetResponse => ⟨_, rfl, .single (.quiet (withTu_sameUnits _ s rfl) rfl)⟩
  | .reportMadeReady => ⟨_, rfl, .single (.quiet (makeReady_sameUnits s) (by simp))⟩
  | .reportWriteResponse _ _ => ⟨_, rfl, reportWriteResponse_moves _ _ s⟩
  | .lookFetchBeat _ _ _ => ⟨_, rfl, .single (.stageBeat _ _ _ s)⟩
  | .viewFetchReturn _ _ _ => ⟨_, rfl, .single (.viewFetchReturn _ _ _ s)⟩
  | .commandRecordIgnored _ _ => ⟨_, rfl, ite_moves (.refl s) (createReport_moves _ s)⟩
  | .commandSlotPartial _ _ => ⟨_, rfl, createReport_moves _ s⟩
  | .consumedCountWrite _ => ⟨_, rfl, consumedCount_moves _ s⟩
  | .unknownCommand _ => ⟨_, rfl, ite_moves (.refl s) (takeUnknown_moves _ s)⟩
  | .poolSet _ _ _ => ⟨_, rfl, takePoolSet_moves _ _ _ s⟩
  | .viewWindowSet _ _ _ _ => ⟨_, rfl, takeViewWindowSet_moves _ _ _ _ s⟩
  | .streamOpen _ _ _ _ _ _ => ⟨_, rfl, takeStreamOpen_moves _ _ _ _ _ _ s⟩
  | .streamClose _ _ => ⟨_, rfl, takeStreamClose_moves _ _ s⟩
  | .streamAbort _ => ⟨_, rfl, takeStreamAbort_moves _ s⟩
  | .clipOpen _ _ _ _ => ⟨_, rfl, takeClipOpen_moves _ _ _ _ s⟩
  | .clipRetire _ => ⟨_, rfl, takeClipRetire_moves _ s⟩
  | .cameraSet _ _ _ _ _ _ _ _ => ⟨_, rfl, takeCameraSet_moves _ _ _ _ _ _ _ _ s⟩
  | .pairSet _ _ _ _ => ⟨_, rfl, takePairSet_moves _ _ _ _ s⟩
  | .zonesSet _ _ => ⟨_, rfl, takeZonesSet_moves _ _ s⟩
  | .trackerClear => ⟨_, rfl, takeTrackerClear_moves s⟩
  | .faultAck _ => ⟨_, rfl, takeFaultAck_moves _ s⟩
  | .clipFaultsAck _ => ⟨_, rfl, takeClipFaultsAck_moves _ s⟩
  | .lookLoad _ _ => ⟨_, rfl, takeLookLoad_moves _ _ s⟩
  | .viewOn _ => ⟨_, rfl, takeViewOn_moves _ s⟩
  | .viewOff _ => ⟨_, rfl, takeViewOff_moves _ s⟩
  | .zonesOn _ => ⟨_, rfl, takeZonesOn_moves _ s⟩
  | .zonesOff _ => ⟨_, rfl, takeZonesOff_moves _ s⟩
  | .viewSource _ _ => ⟨_, rfl, takeViewSource_moves _ _ s⟩
  | .viewGeometry _ _ _ _ _ _ => ⟨_, rfl, takeViewGeometry_moves _ _ _ _ _ _ s⟩
  | .lookSelect _ _ _ => ⟨_, rfl, takeLookSelect_moves _ _ _ s⟩
  | .bandsSet _ _ _ _ _ _ _ _ _ => ⟨_, rfl, takeBandsSet_moves _ _ _ _ _ _ _ _ _ s⟩
  | .overlaySet _ _ _ _ _ _ _ => ⟨_, rfl, takeOverlaySet_moves _ _ _ _ _ _ _ s⟩
  | .clipMarkSet _ _ _ => ⟨_, rfl, takeClipMarkSet_moves _ _ _ s⟩
  | .shuttleProfile _ _ _ _ _ _ _ _ _ _ => ⟨_, rfl, takeShuttleProfile_moves _ _ _ _ _ _ _ _ _ _ s⟩
  | .shuttleGo _ _ _ => ⟨_, rfl, takeShuttleGo_moves _ _ _ s⟩
  | .shuttleStop _ => ⟨_, rfl, takeShuttleStop_moves _ s⟩
  | .shuttleHold _ => ⟨_, rfl, takeShuttleHold_moves _ s⟩
  | .shuttleRelease _ => ⟨_, rfl, takeShuttleRelease_moves _ s⟩
  | .shuttleLocate _ _ => ⟨_, rfl, takeShuttleLocate_moves _ _ s⟩
  | .panelBind _ _ _ _ => ⟨_, rfl, takePanelBind_moves _ _ _ _ s⟩
  | .panelTiming _ _ _ => ⟨_, rfl, takePanelTiming_moves _ _ _ s⟩
  | .snapshot => ⟨_, rfl, takeSnapshot_moves s⟩
  | .engineReset => ⟨_, rfl, takeEngineReset_moves s⟩
  | .cardDetChange _ _ => ⟨_, rfl, .single (.cardDetChange _ _ s)⟩
  | .cardInsertion _ => ⟨_, rfl, .single (.cardInsertion _ s)⟩
  | .cardRemoval _ => ⟨_, rfl, .single (.cardRemoval _ s)⟩
  | .keyChange _ _ => ⟨_, rfl, .single (.keyChange _ _ s)⟩
  | .keyPress _ => ⟨_, rfl, .single (.keyPress _ s)⟩
  | .keyRelease _ => ⟨_, rfl, .single (.keyRelease _ s)⟩
  | .keyRepeat _ => ⟨_, rfl, .single (.keyRepeat _ s)⟩
  | .jogDetent _ _ => ⟨_, rfl, .single (.jogSample _ s)⟩
  | .timeBaseTick => ⟨_, rfl, .single (.tick s)⟩
  | .jogTransition _ _ => ⟨_, rfl, .single (.jogSample _ s)⟩

/-- A command is a chain of moves. -/
theorem exec_moves {c : Instr} {s t : State} (h : exec c s = .next t) : Moves s t := by
  obtain ⟨u, hu, m⟩ := exec_runs c s
  rw [h] at hu
  cases hu
  exact m

theorem move_pending {s t : State} (h : Move s t) : t.pending = s.pending := by
  cases h <;> first | assumption | (simp; done) | rfl

/-- A command leaves the command queue alone. -/
theorem exec_pending {c : Instr} {s t : State} (h : exec c s = .next t) : t.pending = s.pending := by
  have hc : ∀ {a b : State}, Moves a b → b.pending = a.pending := by
    intro a b hab
    induction hab with
    | refl => rfl
    | tail _ m ih => exact (move_pending m).trans ih
  exact hc (exec_moves h)

/-- An invariant of the units that every move keeps is kept by every step. -/
theorem step_keeps {P : State → Prop} (hq : ∀ s t, SameUnits s t → P s → P t) (hm : ∀ s t, Move s t → P s → P t)
    {s t : State} (hs : P s) (h : step s = .next t) : P t := by
  have hc : ∀ {a b : State}, Moves a b → P a → P b := by
    intro a b hab ha
    induction hab with
    | refl => exact ha
    | tail _ m ih => exact hm _ _ m ih
  unfold step at h
  split at h
  · cases h; exact hs
  · exact hc (exec_moves h) (hq _ _ (withPending_sameUnits _ _) hs)

end Sys2Proof.Machine
end

