-- ==== Sys2Proof/Laws/Clips.lean ====
section
/-! SUPPORT. Clips, verdicts and their streams: what keeps `ClipLaw` (Sections 4.3 and 4.4), operation by operation. -/

namespace Sys2Proof.Machine

/-- What ClipLaw sees of a clip. -/
def clipCore (c : Clip) : Clip := { c with critOpen := 0, warnCount := 0, frames := 0, session := 0 }

/-- What ClipLaw sees of a stream. -/
def streamWho (e : Stream) : Nat × Role := (e.clip, e.role)

/-- Nothing that `ClipLaw` sees has changed. -/
structure SameClips (s t : State) : Prop where
  clip : ∀ i, (clipAt t i).map clipCore = (clipAt s i).map clipCore
  run : ∀ i, (streamAt t i).map streamWho = (streamAt s i).map streamWho

theorem SameClips.refl (s) : SameClips s s := ⟨fun _ => rfl, fun _ => rfl⟩

theorem SameClips.trans {s t u} (h : SameClips s t) (k : SameClips t u) : SameClips s u :=
  ⟨fun i => (k.clip i).trans (h.clip i), fun i => (k.run i).trans (h.run i)⟩

theorem SameClips.of {s t : State} (h : t.ct.clips = s.ct.clips) (k : t.su.table = s.su.table) : SameClips s t :=
  ⟨fun i => by simp [clipAt, h], fun i => by simp [streamAt, k]⟩

theorem SameClips.pre {s u t} (k : SameClips u t) (h1 : u.ct.clips = s.ct.clips) (h2 : u.su.table = s.su.table) :
    SameClips s t := (SameClips.of h1 h2).trans k

theorem SameClips.clipSome {s t i c} (h : SameClips s t) (k : clipAt t i = some c) :
    ∃ c', clipAt s i = some c' ∧ clipCore c' = clipCore c := by
  have := h.clip i; rw [k] at this
  cases e : clipAt s i with
  | none => rw [e] at this; cases this
  | some c' => rw [e] at this; simp at this; exact ⟨c', rfl, this.symm⟩

theorem SameClips.clipBack {s t i c} (h : SameClips s t) (k : clipAt s i = some c) :
    ∃ c', clipAt t i = some c' ∧ clipCore c' = clipCore c := by
  have := h.clip i; rw [k] at this
  cases e : clipAt t i with
  | none => rw [e] at this; cases this
  | some c' => rw [e] at this; simp at this; exact ⟨c', rfl, this⟩

theorem SameClips.runSome {s t i c} (h : SameClips s t) (k : streamAt t i = some c) :
    ∃ c', streamAt s i = some c' ∧ streamWho c' = streamWho c := by
  have := h.run i; rw [k] at this
  cases e : streamAt s i with
  | none => rw [e] at this; cases this
  | some c' => rw [e] at this; simp at this; exact ⟨c', rfl, this.symm⟩

theorem core_dests {c d : Clip} (h : clipCore c = clipCore d) :
    c.dests = d.dests ∧ c.state = d.state ∧ c.source = d.source ∧ c.matchCount = d.matchCount ∧ c.required = d.required := by
  unfold clipCore at h; injection h; simp_all

theorem VerdictLaw.like {c d : Clip} (h : VerdictLaw c) (e : clipCore c = clipCore d) : VerdictLaw d := by
  obtain ⟨h1, h2, h3, h4, h5⟩ := core_dests e
  obtain ⟨a, b, c', d', f⟩ := h
  rw [h1] at a b d'; rw [h2] at c' d' f; rw [h3] at d'; rw [h4] at b c' f; rw [h5] at f
  exact ⟨a, b, c', d', f⟩

theorem SameClips.law {s t} (h : SameClips s t) (k : ClipLaw s) : ClipLaw t := by
  refine ⟨?_, ?_, ?_, ?_⟩
  · intro i c hc; obtain ⟨c', h1, h2⟩ := h.clipSome hc; exact (k.verdicts i c' h1).like h2
  · intro i j e f he hf h1 h2
    obtain ⟨e', a1, a2⟩ := h.runSome he
    obtain ⟨f', b1, b2⟩ := h.runSome hf
    simp [streamWho] at a2 b2
    exact k.one i j e' f' a1 b1 (by rw [a2.1, b2.1, h1]) (by rw [a2.2, b2.2, h2])
  · intro i e he h1
    obtain ⟨e', a1, a2⟩ := h.runSome he
    simp [streamWho] at a2
    obtain ⟨c, b1, b2⟩ := k.source i e' a1 (by rw [a2.2, h1])
    rw [a2.1] at b1
    obtain ⟨c', d1, d2⟩ := h.clipBack b1
    exact ⟨c', d1, by rw [(core_dests d2).2.1, b2]⟩
  · intro i e d he h1
    obtain ⟨e', a1, a2⟩ := h.runSome he
    simp [streamWho] at a2
    obtain ⟨hd, c, b1, b2⟩ := k.dest i e' d a1 (by rw [a2.2, h1])
    rw [a2.1] at b1
    obtain ⟨c', d1, d2⟩ := h.clipBack b1
    refine ⟨hd, c', d1, ?_⟩
    unfold destAt at b2 ⊢; rw [(core_dests d2).1, b2]

theorem SameClips.setCore {s i c c'} (h : clipAt s i = some c) (e : clipCore c' = clipCore c) :
    SameClips s (setClip i (some c') s) := by
  refine ⟨fun j => ?_, fun _ => rfl⟩
  rw [clipAt_set h]; split
  · rename_i q; subst q; rw [h]; simp [e]
  · rfl

theorem countFault_sameClips (f s) : SameClips s (countFault f s) := by
  unfold countFault; split
  · exact .refl _
  · split
    · exact .refl _
    · rename_i c hc; refine .setCore hc ?_; unfold countedClip; split <;> rfl

theorem reportFault_sameClips (f s) : SameClips s (reportFault f s) := by
  unfold reportFault; dsimp only
  refine ((SameClips.of (s := s) (t := takeFaultId s) rfl rfl).trans (countFault_sameClips f (takeFaultId s))).trans (.of ?_ ?_) <;> simp [storeFault]

theorem computeLamp_sameClips (k s) : SameClips s (computeLamp k s) := by
  unfold computeLamp; split
  · unfold changeLamp; exact .of (by simp [setCardSlot]) (by simp [setCardSlot])
  · exact .refl _

theorem computeClipLamp_sameClips (i s) : SameClips s (computeClipLamp i s) := by
  unfold computeClipLamp; split
  · exact computeLamp_sameClips _ _
  · exact .refl _

theorem computeLamps_sameClips (ks s) : SameClips s (computeLamps ks s) := by
  unfold computeLamps
  induction ks generalizing s with
  | nil => exact .refl _
  | cons k ks ih => exact (computeLamp_sameClips k s).trans (ih _)

theorem raiseFault_sameClips (b f s) : SameClips s (raiseFault b f s) := by
  unfold raiseFault; dsimp only; split
  · exact reportFault_sameClips f s
  · split
    · exact (reportFault_sameClips f s).trans (computeClipLamp_sameClips _ _)
    · exact reportFault_sameClips f s

theorem SameClips.post {s t u} (k : SameClips s t) (h1 : u.ct.clips = t.ct.clips) (h2 : u.su.table = t.su.table) :
    SameClips s u := k.trans (.of h1 h2)

theorem raiseFrame_sameClips (k f d s) : SameClips s (raiseFrame k f d s) := raiseFault_sameClips _ _ _

theorem create_sameClips (b s) : SameClips s (createReport b s) := .of (by simp) (by simp)

theorem reportClip_sameClips (i o c s) : SameClips s (reportClip i o c s) := by
  unfold reportClip; split
  · exact create_sameClips _ _
  · exact .refl _

theorem subtractCrit_sameClips (i s) : SameClips s (subtractCrit i s) := by
  unfold subtractCrit; split
  · exact .refl _
  · split
    · exact .refl _
    · rename_i c hc; exact .setCore hc rfl

theorem countFrame_sameClips (c l s) : SameClips s (countFrame c l s) := by
  unfold countFrame; split
  · exact .refl _
  · split
    · exact .refl _
    · rename_i c hc; exact .setCore hc rfl

theorem foldl_sameClips {α} {f : State → α → State} (hf : ∀ t a, SameClips t (f t a)) (l : List α) (t) :
    SameClips t (l.foldl f t) := by
  induction l generalizing t with
  | nil => exact .refl _
  | cons a l ih => exact (hf t a).trans (ih _)

theorem raiseMismatches_sameClips (i ds s) : SameClips s (raiseMismatches i ds s)
    := foldl_sameClips (fun t d => raiseFault_sameClips _ _ t) ds s

/-- The clip's record is replaced by one that fits the streams running on it. -/
theorem ClipLaw.setClip {s i c c'} (h : ClipLaw s) (hc : clipAt s i = some c) (hv : VerdictLaw c')
    (hs : ∀ j e, streamAt s j = some e → e.clip = i → e.role = .source → c'.state = .opened)
    (hd : ∀ j e d, streamAt s j = some e → e.clip = i → e.role = .dest d → destAt c' d = { verdict := .pending, held := none }) :
    ClipLaw (setClip i (some c') s) := by
  refine ⟨?_, h.one, ?_, ?_⟩
  · intro j x hx; rw [clipAt_set hc] at hx; split at hx
    · cases hx; exact hv
    · exact h.verdicts j x hx
  · intro j e he hr
    obtain ⟨x, h1, h2⟩ := h.source j e he hr
    rw [clipAt_set hc]; split
    · rename_i q; exact ⟨c', rfl, hs j e he q hr⟩
    · exact ⟨x, h1, h2⟩
  · intro j e d he hr
    obtain ⟨h0, x, h1, h2⟩ := h.dest j e d he hr
    refine ⟨h0, ?_⟩
    rw [clipAt_set hc]; split
    · rename_i q; exact ⟨c', rfl, hd j e d he q hr⟩
    · exact ⟨x, h1, h2⟩

theorem ClipLaw.dropStream {s i} (h : ClipLaw s) : ClipLaw (setStream i none s) := by
  have key : ∀ j e, streamAt (setStream i none s) j = some e → streamAt s j = some e := by
    intro j e he; rw [streamAt_setStream] at he; split at he
    · cases he
    · exact he
  exact ⟨h.verdicts, fun a b e f he hf => h.one a b e f (key _ _ he) (key _ _ hf), fun a e he => h.source a e (key _ _ he),
    fun a e d he => h.dest a e d (key _ _ he)⟩

/-- A running stream's entry changes, but not its clip and role. -/
theorem setStream_sameClips {s i e e'} (h : streamAt s i = some e) (k : streamWho e' = streamWho e) :
    SameClips s (setStream i (some e') s) := by
  refine ⟨fun _ => rfl, fun j => ?_⟩
  rw [streamAt_setStream]; split
  · rename_i q; rw [q.1, h]; simp [k]
  · rfl

/-- No running stream is the source of a clip. -/
def NoSource (s : State) (i : Nat) : Prop := ∀ j e, streamAt s j = some e → e.clip = i → e.role ≠ .source

/-- No running stream reads back destination d of a clip. -/
def NoDest (s : State) (i d : Nat) : Prop := ∀ j e, streamAt s j = some e → e.clip = i → e.role ≠ .dest d

theorem running_false {s : State} {p : Stream → Bool} (h : s.su.table.any (fun e => e.any p) = false) {j e}
    (he : streamAt s j = some e) : p e = false := by
  rw [List.any_eq_false] at h
  have hl := streamAt_lt he
  unfold streamAt at he
  rw [List.getD_eq_getElem _ _ hl] at he
  have := h _ (List.getElem_mem hl)
  rw [he] at this
  simpa using this

theorem running_true {s : State} {p : Stream → Bool} {j e} (he : streamAt s j = some e) (hp : p e = true) :
    s.su.table.any (fun e => e.any p) = true := by
  have hl := streamAt_lt he
  unfold streamAt at he
  rw [List.getD_eq_getElem _ _ hl] at he
  rw [List.any_eq_true]
  exact ⟨_, List.getElem_mem hl, by rw [he]; simpa using hp⟩

theorem destAt_set {c : Clip} {d x j} (hl : c.dests.length = 4) (hd : d < 4) : destAt (withDest c d x)
    j = if j = d then x else destAt c j := by
  unfold destAt withDest
  simp only [List.getD_eq_getElem?_getD, List.getElem?_set]
  by_cases h : d = j
  · subst h; simp [hl, hd]
  · simp [h, Ne.symm h]

theorem countP_set {l : List Dest} {d x} {p : Dest → Bool} (h : d < l.length) :
    (l.set d x).countP p + (if p (l.getD d Dest.empty) then 1 else 0) = l.countP p + (if p x then 1 else 0) := by
  induction l generalizing d with
  | nil => simp at h
  | cons a l ih =>
    cases d with
    | zero => simp [List.countP_cons]; omega
    | succ d =>
      have := ih (d := d) (by simpa using h)
      simp [List.countP_cons] at this ⊢
      omega

/-- A destination whose verdict is MATCH. -/
def isMatch (x : Dest) : Bool := x.verdict == .matched

theorem count_withDest {c : Clip} {d x} (hl : c.dests.length = 4) (hd : d < 4) :
    (withDest c d x).dests.countP isMatch + (if isMatch (destAt c d) then 1 else 0)
    = c.dests.countP isMatch + (if isMatch x then 1 else 0) :=
  countP_set (by omega)

theorem VerdictLaw.count {c} (h : VerdictLaw c) : c.matchCount = c.dests.countP isMatch := h.counted

theorem all_withDest {c : Clip} {d x} (h : c.dests.all (fun x => x.held.isNone) = true) (hx : x.held = none) :
    (withDest c d x).dests.all (fun x => x.held.isNone) = true := by
  rw [List.all_eq_true] at h ⊢
  intro y hy
  rcases List.mem_or_eq_of_mem_set hy with hy | rfl
  · exact h y hy
  · simp [hx]

/-- A destination that is not a match is replaced by one that is not. -/
theorem VerdictLaw.withDest {c d x} (h : VerdictLaw c) (hd : d < 4) (ho : isMatch (destAt c d) = false)
    (hx : isMatch x = false)
    (hh : x.held = none ∨ c.state = .opened ∨ c.state = .spoiled) : VerdictLaw (withDest c d x) := by
  have hc := count_withDest (x := x) h.dests hd
  rw [ho, hx] at hc
  simp at hc
  refine ⟨?_, ?_, h.early, ?_, h.verified⟩
  · simp [Machine.withDest, h.dests]
  · show c.matchCount = _
    rw [h.count]; exact hc.symm
  · intro hs
    refine ⟨(h.final hs).1, ?_⟩
    rcases hh with hh | hh | hh
    · exact all_withDest (h.final hs).2 hh
    · exact absurd hs (by show ¬ (c.state = _ ∨ c.state = _); rw [hh]; simp)
    · exact absurd hs (by show ¬ (c.state = _ ∨ c.state = _); rw [hh]; simp)

theorem destFailed_verdicts {i d s} (h : ClipLaw s) (hd : d < 4)
    (hp : ∀ c, clipAt s i = some c → destAt c d = { verdict := .pending, held := none }) (hn : NoDest s i d) :
    ClipLaw (destFailed i d s) := by
  unfold destFailed; split
  · exact h
  · rename_i c hc
    dsimp only
    apply (reportClip_sameClips _ _ _ _).law
    have hv := h.verdicts i c hc
    apply h.setClip hc
    · apply hv.withDest hd
      · rw [hp c hc]; rfl
      · split <;> rfl
      · exact .inl rfl
    · intro j e he h1 h2; obtain ⟨x, h3, h4⟩ := h.source j e he h2; rw [h1, hc] at h3; cases h3; exact h4
    · intro j e d' he h1 h2
      obtain ⟨-, x, h3, h4⟩ := h.dest j e d' he h2
      rw [h1, hc] at h3; cases h3
      rw [destAt_set hv.dests hd, if_neg, h4]
      rintro rfl; exact hn j e he h1 h2

theorem destGood_verdicts {i d fp s} (h : ClipLaw s) (hd : d < 4)
    (hp : ∀ c, clipAt s i = some c → destAt c d = { verdict := .pending, held := none }) (hn : NoDest s i d) :
    ClipLaw (destGood i d fp s) := by
  unfold destGood; split
  · exact h
  · rename_i c hc
    have hv := h.verdicts i c hc
    have hpc := hp c hc
    have src : ∀ j e, streamAt s j = some e → e.clip = i → e.role = .source → c.state = .opened := by
      intro j e he h1 h2; obtain ⟨x, h3, h4⟩ := h.source j e he h2; rw [h1, hc] at h3; cases h3; exact h4
    have dst : ∀ x, ∀ j e d', streamAt s j = some e → e.clip = i → e.role = .dest d' → destAt (withDest c d x) d' = { verdict := .pending, held := none } := by
      intro x j e d' he h1 h2
      obtain ⟨-, x, h3, h4⟩ := h.dest j e d' he h2
      rw [h1, hc] at h3; cases h3
      rw [destAt_set hv.dests hd, if_neg, h4]
      rintro rfl; exact hn j e he h1 h2
    have cmp : (c.state = .sourced ∨ c.state = .verified) → ClipLaw (compareDest i c d fp s) := by
      intro hst
      have nosrc : ∀ j e, streamAt s j = some e → e.clip = i → e.role = .source → False := by
        intro j e he h1 h2; have := src j e he h1 h2; rw [this] at hst; simp at hst
      have heq : ∀ st, (st = .sourced ∧ c.state = .sourced) ∨ (st = .verified ∧ (c.state = .verified ∨ (comparedClip c d fp).required ≤ (comparedClip c d fp).matchCount)) →
          VerdictLaw { comparedClip c d fp with state := st } := by
        intro st hst'
        have hcnt := fun x => count_withDest (x := x) hv.dests hd (c := c)
        unfold comparedClip at hst' ⊢
        split
        · have := hcnt { verdict := .matched, held := none }
          rw [hpc] at this
          simp [isMatch] at this
          refine ⟨by simp [Machine.withDest, hv.dests], ?_, ?_, ?_, ?_⟩
          · show c.matchCount + 1 = _
            rw [hv.count]; exact this.symm
          · intro hs; dsimp only at hs; rcases hst' with ⟨h1, -⟩ | ⟨h1, -⟩ <;> rw [h1] at hs <;> simp at hs
          · intro _; exact ⟨(hv.final hst).1, all_withDest (hv.final hst).2 rfl⟩
          · intro hs; dsimp only at hs
            rcases hst' with ⟨h1, -⟩ | ⟨h1, h2⟩
            · rw [h1] at hs; cases hs
            · rename_i hq
              rcases h2 with h2 | h2
              · have := hv.verified h2; show c.required ≤ c.matchCount + 1; omega
              · simp only [hq, if_true] at h2; exact h2
        · have hw := hv.withDest hd (x := { verdict := .mismatch, held := none }) (by rw [hpc]; rfl) rfl (.inl rfl)
          refine ⟨hw.dests, hw.counted, ?_, ?_, ?_⟩
          · intro hs; dsimp only at hs; rcases hst' with ⟨h1, -⟩ | ⟨h1, -⟩ <;> rw [h1] at hs <;> simp at hs
          · intro _; exact hw.final hst
          · intro hs; dsimp only at hs
            rcases hst' with ⟨h1, -⟩ | ⟨h1, h2⟩
            · rw [h1] at hs; cases hs
            · rename_i hq
              rcases h2 with h2 | h2
              · exact hv.verified h2
              · simp only [hq, if_false] at h2; exact h2
      have hdest : ∀ st, ∀ j e d', streamAt s j = some e → e.clip = i → e.role = .dest d' → destAt { comparedClip c d fp with state := st } d' = { verdict := .pending, held := none } := by
        intro st j e d' he h1 h2
        unfold comparedClip
        split
        · exact dst { verdict := .matched, held := none } j e d' he h1 h2
        · exact dst { verdict := .mismatch, held := none } j e d' he h1 h2
      unfold compareDest; dsimp only; split
      · rename_i hq
        apply (computeClipLamp_sameClips _ _).law
        apply (reportClip_sameClips _ _ _ _).law
        exact h.setClip hc (heq .verified (.inr ⟨rfl, .inr hq.2.1⟩)) (fun j e he h1 h2 => (nosrc j e he h1 h2).elim) (hdest _)
      · have hst2 : { comparedClip c d fp with state := c.state } = comparedClip c d fp := by unfold comparedClip; split <;> rfl
        have hset : ClipLaw (setClip i (some (comparedClip c d fp)) s) := by
          rw [← hst2]
          refine h.setClip hc (heq c.state ?_) (fun j e he h1 h2 => (nosrc j e he h1 h2).elim) (hdest _)
          rcases hst with h1 | h1
          · exact .inl ⟨h1, h1⟩
          · exact .inr ⟨h1, .inl h1⟩
        split
        · exact (reportClip_sameClips _ _ _ _).law hset
        · exact (raiseFault_sameClips _ _ _).law ((reportClip_sameClips _ _ _ _).law hset)
    split
    · rename_i hst
      apply (reportClip_sameClips _ _ _ _).law
      exact h.setClip hc (hv.withDest hd (by rw [hpc]; rfl) rfl (.inr (.inl hst))) (fun j e he h1 h2 => src j e he h1 h2) (dst _)
    · rename_i hst; exact cmp (.inl hst)
    · rename_i hst; exact cmp (.inr hst)
    · rename_i hst
      apply (reportClip_sameClips _ _ _ _).law
      exact h.setClip hc (hv.withDest hd (by rw [hpc]; rfl) rfl (.inl rfl)) (fun j e he h1 h2 => src j e he h1 h2) (dst _)

theorem count_compare (fp : Fingerprint) (l : List Dest) (h : l.countP isMatch = 0) :
    (l.map (compareHeld fp)).countP isMatch = l.countP (heldEquals fp) := by
  induction l with
  | nil => rfl
  | cons a l ih =>
    rw [List.countP_cons] at h
    have h1 : l.countP isMatch = 0 := by omega
    have h2 : isMatch a = false := by by_contra hh; simp at hh; rw [hh] at h; simp at h
    rw [List.map_cons, List.countP_cons, List.countP_cons, ih h1]
    congr 1
    unfold compareHeld heldEquals
    cases hh : a.held with
    | none => simp [h2]
    | some f => simp only [Option.any_some]; by_cases he : f = fp <;> simp [he, isMatch]

theorem sourceGood_verdicts {i fp s} (h : ClipLaw s) (ho : ∀ c, clipAt s i = some c → c.state = .opened)
    (hn : NoSource s i) :
    ClipLaw (sourceGood i fp s) := by
  unfold sourceGood; split
  · exact h
  · rename_i c hc
    have hv := h.verdicts i c hc
    have hm0 := hv.early (.inl (ho c hc))
    have hcnt := count_compare fp c.dests (by rw [← hv.count, hm0])
    have hvs : VerdictLaw (sourcedClip fp c) := by
      refine ⟨by simp [sourcedClip, hv.dests], ?_, ?_, ?_, ?_⟩
      · show c.matchCount + _ = _; rw [hm0, Nat.zero_add]; exact hcnt.symm
      · intro hh; simp [sourcedClip] at hh
      · intro _; refine ⟨rfl, ?_⟩
        rw [List.all_eq_true]; intro x hx
        simp [sourcedClip] at hx
        obtain ⟨a, _, rfl⟩ := hx
        unfold compareHeld; split <;> simp_all
      · intro hh; simp [sourcedClip] at hh
    have h1 : ClipLaw (setClip i (some (sourcedClip fp c)) s) := by
      refine h.setClip hc hvs (fun j e he h1 h2 => (hn j e he h1 h2).elim) ?_
      intro j e d he h1 h2
      obtain ⟨-, x, h3, h4⟩ := h.dest j e d he h2
      rw [h1, hc] at h3; cases h3
      unfold destAt at h4 ⊢
      simp only [List.getD_eq_getElem?_getD, sourcedClip, List.getElem?_map] at h4 ⊢
      cases hq : c.dests[d]? with
      | none => rw [hq] at h4; simp [Dest.empty] at h4
      | some y => rw [hq] at h4; simp at h4; simp [h4, compareHeld]
    dsimp only
    apply (computeClipLamp_sameClips _ _).law
    generalize hS : raiseMismatches i _ _ = S
    have hl : SameClips (setClip i (some (sourcedClip fp c)) s) S := by
      rw [← hS]; exact (reportClip_sameClips _ _ _ _).trans (raiseMismatches_sameClips _ _ _)
    have h2 := hl.law h1
    have nosrc : NoSource S i := by
      intro j e he h1 h2
      obtain ⟨e', a1, a2⟩ := hl.runSome he
      simp [streamWho] at a2
      exact hn j e' a1 (by rw [a2.1, h1]) (by rw [a2.2, h2])
    unfold verifyIfEnough; split
    · exact h2
    · rename_i y hy
      split
      · rename_i hq
        apply (reportClip_sameClips _ _ _ _).law
        have hvy := h2.verdicts i y hy
        obtain ⟨y0, k1, k2⟩ := hl.clipSome hy
        rw [clipAt_set hc, if_pos rfl] at k1; cases k1
        have hst : y.state = .sourced := (core_dests k2).2.1.symm
        refine h2.setClip hy ⟨hvy.dests, hvy.counted, ?_, fun _ => hvy.final (.inl hst), fun _ => hq⟩
          (fun j e he h1 h2 => (nosrc j e he h1 h2).elim) ?_
        · intro hh; simp at hh
        · intro j e d he h1 h3
          obtain ⟨-, x, h4, h5⟩ := h2.dest j e d he h3
          rw [h1, hy] at h4; cases h4; exact h5
      · exact h2

theorem sourceFailed_verdicts {i st p s} (h : ClipLaw s) (hn : NoSource s i) : ClipLaw (sourceFailed i st p s) := by
  unfold sourceFailed; split
  · exact h
  · rename_i c hc
    have hv := h.verdicts i c hc
    have hds : ∀ d, d < 4 → destAt (spoiledClip s i c) d = { verdict := if destRunning s i d then (destAt c d).verdict else .unset, held := none } := by
      intro d hd
      unfold destAt spoiledClip
      simp only [List.getD_eq_getElem?_getD, List.getElem?_map]
      rw [List.getElem?_range (by rw [hv.dests]; exact hd)]
      rfl
    have pend : ∀ d, destRunning s i d = true → destAt c d = { verdict := .pending, held := none } ∧ d < 4 := by
      intro d hd
      unfold destRunning at hd
      rw [List.any_eq_true] at hd
      obtain ⟨o, ho, hp⟩ := hd
      cases o with
      | none => cases hp
      | some e =>
        obtain ⟨j, hj, hje⟩ := List.getElem_of_mem ho
        have he : streamAt s j = some e := by unfold streamAt; rw [List.getD_eq_getElem _ _ hj, hje]
        simp at hp
        obtain ⟨hd', x, h3, h4⟩ := h.dest j e d he hp.2
        rw [hp.1, hc] at h3; cases h3; exact ⟨h4, hd'⟩
    have hset : ClipLaw (setClip i (some (spoiledClip s i c)) s) := by
      refine h.setClip hc ⟨by simp [spoiledClip, hv.dests], ?_, fun _ => rfl, ?_, ?_⟩ (fun j e he h1 h2 => (hn j e he h1 h2).elim) ?_
      · show 0 = List.countP isMatch _
        symm; rw [List.countP_eq_zero]
        intro x hx
        simp only [spoiledClip, List.mem_map] at hx
        obtain ⟨d, _, rfl⟩ := hx
        simp only [isMatch]
        split
        · rename_i hr; rw [(pend d hr).1]; simp
        · simp
      · intro hh; simp [spoiledClip] at hh
      · intro hh; simp [spoiledClip] at hh
      · intro j e d he h1 h2
        have hr : destRunning s i d = true := running_true he (by simp [h1, h2])
        obtain ⟨a, b⟩ := pend d hr
        rw [hds d b, hr, a]; rfl
    dsimp only
    have := (raiseFault_sameClips false (clipFinding .sourceUnverifiable (some i) st) _).law ((reportClip_sameClips i (some c.state) .sourceFailed _).law hset)
    split
    · exact (computeClipLamp_sameClips _ _).law this
    · exact (raiseFault_sameClips _ _ _).law this

theorem keepNote_sameClips (id e o s) : SameClips s (keepNote id e o s) := by
  unfold keepNote; split
  · exact .of rfl rfl
  · exact .refl _

theorem endStream_verdicts {id o a p s} (h : ClipLaw s) : ClipLaw (endStream id o a p s) := by
  unfold endStream; split
  · exact h
  · rename_i e he
    apply (keepNote_sameClips _ _ _ _).law
    have h1 := (create_sameClips (streamEndReport id e o a) _).law (h.dropStream (i := id))
    generalize hu : createReport (streamEndReport id e o a) (setStream id none s) = u at h1
    have run : ∀ j x, streamAt u j = some x → j ≠ id ∧ streamAt s j = some x := by
      intro j x hx
      have : streamAt u j = streamAt (setStream id none s) j := by rw [← hu]; unfold streamAt; simp
      rw [this, streamAt_setStream] at hx
      split at hx
      · cases hx
      · rename_i hq; refine ⟨?_, hx⟩; rintro rfl; exact hq ⟨rfl, streamAt_lt he⟩
    have clip : ∀ j, clipAt u j = clipAt s j := by intro j; rw [← hu]; unfold clipAt; simp [setStream]
    unfold handToClip
    have hsrc : e.role = .source → (∀ c, clipAt u e.clip = some c → c.state = .opened) ∧ NoSource u e.clip := by
      intro hr
      refine ⟨?_, ?_⟩
      · intro c hc; obtain ⟨x, h3, h4⟩ := h.source id e he hr; rw [clip, h3] at hc; cases hc; exact h4
      · intro j x hx h2 h3; obtain ⟨q, hx⟩ := run j x hx; exact q (h.one j id x e hx he h2 (by rw [h3, hr]))
    have hdst : ∀ d, e.role = .dest d → d < 4 ∧ (∀ c, clipAt u e.clip = some c → destAt c d = { verdict := .pending, held := none }) ∧ NoDest u e.clip d := by
      intro d hr
      obtain ⟨h0, x, h3, h4⟩ := h.dest id e d he hr
      refine ⟨h0, ?_, ?_⟩
      · intro c hc; rw [clip, h3] at hc; cases hc; exact h4
      · intro j x hx h2 h3; obtain ⟨q, hx⟩ := run j x hx; exact q (h.one j id x e hx he h2 (by rw [h3, hr]))
    cases hr : e.role with
    | source =>
      obtain ⟨a1, a2⟩ := hsrc hr
      have g1 := fun fp => sourceGood_verdicts (fp := fp) h1 a1 a2
      have g2 := fun st p => sourceFailed_verdicts (st := st) (p := p) h1 a2
      cases o
      · exact g1 _
      all_goals exact g2 _ _
    | dest d =>
      obtain ⟨a0, a1, a2⟩ := hdst d hr
      have g1 := fun fp => destGood_verdicts (fp := fp) h1 a0 a1 a2
      have g2 := destFailed_verdicts h1 a0 a1 a2
      cases o
      · exact g1 _
      all_goals exact g2

theorem streamBeat_verdicts {id a d st m s} (h : ClipLaw s) : ClipLaw (streamBeat id a d st m s).1 := by
  unfold streamBeat; split
  · exact h
  · rename_i e he
    split
    · exact endStream_verdicts h
    · dsimp only
      rename_i n _
      have := (setStream_sameClips he (e' := { takenStream e d st n with outstanding := if (!m.contains (.stream e.serial)) = true then e.outstanding + 1 else e.outstanding }) rfl).law h
      split
      · exact endStream_verdicts this
      · exact this

theorem streamResponse_verdicts {n ok s} (h : ClipLaw s) : ClipLaw (streamResponse n ok s) := by
  unfold streamResponse; split
  · unfold noteResponse; split
    · exact h
    · dsimp only
      split
      · exact (raiseFault_sameClips _ _ _).law (SameClips.law (s := s) (.of rfl rfl) h)
      · exact SameClips.law (s := s) (.of rfl rfl) h
  · split
    · exact h
    · rename_i e he
      dsimp only
      have := (setStream_sameClips he (e' := { e with outstanding := e.outstanding - 1 }) rfl).law h
      split
      · exact this
      · exact endStream_verdicts this

theorem VerdictLaw.fresh {c : Clip} (h1 : c.state = .opened) (h2 : c.dests = List.replicate 4 Dest.empty)
    (h3 : c.matchCount = 0) : VerdictLaw c := by
  refine ⟨by simp [h2], by rw [h2, h3]; rfl, fun _ => h3, ?_, ?_⟩
  · rw [h1]; simp
  · rw [h1]; simp

theorem freeStream_spec {s id} (h : freeStream s = some id) : streamAt s id = none ∧ id < s.su.table.length := by
  unfold freeStream at h
  obtain ⟨h1, h2, -⟩ := List.findIdx?_eq_some_iff_getElem.1 h
  exact ⟨by unfold streamAt; rw [List.getD_eq_getElem _ _ h1]; simpa using h2, h1⟩

theorem freeClip_spec {s i} (h : freeClip s = some i) : clipAt s i = none ∧ i < s.ct.clips.length := by
  unfold freeClip at h
  obtain ⟨h1, h2, -⟩ := List.findIdx?_eq_some_iff_getElem.1 h
  exact ⟨by unfold clipAt; rw [List.getD_eq_getElem _ _ h1]; simpa using h2, h1⟩

theorem roleOf_dest {r d x} (h : roleOf r d = some (.dest x)) : x < 4 := by
  unfold roleOf at h; split at h
  · simp at h
  · split at h
    · simp at h; omega
    · simp at h
  · simp at h

theorem streamOpen_verdicts {c r d b l x s} (h : ClipLaw s) : ClipLaw (streamOpenAct c r d b l x s).1 := by
  unfold streamOpenAct; dsimp only [refuse]; split
  · exact h
  · rename_i q hq
    split
    · exact h
    · split
      · exact h
      · rename_i y hy
        split
        · exact h
        · rename_i id hid
          obtain ⟨hn, hlt⟩ := freeStream_spec hid
          split
          · exact h
          · rename_i ht
            split
            · exact h
            · unfold openStream
              dsimp only
              generalize hE : openedStream s c q b l x = E
              have hcE : E.clip = c := by rw [← hE]; rfl
              have hrE : E.role = q := by rw [← hE]; rfl
              have hat : ∀ j, streamAt (setStream id (some E) s) j = if j = id then some E else streamAt s j := by
                intro j; rw [streamAt_setStream]; simp [hlt]
              have hv := h.verdicts c y hy
              cases q with
              | source =>
                rw [hrE]; dsimp only
                unfold streamRoleTest at ht
                dsimp only at ht
                split at ht
                · cases ht
                rename_i ht1
                split at ht
                · cases ht
                rename_i ht2
                have nos : NoSource s c := by
                  intro j e he h1 h2
                  have hf : sourceRunning s c = false := by simp at ht1; exact ht1.2.2
                  have := running_false hf he
                  simp [h1, h2] at this
                have base : ∀ c', VerdictLaw c' → c'.state = .opened → (∀ j e d, streamAt s j = some e → e.clip = c → e.role = .dest d → destAt c' d = { verdict := .pending, held := none }) →
                    ClipLaw (setClip c (some c') (setStream id (some E) s)) := by
                  intro c' hv' ho hd
                  have hy' : clipAt (setStream id (some E) s) c = some y := hy
                  refine ⟨?_, ?_, ?_, ?_⟩
                  · intro j z hz; rw [clipAt_set hy'] at hz; split at hz
                    · cases hz; exact hv'
                    · exact h.verdicts j z hz
                  · intro i j e f he hf h1 h2
                    change streamAt (setStream id (some E) s) i = _ at he
                    change streamAt (setStream id (some E) s) j = _ at hf
                    rw [hat] at he hf
                    split at he <;> split at hf
                    · simp_all
                    · cases he; exact (nos j f hf (by rw [← h1, hcE]) (by rw [← h2, hrE])).elim
                    · cases hf; exact (nos i e he (by rw [h1, hcE]) (by rw [h2, hrE])).elim
                    · exact h.one i j e f he hf h1 h2
                  · intro i e he hr
                    change streamAt (setStream id (some E) s) i = _ at he
                    rw [hat] at he
                    rw [clipAt_set hy']
                    split at he
                    · cases he; rw [if_pos hcE]; exact ⟨c', rfl, ho⟩
                    · split
                      · exact ⟨c', rfl, ho⟩
                      · exact h.source i e he hr
                  · intro i e d he hr
                    change streamAt (setStream id (some E) s) i = _ at he
                    rw [hat] at he
                    rw [clipAt_set hy']
                    split at he
                    · cases he; rw [hrE] at hr; cases hr
                    · obtain ⟨h0, z, h3, h4⟩ := h.dest i e d he hr
                      refine ⟨h0, ?_⟩
                      split
                      · rename_i hq'; exact ⟨c', rfl, hd i e d he hq' hr⟩
                      · exact ⟨z, h3, h4⟩
                unfold sourceOpened
                rw [hcE]
                have hat2 : clipAt ((setStream id (some E) s).withSu { (setStream id (some E) s).su with openSerial := wrap32 (setStream id (some E) s).su.openSerial 1 }) c = some y := hy
                rw [hat2]
                dsimp only
                split
                · rename_i hsp
                  apply (computeClipLamp_sameClips _ _).law
                  apply (reportClip_sameClips _ _ _ _).law
                  have hrun : streamRunning s c = false := by simp at ht2; exact ht2 hsp
                  refine SameClips.law (s := setClip c (some (reopenedClip _ y)) (setStream id (some E) s)) ?_ (base (reopenedClip s y) ?_ rfl ?_)
                  · exact .of rfl rfl
                  · exact .fresh rfl rfl rfl
                  · intro j e d he h1 h2
                    have := running_false hrun he
                    simp [h1] at this
                · rename_i hsp
                  apply (computeClipLamp_sameClips _ _).law
                  have hop : y.state = .opened := by
                    simp at ht1
                    cases hst : y.state <;> simp_all
                  refine SameClips.law (s := setClip c (some y) (setStream id (some E) s)) ?_ (base y hv hop ?_)
                  · refine ⟨fun j => ?_, fun _ => rfl⟩
                    rw [clipAt_set (s := setStream id (some E) s) hy]
                    split
                    · rename_i q; subst q; show (clipAt s j).map clipCore = _; rw [hy]
                    · rfl
                  · intro j e d he h1 h2
                    obtain ⟨-, z, h3, h4⟩ := h.dest j e d he h2
                    rw [h1, hy] at h3; cases h3; exact h4
              | dest w =>
                rw [hrE]; dsimp only
                have hw4 := roleOf_dest hq
                unfold streamRoleTest at ht
                dsimp only at ht
                split at ht
                · cases ht
                rename_i ht1
                split at ht
                · cases ht
                rename_i ht2
                split at ht
                · cases ht
                rename_i ht3
                have nod : NoDest s c w := by
                  intro j e he h1 h2
                  have hf : destRunning s c w = false := by simpa using ht3
                  have := running_false hf he
                  simp [h1, h2] at this
                unfold destOpened
                rw [hcE]
                have hat2 : clipAt ((setStream id (some E) s).withSu { (setStream id (some E) s).su with openSerial := wrap32 (setStream id (some E) s).su.openSerial 1 }) c = some y := hy
                rw [hat2]
                dsimp only
                apply (reportClip_sameClips _ _ _ _).law
                refine SameClips.law (s := setClip c (some (withDest y w { verdict := .pending, held := none })) (setStream id (some E) s)) (.of rfl rfl) ?_
                have hy' : clipAt (setStream id (some E) s) c = some y := hy
                have hnm : isMatch (destAt y w) = false := by simpa [isMatch] using ht2
                refine ⟨?_, ?_, ?_, ?_⟩
                · intro j z hz; rw [clipAt_set hy'] at hz; split at hz
                  · cases hz; exact hv.withDest hw4 hnm rfl (.inl rfl)
                  · exact h.verdicts j z hz
                · intro i j e f he hf h1 h2
                  change streamAt (setStream id (some E) s) i = _ at he
                  change streamAt (setStream id (some E) s) j = _ at hf
                  rw [hat] at he hf
                  split at he <;> split at hf
                  · simp_all
                  · cases he; exact (nod j f hf (by rw [← h1, hcE]) (by rw [← h2, hrE])).elim
                  · cases hf; exact (nod i e he (by rw [h1, hcE]) (by rw [h2, hrE])).elim
                  · exact h.one i j e f he hf h1 h2
                · intro i e he hr
                  change streamAt (setStream id (some E) s) i = _ at he
                  rw [hat] at he
                  rw [clipAt_set hy']
                  split at he
                  · cases he; rw [hrE] at hr; cases hr
                  · obtain ⟨z, h3, h4⟩ := h.source i e he hr
                    split
                    · rename_i hq'; rw [hq', hy] at h3; cases h3; exact ⟨_, rfl, h4⟩
                    · exact ⟨z, h3, h4⟩
                · intro i e d he hr
                  change streamAt (setStream id (some E) s) i = _ at he
                  rw [hat] at he
                  rw [clipAt_set hy']
                  split at he
                  · cases he; rw [hrE] at hr; cases hr
                    refine ⟨hw4, ?_⟩
                    rw [if_pos hcE]
                    exact ⟨_, rfl, by rw [destAt_set hv.dests hw4, if_pos rfl]⟩
                  · obtain ⟨h0, z, h3, h4⟩ := h.dest i e d he hr
                    refine ⟨h0, ?_⟩
                    split
                    · rename_i hq'; rw [hq', hy] at h3; cases h3
                      refine ⟨_, rfl, ?_⟩
                      rw [destAt_set hv.dests hw4, h4]; split <;> rfl
                    · exact ⟨z, h3, h4⟩

/-- A clip in use has no stream, when no stream names its index. -/
theorem ClipLaw.putClip {s i o} (h : ClipLaw s) (hn : ∀ j e, streamAt s j = some e → e.clip ≠ i)
    (hv : ∀ c, o = some c → VerdictLaw c) :
    ClipLaw (Machine.setClip i o s) := by
  refine ⟨?_, h.one, ?_, ?_⟩
  · intro j x hx; rw [clipAt_setClip] at hx; split at hx
    · exact hv x hx
    · exact h.verdicts j x hx
  · intro j e he hr
    rw [clipAt_setClip, if_neg (fun q => hn j e he q.1)]; exact h.source j e he hr
  · intro j e d he hr
    rw [clipAt_setClip, if_neg (fun q => hn j e he q.1)]; exact h.dest j e d he hr

theorem ClipLaw.inUse {s j e} (h : ClipLaw s) (he : streamAt s j = some e) : clipAt s e.clip ≠ none := by
  cases hr : e.role with
  | source => obtain ⟨c, h1, _⟩ := h.source j e he hr; rw [h1]; simp
  | dest d => obtain ⟨_, c, h1, _⟩ := h.dest j e d he hr; rw [h1]; simp

theorem clipOpen_verdicts {l k c r s} (h : ClipLaw s) : ClipLaw (clipOpenAct l k c r s).1 := by
  unfold clipOpenAct; dsimp only [refuse]; split
  · exact h
  · split
    · exact h
    · split
      · exact h
      · split
        · exact h
        · rename_i i hi
          obtain ⟨hc, hl⟩ := freeClip_spec hi
          dsimp only
          apply (computeLamp_sameClips _ _).law
          apply (reportClip_sameClips _ _ _ _).law
          apply h.putClip
          · intro j e he q; exact h.inUse he (by rw [q, hc])
          · intro c' hc'; cases hc'; exact .fresh rfl rfl rfl

theorem clipRetire_verdicts {i s} (h : ClipLaw s) : ClipLaw (clipRetireAct i s).1 := by
  unfold clipRetireAct; dsimp only [refuse]; split
  · exact h
  · split
    · exact h
    · rename_i c hc
      split
      · exact h
      · rename_i hr
        unfold retireClip; dsimp only
        apply (computeLamp_sameClips _ _).law
        have hl : SameClips s (forgetClip i (markRetired i (createReport (.clipState i c (some c.state) none .retired) s))) := by
          refine (create_sameClips (.clipState i c (some c.state) none .retired) s).trans ?_
          exact .of rfl rfl
        apply (hl.law h).putClip
        · intro j e he q
          obtain ⟨e', a1, a2⟩ := hl.runSome he
          simp [streamWho] at a2
          have hf : streamRunning s i = false := by simpa using hr
          have := running_false hf a1
          simp [a2.1, q] at this
        · intro c' hc'; cases hc'

theorem faultAck_verdicts {id s} (h : ClipLaw s) : ClipLaw (faultAckAct id s).1 := by
  have key : ∀ o p, SameClips s (subtractCrit o (ackRecords p s)) := fun o p => SameClips.pre (subtractCrit_sameClips o (ackRecords p s)) rfl rfl
  unfold faultAckAct; dsimp only [refuse]; split
  · exact h
  · split
    · exact h
    · split
      · exact (key _ _).law h
      · exact ((key _ _).trans (computeClipLamp_sameClips _ _)).law h

theorem clipFaultsAck_verdicts {c s} (h : ClipLaw s) : ClipLaw (clipFaultsAckAct c s).1 := by
  unfold clipFaultsAckAct; dsimp only [refuse]; split
  · exact h
  · split
    · exact h
    · rename_i y hy
      have hl : SameClips s (setClip c (some { y with critOpen := 0 }) (ackRecords (clipFaultTest c) s)) :=
        SameClips.pre (.setCore (s := ackRecords (clipFaultTest c) s) (c := y) hy rfl) rfl rfl
      split
      · exact hl.law h
      · exact (hl.trans (computeClipLamp_sameClips _ _)).law h

theorem ackFrame_verdicts {c n s} (h : ClipLaw s) : ClipLaw (ackFrame c n s).1 := by
  unfold ackFrame; dsimp only
  exact (SameClips.pre (s := s) ((foldl_sameClips (fun t r => subtractCrit_sameClips (acknowledgedClip r) t) _ (ackRecords (frameFaultTest c n) s)).trans (computeLamps_sameClips _ _)) rfl rfl).law h

theorem fold_verdicts {α} {f : State → α → State} (hf : ∀ t a, ClipLaw t → ClipLaw (f t a)) (l : List α) {t}
    (h : ClipLaw t) : ClipLaw (l.foldl f t) := by
  induction l generalizing t with
  | nil => exact h
  | cons a l ih => exact ih (hf _ _ h)

theorem cardRemoval_verdicts {k s} (h : ClipLaw s) : ClipLaw (cardRemoval k s) := by
  unfold cardRemoval; dsimp only; split
  · apply (computeLamp_sameClips _ _).law
    refine SameClips.law (.of rfl rfl) (s := pullSources k s) ?_
    exact fold_verdicts (fun t a h => endStream_verdicts h) _ h
  · exact h

theorem cardInsertion_verdicts {k s} (h : ClipLaw s) : ClipLaw (cardInsertion k s) := by
  unfold cardInsertion; dsimp only; split
  · exact (computeLamp_sameClips _ _).law (SameClips.law (s := s) (.of rfl rfl) h)
  · exact h

theorem checkInvalid_sameClips (f b s) : SameClips s (checkInvalid f b s) := by
  unfold checkInvalid; split
  · exact .refl _
  · exact raiseFrame_sameClips _ _ _ _

theorem checkNumber_sameClips (f l s) : SameClips s (checkNumber f l s) := by
  unfold checkNumber; repeat' split
  all_goals first | exact .refl _ | exact raiseFrame_sameClips _ _ _ _

theorem checkTimecode_sameClips (f b l c s) : SameClips s (checkTimecode f b l c s) := by
  unfold checkTimecode; dsimp only; split
  · exact raiseFrame_sameClips _ _ _ _
  · exact .refl _

theorem checkFrozen_sameClips (f l c s) : SameClips s (checkFrozen f l c s) := by
  unfold checkFrozen; split
  · exact raiseFrame_sameClips _ _ _ _
  · exact .refl _

theorem checkHistory_sameClips (f c s) : SameClips s (checkHistory f c s) := by
  unfold checkHistory; split
  · exact .refl _
  · exact ((checkNumber_sameClips _ _ _).trans (checkTimecode_sameClips _ _ _ _ _)).trans (checkFrozen_sameClips _ _ _ _)

theorem checkExposure_sameClips (f q s) : SameClips s (checkExposure f q s) := by
  unfold checkExposure; dsimp only; repeat' split
  all_goals first | exact .refl _ | exact .of rfl rfl | exact SameClips.pre (raiseFrame_sameClips _ _ _ _) rfl rfl

theorem tracker_sameClips (f s) : SameClips s (trackerSteps f s) := by
  unfold trackerSteps
  refine (SameClips.trans ?_ (foldl_sameClips (fun t p => ?_) _ _))
  · exact .of (by simp) (by simp)
  · unfold checkStuck; split
    · exact .refl _
    · split
      · exact SameClips.pre (raiseFault_sameClips _ _ _) rfl rfl
      · exact .refl _

theorem unpaired_sameClips (k p h s) : SameClips s (raiseUnpaired k p h s) := raiseFault_sameClips _ _ _

theorem setQueue_sameClips (k q s) : SameClips s (setQueue k q s) := .of rfl rfl

theorem pairFrame_sameClips (k p f h l s) : SameClips s (pairFrame k p f h l s) := by
  unfold pairFrame; dsimp only
  have h1 := (setQueue_sameClips k (p.queue.dropWhile (isEarlier l h.count)) s).trans (foldl_sameClips (fun x r => unpaired_sameClips k p r x) (p.queue.takeWhile (isEarlier l h.count)) _)
  split
  · exact h1.trans (setQueue_sameClips _ _ _)
  · split
    · rename_i fr ot _ _
      refine (h1.trans (setQueue_sameClips k ot _)).trans ?_
      unfold checkExposurePair; dsimp only; generalize setQueue k ot _ = U
      repeat' split
      all_goals first | exact raiseFrame_sameClips _ _ _ U | exact SameClips.refl U
    · exact h1.trans (unpaired_sameClips _ _ _ _)

theorem stereo_sameClips (f c m s) : SameClips s (stereoStep f c m s) := by
  unfold stereoStep; split
  · exact .refl _
  · split
    · exact .refl _
    · have hh : ∀ k p h, SameClips s (holdFrame k p h s) := by
        intro k p h; unfold holdFrame; split
        · split
          · exact ((setQueue_sameClips _ _ _).trans (unpaired_sameClips _ _ _ _)).trans (setQueue_sameClips _ _ _)
          · exact setQueue_sameClips _ _ _
        · exact setQueue_sameClips _ _ _
      dsimp only; split
      · exact hh _ _ _
      · split
        · exact hh _ _ _
        · exact pairFrame_sameClips _ _ _ _ _ _

theorem endFrame_sameClips (k f s) : SameClips s (endFrame k f s) := by
  unfold endFrame trackFrame; dsimp only
  refine SameClips.trans (t := stereoStep _ _ _ _) ?_ (SameClips.of rfl rfl)
  refine SameClips.trans ?_ (stereo_sameClips _ _ _ _)
  refine SameClips.trans ?_ (tracker_sameClips _ _)
  refine SameClips.trans ?_ (checkExposure_sameClips _ _ _)
  refine SameClips.trans ?_ (checkHistory_sameClips _ _ _)
  refine SameClips.trans ?_ (checkInvalid_sameClips _ _ _)
  refine SameClips.post ?_ (by simp; try rfl) (by simp; try rfl)
  exact SameClips.pre (countFrame_sameClips _ _ _) rfl rfl

theorem poolBeat_sameClips (r b i d st p s) : SameClips s (poolBeat r b i d st p s).1 := by
  have ht : ∀ k d, SameClips s (takeHeader k d s) := by
    intro k d; unfold takeHeader; dsimp only
    refine SameClips.post ?_ (by simp; try rfl) (by simp; try rfl)
    have ha : SameClips s (abandonFrame k s) := by
      unfold abandonFrame; split
      · exact raiseFrame_sameClips _ _ _ _
      · exact .refl _
    refine ha.trans ?_
    unfold settleHeader; split
    · exact SameClips.pre (raiseFault_sameClips _ _ _) rfl rfl
    · dsimp only; split
      · exact SameClips.pre (raiseFrame_sameClips _ _ _ _) rfl rfl
      · exact .of rfl rfl
  have hs : ∀ k, SameClips s (spoilHeader k s) := by
    intro k; unfold spoilHeader; dsimp only
    refine SameClips.post ?_ (by simp; try rfl) (by simp; try rfl)
    split
    · exact SameClips.pre (raiseFrame_sameClips _ _ _ _) rfl rfl
    · exact SameClips.pre (raiseFault_sameClips _ _ _) rfl rfl
  unfold poolBeat; dsimp only; split
  · unfold headerBeat; split
    · exact .refl _
    · split
      · exact ht _ _
      · exact hs _
  · unfold bodyBeat; dsimp only; split
    · exact .of rfl rfl
    · split
      · unfold overwriteFrame; exact SameClips.pre (raiseFrame_sameClips _ _ _ _) rfl rfl
      · dsimp only; split
        · exact endFrame_sameClips _ _ _
        · exact .of rfl rfl

theorem doAction_verdicts {a v s} (h : ClipLaw s) : ClipLaw (doAction a v s).1 := by
  unfold doAction; split
  case h_9 => exact ackFrame_verdicts h
  all_goals exact (SameClips.of (by simp) (by simp)).law h

theorem none_map {α β} (l : List (Option α)) (i : Nat) : (l.map (fun _ => (none : Option β))).getD i none = none := by
  rw [List.getD_eq_getElem?_getD, List.getElem?_map]; cases l[i]? <;> rfl

theorem ClipLaw.none {s : State} (h1 : ∀ i, clipAt s i = none) (h2 : ∀ i, streamAt s i = none) : ClipLaw s := by
  refine ⟨?_, ?_, ?_, ?_⟩
  · intro i c hc; rw [h1] at hc; cases hc
  · intro i j e f he; rw [h2] at he; cases he
  · intro i e he; rw [h2] at he; cases he
  · intro i e d he; rw [h2] at he; cases he

theorem replicate_getD {α} (n i : Nat) : (List.replicate n (none : Option α)).getD i none = none := by
  rw [List.getD_eq_getElem?_getD]; by_cases h : i < n <;> simp [h]

end Sys2Proof.Machine
end

