-- ==== Sys2Proof/Laws/Codec.lean ====
section
/-! SUPPORT. Packing the fields of a record and reading one back (Sections 12.1, 12.2). -/

namespace Sys2Proof

/-- Bytes before a list of fields. -/
def widthOf (l : List (Nat × Nat)) : Nat := (l.map (fun f => f.1)).sum

theorem packFields_append (a b : List (Nat × Nat)) :
    packFields (a ++ b) = packFields a + 256 ^ widthOf a * packFields b := by
  induction a with
  | nil => simp [packFields, widthOf]
  | cons f a ih =>
    simp only [List.cons_append, packFields, ih, widthOf, List.map_cons, List.sum_cons, pow_add]
    ring

theorem packFields_lt (a : List (Nat × Nat)) : packFields a < 256 ^ widthOf a := by
  induction a with
  | nil => simp [packFields, widthOf]
  | cons f a ih =>
    simp only [packFields, widthOf, List.map_cons, List.sum_cons, pow_add]
    have h1 : f.2 % 256 ^ f.1 < 256 ^ f.1 := Nat.mod_lt _ (by positivity)
    have h2 : packFields a + 1 ≤ 256 ^ (List.map (fun f => f.1) a).sum := ih
    calc f.2 % 256 ^ f.1 + 256 ^ f.1 * packFields a < 256 ^ f.1 + 256 ^ f.1 * packFields a := by omega
      _ = 256 ^ f.1 * (packFields a + 1) := by ring
      _ ≤ _ := Nat.mul_le_mul_left _ h2

/-- A field of a record is read back as it was written. -/
theorem recordField_pack {w : Nat} (pre post : List (Nat × Nat)) (n : Nat) (x : BitVec w) (hw : w = 8 * n)
    (hl : widthOf (pre ++ fieldOf n x :: post) ≤ 64) (byte : Nat) (hb : byte = widthOf pre) :
    recordField (BitVec.ofNat 512 (packFields (pre ++ fieldOf n x :: post))) byte w = x := by
  apply BitVec.eq_of_toNat_eq
  subst hb
  have hp : packFields (pre ++ fieldOf n x :: post) < 2 ^ 512 := by
    refine lt_of_lt_of_le (packFields_lt _) ?_
    calc 256 ^ widthOf (pre ++ fieldOf n x :: post) ≤ 256 ^ 64 := Nat.pow_le_pow_right (by norm_num) hl
      _ = 2 ^ 512 := by rw [show (512:ℕ) = 8 * 64 from rfl, pow_mul, show (2:ℕ) ^ 8 = 256 from rfl]
  have h8 : ∀ k, 2 ^ (8 * k) = 256 ^ k := fun k => by rw [pow_mul]; norm_num
  have hx : x.toNat < 256 ^ n := by rw [← h8, ← hw]; exact x.isLt
  unfold recordField
  rw [BitVec.extractLsb'_toNat, BitVec.toNat_ofNat, Nat.mod_eq_of_lt hp, Nat.shiftRight_eq_div_pow, h8, packFields_append]
  rw [Nat.add_mul_div_left _ _ (by positivity), Nat.div_eq_of_lt (packFields_lt _), Nat.zero_add]
  rw [show (2:ℕ) ^ w = 256 ^ n by rw [hw, h8]]
  simp only [packFields, fieldOf]
  rw [Nat.add_mul_mod_self_left, Nat.mod_mod, Nat.mod_eq_of_lt hx]


/-- The field with index k of a record is read back as it was written. -/
theorem recordField_at {w : Nat} (k n : Nat) (x : BitVec w) (l : List (Nat × Nat)) (byte : Nat)
    (hk : l[k]? = some (fieldOf n x)) (hw : w = 8 * n) (hl : widthOf l ≤ 64) (hb : widthOf (l.take k) = byte) :
    recordField (BitVec.ofNat 512 (packFields l)) byte w = x := by
  obtain ⟨h, e⟩ := List.getElem?_eq_some_iff.1 hk
  have hs : l = l.take k ++ fieldOf n x :: l.drop (k + 1) := by
    rw [← e, List.cons_getElem_drop_succ, List.take_append_drop]
  have := recordField_pack (l.take k) (l.drop (k + 1)) n x hw (by rw [← hs]; exact hl) byte hb.symm
  rwa [← hs] at this

/-- The command code of a record written. -/
theorem recordField_code (seq : BitVec 32) (c : Nat) (post : List (Nat × Nat)) (hc : c < 65536)
    (hl : widthOf post ≤ 56) :
    recordCode (BitVec.ofNat 512 (packFields ([fieldOf 4 seq, (2, c), (2, 0)] ++ post))) = BitVec.ofNat 16 c := by
  have h := recordField_pack (w := 16) [fieldOf 4 seq] ((2, 0) :: post) 2 (BitVec.ofNat 16 c) rfl
    (by simp [widthOf, fieldOf] at hl ⊢; omega) 4 rfl
  simp only [fieldOf, BitVec.toNat_ofNat, Nat.mod_eq_of_lt hc] at h
  exact h

/-- A record whose code is not in the code table is an UNKNOWN_COMMAND. -/
theorem decodeRecord_unknown (r : BitVec 512) (h : isCommandCode (recordCode r).toNat = false) :
    decodeRecord r = .unknownCommand (recordCode r) := by
  unfold decodeRecord
  split
  case h_35 => rfl
  all_goals (rename_i e; rw [e] at h; cases h)

theorem Rgb.eq_of {α} {a b : Rgb α} (h1 : a.r = b.r) (h2 : a.g = b.g) (h3 : a.b = b.b) : a = b := by
  cases a; cases b; simp_all

theorem Six.eq_of {α} {a b : Six α} (h0 : a.z0 = b.z0) (h1 : a.z1 = b.z1) (h2 : a.z2 = b.z2) (h3 : a.z3 = b.z3)
    (h4 : a.z4 = b.z4) (h5 : a.z5 = b.z5) : a = b := by
  cases a; cases b; simp_all

end Sys2Proof
end

