-- ==== Sys2Proof/Laws/FaultCounts.lean ====
section
/-! SUPPORT. The fault list and crit_open: what keeps `FaultLaw` (R103 to R108), operation by operation. -/

namespace Sys2Proof.Machine

/-- A record that a clip's crit_open counts: NEW, CRITICAL, naming it, not marked retired. -/
def countsOpen (i : Nat) (r : FaultRecord) : Bool := newCritical r && r.clip == some i && !r.retired

theorem critOpen_eq (i s) : critOpenOf (some i) s = ((clipAt s i).map (fun c => c.critOpen)).getD 0 := by
  unfold critOpenOf clipCounts; dsimp only; cases clipAt s i <;> rfl

/-- The fault law sees the fault list, the clips and SU only. -/
theorem FaultLaw.same {s t} (h : FaultLaw s) (hf : t.fl.records = s.fl.records) (hc : t.ct.clips = s.ct.clips)
    (hs : t.su = s.su) : FaultLaw t := by
  obtain ⟨h1,h2,h3,h4⟩ := h
  refine ⟨by rw [hf]; exact h1, ?_, ?_, ?_⟩
  · intro i e he; rw [streamAt_su hs] at he; rw [clipAt_ct hc]; exact h2 i e he
  · intro n hn i hi; rw [hs] at hn; rw [clipAt_ct hc]; exact h3 n hn i hi
  · intro i; rw [hf, critOpen_eq, clipAt_ct hc, ← critOpen_eq]; exact h4 i

/-- SU is as it was, and no clip in use has been freed. -/
structure KeepsClips (s t : State) : Prop where
  su : t.su = s.su
  clip : ∀ i, (clipAt s i).isSome → (clipAt t i).isSome

theorem KeepsClips.refl (s) : KeepsClips s s := ⟨rfl, fun _ h => h⟩

theorem KeepsClips.trans {s t u} (h : KeepsClips s t) (k : KeepsClips t u) :
    KeepsClips s u := ⟨k.su.trans h.su, fun i a => k.clip i (h.clip i a)⟩

/-- The fault law is carried from s to t, with SU and the clips in use kept. -/
def KeepsFaultLaw (s t : State) : Prop := KeepsClips s t ∧ (FaultLaw s → FaultLaw t)

theorem KeepsFaultLaw.refl (s) : KeepsFaultLaw s s := ⟨.refl s, id⟩

theorem KeepsFaultLaw.trans {s t u} (h : KeepsFaultLaw s t) (k : KeepsFaultLaw t u) :
    KeepsFaultLaw s u := ⟨h.1.trans k.1, k.2 ∘ h.2⟩

theorem KeepsFaultLaw.same {s t} (hf : t.fl.records = s.fl.records) (hc : t.ct.clips = s.ct.clips) (hs : t.su = s.su) :
    KeepsFaultLaw s t :=
  ⟨⟨hs, fun i h => by rw [clipAt_ct hc]; exact h⟩, fun h => h.same hf hc hs⟩

theorem KeepsFaultLaw.create (b) {s t} (h : KeepsFaultLaw s t) : KeepsFaultLaw s (createReport b t)
    := h.trans (.same (by simp) (by simp) (by simp))

theorem setCardSlot_clips (k c s) : (setCardSlot k c s).ct.clips = s.ct.clips := rfl

theorem computeLamp_keepsFaultLaw (k) {s t} (h : KeepsFaultLaw s t) : KeepsFaultLaw s (computeLamp k t) := by
  unfold computeLamp changeLamp; split
  · exact KeepsFaultLaw.create _ (h.trans (KeepsFaultLaw.same rfl (setCardSlot_clips _ _ _) rfl))
  · exact h

theorem computeClipLamp_keepsFaultLaw (k) {s t} (h : KeepsFaultLaw s t) : KeepsFaultLaw s (computeClipLamp k t) := by
  unfold computeClipLamp; split
  · exact computeLamp_keepsFaultLaw _ h
  · exact h

theorem setClip_keepsFaultLaw {i c c' s} (h : clipAt s i = some c) (hc : c'.critOpen = c.critOpen) :
    KeepsFaultLaw s (setClip i (some c') s) := by
  refine ⟨⟨rfl, ?_⟩, ?_⟩
  · intro j hj; rw [clipAt_set h]; split <;> simp_all
  · rintro ⟨h1,h2,h3,h4⟩
    refine ⟨h1, ?_, ?_, ?_⟩
    · intro j e he; rw [clipAt_set h]; split
      · rfl
      · exact h2 j e he
    · intro n hn j hj; rw [clipAt_set h]; split
      · rfl
      · exact h3 n hn j hj
    · intro j; rw [critOpen_eq, clipAt_set h]; split
      · rename_i e; subst e; have := h4 j; rw [critOpen_eq, h] at this; simpa [hc] using this
      · rw [← critOpen_eq]; exact h4 j

theorem crit_record (id f i) : countsOpen i (faultRecord id f) = (severityOf f.kind == .critical && f.clip == some i) := by
  simp [countsOpen, faultRecord, newCritical]

theorem list_crit (r l i) : ((listFault r l).1.records.countP (countsOpen i)) ≤ l.records.countP (countsOpen i)
    + (if countsOpen i r then 1 else 0) := by
  unfold listFault
  split
  · simp [List.countP_append, List.countP_cons]
  · split
    · simp only [List.countP_append, List.countP_cons, List.countP_nil]
      have := (List.eraseIdx_sublist l.records ‹_›).countP_le (p := countsOpen i)
      omega
    · simp

theorem list_size (r l) (h : l.records.length ≤ 256) : (listFault r l).1.records.length ≤ 256 := by
  unfold listFault
  split
  · simp; omega
  · split
    · rename_i i hi
      have := (List.findIdx?_eq_some_iff_getElem.1 hi).1
      simp [List.length_eraseIdx, this]; omega
    · exact h

theorem countFault_clip (f s i) : (clipAt s i).isSome → (clipAt (countFault f s) i).isSome := by
  intro h
  unfold countFault; split
  · exact h
  · split
    · exact h
    · rename_i hc; rw [clipAt_set hc]; split <;> simp_all

theorem storeFault_ct (r s) : (storeFault r s).ct = s.ct := rfl

theorem reportFault_keepsFaultLaw (f s) (hc : ∀ i, f.clip = some i → (clipAt s i).isSome) :
    KeepsFaultLaw s (reportFault f s) := by
  unfold reportFault
  dsimp only
  apply KeepsFaultLaw.create
  refine ⟨⟨by simp, ?_⟩, ?_⟩
  · intro i hi; rw [clipAt_ct (by rw [storeFault_ct])]; exact countFault_clip _ _ _ hi
  · intro h
    have hlaw := h
    obtain ⟨h1,h2,h3,h4⟩ := h
    have key : ∀ i, (clipAt s i).isSome → (clipAt (storeFault (faultRecord s.fl.nextId f) (countFault f (takeFaultId s))) i).isSome := by
      intro i hi; rw [clipAt_ct (by rw [storeFault_ct])]; exact countFault_clip _ _ _ hi
    refine ⟨?_, ?_, ?_, ?_⟩
    · exact list_size _ _ (by simpa [takeFaultId] using h1)
    · intro i e he; apply key; apply h2 i e; rw [← he]; exact (streamAt_su (by simp) i).symm
    · intro n hn i hi; apply key; apply h3 n _ i hi; simpa using hn
    · intro i
      have hl := list_crit (faultRecord s.fl.nextId f) (countFault f (takeFaultId s)).fl i
      have hfl : (countFault f (takeFaultId s)).fl.records = s.fl.records := by simp [takeFaultId]
      rw [hfl] at hl
      have h4i : s.fl.records.countP (countsOpen i) ≤ critOpenOf (some i) s := h4 i
      show (listFault (faultRecord s.fl.nextId f) (countFault f (takeFaultId s)).fl).1.records.countP (countsOpen i) ≤ _
      have hsz : (listFault (faultRecord s.fl.nextId f) (countFault f (takeFaultId s)).fl).1.records.countP (countsOpen i) ≤ 256 :=
        Nat.le_trans List.countP_le_length (list_size _ _ (by rw [hfl]; exact h1))
      rw [crit_record] at hl
      rw [critOpen_eq] at h4i
      rw [critOpen_eq, clipAt_ct (s := countFault f (takeFaultId s)) (by rw [storeFault_ct])]
      generalize (listFault (faultRecord s.fl.nextId f) (countFault f (takeFaultId s)).fl).1.records.countP (countsOpen i) = N at hl hsz ⊢
      unfold countFault
      cases hfc : f.clip with
      | none =>
        simp only [hfc] at hl ⊢
        have e : clipAt (takeFaultId s) i = clipAt s i := rfl
        rw [e]
        simp at hl; omega
      | some j =>
        have e : ∀ k, clipAt (takeFaultId s) k = clipAt s k := fun k => rfl
        obtain ⟨c, hcj⟩ := Option.isSome_iff_exists.1 (hc j hfc)
        have hcj' : clipAt (takeFaultId s) j = some c := hcj
        simp only [hfc, hcj'] at hl ⊢
        rw [clipAt_set hcj', e]
        by_cases hij : i = j
        · subst hij
          rw [if_pos rfl]
          rw [hcj] at h4i
          simp only [Option.map_some, Option.getD_some] at h4i ⊢
          unfold countedClip
          cases hs : severityOf f.kind <;> simp only [hs] at hl ⊢
          · simp at hl; omega
          · simp at hl; omega
          · simp [satAdd] at hl ⊢; omega
        · rw [if_neg hij]
          have : (some j == some i) = false := by simp [Ne.symm hij]
          rw [this] at hl; simp at hl; omega

theorem raiseFault_keepsFaultLaw (b f) {s t} (h : KeepsFaultLaw s t) (hc : ∀ i, f.clip = some i → (clipAt t i).isSome) :
    KeepsFaultLaw s (raiseFault b f t) := by
  unfold raiseFault
  dsimp only
  have h1 := h.trans (reportFault_keepsFaultLaw f t hc)
  split
  · exact h1
  · split
    · exact computeClipLamp_keepsFaultLaw _ h1
    · exact h1

theorem heldClip_some {s c l i} (h : heldClip s c l = some i) : (clipAt s i).isSome := by
  unfold heldClip at h
  split at h
  · cases h
  · split at h
    · cases h; rename_i hh; cases hx : clipAt s i <;> simp [hx] at hh ⊢
    · cases h

theorem raiseFrame_keepsFaultLaw (k f d) {s t} (h : KeepsFaultLaw s t) : KeepsFaultLaw s (raiseFrame k f d t) :=
  raiseFault_keepsFaultLaw _ _ h (fun i hi => heldClip_some hi)

theorem reportClip_keepsFaultLaw (i o c) {s t} (h : KeepsFaultLaw s t) : KeepsFaultLaw s (reportClip i o c t) := by
  unfold reportClip; split
  · exact h.create _
  · exact h

theorem KeepsFaultLaw.setClip {s t i c c'} (h : KeepsFaultLaw s t) (hc : clipAt t i = some c)
    (he : c'.critOpen = c.critOpen := by rfl) : KeepsFaultLaw s (setClip i (some c') t) :=
  h.trans (setClip_keepsFaultLaw hc he)

theorem countFrame_keepsFaultLaw (c l) {s t} (h : KeepsFaultLaw s t) : KeepsFaultLaw s (countFrame c l t) := by
  unfold countFrame; split
  · exact h
  · split
    · exact h
    · exact h.setClip ‹_›

theorem sourceOpened_keepsFaultLaw (i) {s t} (h : KeepsFaultLaw s t) : KeepsFaultLaw s (sourceOpened i t) := by
  unfold sourceOpened; split
  · exact h
  · split
    · exact computeClipLamp_keepsFaultLaw _ (reportClip_keepsFaultLaw _ _ _ (h.setClip ‹_›))
    · exact computeClipLamp_keepsFaultLaw _ h

theorem destOpened_keepsFaultLaw (i d) {s t} (h : KeepsFaultLaw s t) : KeepsFaultLaw s (destOpened i d t) := by
  unfold destOpened; split
  · exact h
  · exact reportClip_keepsFaultLaw _ _ _ (h.setClip ‹_›)

theorem raiseMismatches_keepsFaultLaw (i ds) {s t} (h : KeepsFaultLaw s t) (hi : (clipAt t i).isSome) :
    KeepsFaultLaw s (raiseMismatches i ds t) := by
  unfold raiseMismatches
  induction ds generalizing t with
  | nil => exact h
  | cons d ds ih =>
    have h1 : KeepsFaultLaw t (raiseFault false (clipFinding .copyMismatch (some i) d) t) := raiseFault_keepsFaultLaw _ _ (.refl t) (fun j hj => by cases hj; exact hi)
    exact ih (h.trans h1) (h1.1.clip i hi)

theorem verifyIfEnough_keepsFaultLaw (i) {s t} (h : KeepsFaultLaw s t) : KeepsFaultLaw s (verifyIfEnough i t) := by
  unfold verifyIfEnough; split
  · exact h
  · split
    · exact reportClip_keepsFaultLaw _ _ _ (h.setClip ‹_›)
    · exact h

theorem sourceGood_keepsFaultLaw (i fp) {s t} (h : KeepsFaultLaw s t) : KeepsFaultLaw s (sourceGood i fp t) := by
  unfold sourceGood; split
  · exact h
  · rename_i c hc
    dsimp only
    apply computeClipLamp_keepsFaultLaw; apply verifyIfEnough_keepsFaultLaw
    have h1 : KeepsFaultLaw t (reportClip i (some c.state) .sourceFinal (Machine.setClip i (some (sourcedClip fp c)) t)) := reportClip_keepsFaultLaw _ _ _ ((KeepsFaultLaw.refl t).setClip hc)
    exact raiseMismatches_keepsFaultLaw _ _ (h.trans h1) (h1.1.clip i (by simp [hc]))

theorem sourceFailed_keepsFaultLaw (i st p) {s t} (h : KeepsFaultLaw s t) : KeepsFaultLaw s (sourceFailed i st p t) := by
  unfold sourceFailed; split
  · exact h
  · rename_i c hc
    dsimp only
    have h1 : KeepsFaultLaw t (reportClip i (some c.state) .sourceFailed (Machine.setClip i (some (spoiledClip t i c)) t)) := reportClip_keepsFaultLaw _ _ _ ((KeepsFaultLaw.refl t).setClip hc)
    have h2 := raiseFault_keepsFaultLaw false (clipFinding .sourceUnverifiable (some i) st) h1 (fun j hj => by cases hj; exact h1.1.clip i (by simp [hc]))
    split
    · exact computeClipLamp_keepsFaultLaw _ (h.trans h2)
    · exact raiseFault_keepsFaultLaw _ _ (h.trans h2) (fun j hj => by cases hj; exact h2.1.clip i (by simp [hc]))

theorem compareDest_keepsFaultLaw (i c d fp) {s t} (h : KeepsFaultLaw s t) (hc : clipAt t i = some c) :
    KeepsFaultLaw s (compareDest i c d fp t) := by
  unfold compareDest; dsimp only
  have e : (comparedClip c d fp).critOpen = c.critOpen := by unfold comparedClip; split <;> rfl
  split
  · exact computeClipLamp_keepsFaultLaw _ (reportClip_keepsFaultLaw _ _ _ (h.setClip hc e))
  · split
    · exact reportClip_keepsFaultLaw _ _ _ (h.setClip hc e)
    · have h1 : KeepsFaultLaw t (reportClip i (some c.state) .verdict (Machine.setClip i (some (comparedClip c d fp)) t)) := reportClip_keepsFaultLaw _ _ _ ((KeepsFaultLaw.refl t).setClip hc e)
      exact raiseFault_keepsFaultLaw _ _ (h.trans h1) (fun j hj => by cases hj; exact h1.1.clip i (by simp [hc]))

theorem destGood_keepsFaultLaw (i d fp) {s t} (h : KeepsFaultLaw s t) : KeepsFaultLaw s (destGood i d fp t) := by
  unfold destGood; split
  · exact h
  · split
    · exact reportClip_keepsFaultLaw _ _ _ (h.setClip ‹_›)
    · exact compareDest_keepsFaultLaw _ _ _ _ h ‹_›
    · exact compareDest_keepsFaultLaw _ _ _ _ h ‹_›
    · exact reportClip_keepsFaultLaw _ _ _ (h.setClip ‹_›)

theorem destFailed_keepsFaultLaw (i d) {s t} (h : KeepsFaultLaw s t) : KeepsFaultLaw s (destFailed i d t) := by
  unfold destFailed; split
  · exact h
  · exact reportClip_keepsFaultLaw _ _ _ (h.setClip ‹_›)

theorem handToClip_keepsFaultLaw (id e o p) {s t} (h : KeepsFaultLaw s t) : KeepsFaultLaw s (handToClip id e o p t) := by
  unfold handToClip; split
  · exact sourceGood_keepsFaultLaw _ _ h
  · exact sourceFailed_keepsFaultLaw _ _ _ h
  · exact destGood_keepsFaultLaw _ _ _ h
  · exact destFailed_keepsFaultLaw _ _ h

/-- The fault law is carried from s to t, with the clips in use kept. -/
def KeepsNamedClips (s t : State) : Prop := (∀ i, (clipAt s i).isSome → (clipAt t i).isSome) ∧ (FaultLaw s → FaultLaw t)

theorem KeepsFaultLaw.g {s t} (h : KeepsFaultLaw s t) : KeepsNamedClips s t := ⟨h.1.clip, h.2⟩

theorem KeepsNamedClips.refl (s) : KeepsNamedClips s s := ⟨fun _ h => h, id⟩

theorem KeepsNamedClips.trans {s t u} (h : KeepsNamedClips s t) (k : KeepsNamedClips t u) :
    KeepsNamedClips s u := ⟨fun i a => k.1 i (h.1 i a), k.2 ∘ h.2⟩

/-- Changing SU so that each named clip was named by a stream or note before -/
theorem KeepsNamedClips.su {s : State} (u : StreamUnit) (hs : ∀ i e, u.table.getD i none = some e → ∃ j e', streamAt s j = some e' ∧ e'.clip = e.clip)
   (hn : ∀ n ∈ u.closing, ∀ i, n.clip = some i → (∃ m ∈ s.su.closing, m.clip = some i) ∨ (clipAt s i).isSome) : KeepsNamedClips s (s.withSu u) := by
  refine ⟨fun i h => h, ?_⟩
  rintro ⟨h1,h2,h3,h4⟩
  refine ⟨h1, ?_, ?_, h4⟩
  · intro i e he
    obtain ⟨j, e', he', hc⟩ := hs i e he
    rw [← hc]; exact h2 j e' he'
  · intro n hn' i hi
    rcases hn n hn' i hi with ⟨m, hm, hmi⟩ | h
    · exact h3 m hm i hmi
    · exact h

theorem streamAt_set (i e s j) : streamAt (setStream i e s) j = if j = i ∧ i < s.su.table.length then e else streamAt s j := by
  unfold streamAt setStream
  simp only [State.withSu_su, List.getD_eq_getElem?_getD, List.getElem?_set]
  by_cases h : i = j
  · subst h; by_cases hv : i < s.su.table.length
    · simp [hv]
    · simp [hv]
  · simp [h, Ne.symm h]

theorem setStream_keepsNamedClips {i e s} (h : ∀ x, e = some x → ∃ y, streamAt s i = some y ∧ y.clip = x.clip) :
    KeepsNamedClips s (setStream i e s) := by
  refine KeepsNamedClips.su _ ?_ (fun n hn i hi => .inl ⟨n, hn, hi⟩)
  intro j x hx
  have hx' : streamAt (setStream i e s) j = some x := hx
  rw [streamAt_set] at hx'
  split at hx'
  · obtain ⟨y, hy, hc⟩ := h x hx'; exact ⟨i, y, hy, hc⟩
  · exact ⟨j, x, hx', rfl⟩

theorem endStream_keepsNamedClips (id o a p) {s t} (h : KeepsNamedClips s t) (hL : FaultLaw s) :
    KeepsNamedClips s (endStream id o a p t) := by
  unfold endStream; split
  · exact h
  · rename_i e he
    have hc : (clipAt t e.clip).isSome := (h.2 hL).streams id e he
    have h1 : KeepsNamedClips t (handToClip id e o p (createReport (streamEndReport id e o a) (setStream id none t))) :=
      (setStream_keepsNamedClips (i := id) (e := none) (s := t) (fun x hx => by cases hx)).trans (handToClip_keepsFaultLaw _ _ _ _ ((KeepsFaultLaw.refl _).create _)).g
    have h2 := h1.1 _ hc
    unfold keepNote; split
    · refine h.trans (h1.trans (KeepsNamedClips.su _ ?_ ?_))
      · intro i x hx; exact ⟨i, x, hx, rfl⟩
      · intro n hn i hi
        simp only [List.mem_append, List.mem_singleton] at hn
        rcases hn with hn | hn
        · exact .inl ⟨n, hn, hi⟩
        · subst hn; simp [closingNote] at hi; subst hi; exact .inr h2
    · exact h.trans h1

theorem noteResponse_keepsNamedClips (n ok) {s t} (h : KeepsNamedClips s t) (hL : FaultLaw s) :
    KeepsNamedClips s (noteResponse n ok t) := by
  unfold noteResponse; split
  · exact h
  · rename_i x hx
    dsimp only
    have hx' := List.mem_of_find?_eq_some hx
    have h1 : ∀ r, KeepsNamedClips t (t.withSu { t.su with closing := countDown n r t.su.closing }) := by
      intro r
      refine KeepsNamedClips.su _ (fun i e he => ⟨i, e, he, rfl⟩) ?_
      intro y hy i hi
      unfold countDown at hy
      obtain ⟨z, hz, hzy⟩ := List.mem_filterMap.1 hy
      left; refine ⟨z, hz, ?_⟩
      split at hzy
      · split at hzy
        · cases hzy
        · cases hzy; exact hi
      · cases hzy; exact hi
    split
    · refine h.trans ((h1 (!ok && x.outcome == StreamOutcome.good && !x.faultRaised)).trans (KeepsFaultLaw.g (raiseFault_keepsFaultLaw _ _ (.refl _) ?_)))
      intro i hi; exact (h.2 hL).notes x hx' i hi
    · exact h.trans (h1 _)

theorem streamResponse_keepsNamedClips (n ok) {s t} (h : KeepsNamedClips s t) (hL : FaultLaw s) :
    KeepsNamedClips s (streamResponse n ok t) := by
  unfold streamResponse; split
  · exact noteResponse_keepsNamedClips _ _ h hL
  · split
    · exact h
    · rename_i e he
      dsimp only
      have h1 := setStream_keepsNamedClips (e := some { e with outstanding := e.outstanding - 1 }) (fun x hx => ⟨e, he, by cases hx; rfl⟩)
      split
      · exact h.trans h1
      · exact endStream_keepsNamedClips _ _ _ _ (h.trans h1) hL

theorem streamBeat_keepsNamedClips (i a d st m) {s t} (h : KeepsNamedClips s t) (hL : FaultLaw s) :
    KeepsNamedClips s (streamBeat i a d st m t).1 := by
  unfold streamBeat; split
  · exact h
  · rename_i e he
    split
    · exact endStream_keepsNamedClips _ _ _ _ h hL
    · dsimp only
      have key : ∀ e' : Stream, e'.clip = e.clip → KeepsNamedClips s (if e'.expected ≠ 0 ∧ e'.bytes = e'.expected then
          endStream i .good none none (setStream i (some e') t) else setStream i (some e') t) := by
        intro e' hcl
        have h1 := setStream_keepsNamedClips (i := i) (e := some e') (s := t) (fun x hx => ⟨e, he, by cases hx; exact hcl.symm⟩)
        split
        · exact endStream_keepsNamedClips _ _ _ _ (h.trans h1) hL
        · exact h.trans h1
      rename_i n _
      exact key { takenStream e d st n with outstanding := if (!m.contains (Mark.stream e.serial)) = true then e.outstanding + 1 else e.outstanding } rfl

theorem computeLamps_keepsFaultLaw (l) {s t} (h : KeepsFaultLaw s t) : KeepsFaultLaw s (computeLamps l t) := by
  unfold computeLamps
  induction l generalizing t with
  | nil => exact h
  | cons a l ih => exact ih (computeLamp_keepsFaultLaw _ h)

theorem clipAt_ack (p s i) : clipAt (ackRecords p s) i = clipAt s i := rfl

theorem ack_count (p : FaultRecord → Bool) (l : List FaultRecord) (i) :
    (List.map (fun r : FaultRecord => if p r then { r with acked := true } else r) l).countP (countsOpen i)
    = l.countP (fun r => countsOpen i r && !p r) := by
  rw [List.countP_map]
  congr 1; funext r
  simp only [Function.comp]
  split
  · rename_i hp; simp [countsOpen, newCritical, hp]
  · rename_i hp; simp [hp]

theorem countP_split (p : FaultRecord → Bool) (l : List FaultRecord) (i) : l.countP (countsOpen i)
    = l.countP (fun r => countsOpen i r && p r) + l.countP (fun r => countsOpen i r && !p r) := by
  induction l with
  | nil => rfl
  | cons a l ih => simp only [List.countP_cons, ih]; cases countsOpen i a <;> cases p a <;> simp <;> omega

theorem subtractCrit_clips (o s i) : (clipAt s i).isSome → (clipAt (subtractCrit o s) i).isSome := by
  intro h; unfold subtractCrit; split
  · exact h
  · split
    · exact h
    · rename_i hc; rw [clipAt_set hc]; split <;> simp_all

theorem subtractCrit_open (o s i) : critOpenOf (some i) (subtractCrit o s) = critOpenOf (some i)
    s - (if o = some i then 1 else 0) := by
  unfold subtractCrit; split
  · simp
  · rename_i j
    split
    · rename_i hj
      by_cases e : j = i
      · subst e; rw [critOpen_eq, hj]; simp
      · simp [e]
    · rename_i c hc
      rw [critOpen_eq, critOpen_eq, clipAt_set hc]
      by_cases e : i = j
      · subst e; simp [hc]
      · simp [e, Ne.symm e]

theorem ackd_iff (r i) : acknowledgedClip r = some i ↔ countsOpen i r = true := by
  unfold acknowledgedClip countsOpen; split
  · rename_i h; simp [h]
  · rename_i h; simp only [reduceCtorEq, false_iff, Bool.not_eq_true]; simp only [not_and, Bool.not_eq_false] at h
    cases h1 : newCritical r
    · simp
    · simp [h h1]

theorem fold_open (l : List FaultRecord) (s i) : critOpenOf (some i)
    (l.foldl (fun x r => subtractCrit (acknowledgedClip r) x) s) = critOpenOf (some i) s - l.countP (countsOpen i) := by
  induction l generalizing s with
  | nil => simp
  | cons a l ih =>
    rw [List.foldl_cons, ih, subtractCrit_open, List.countP_cons]
    have := ackd_iff a i
    by_cases h : acknowledgedClip a = some i
    · simp [h, this.1 h]; omega
    · have h' : countsOpen i a = false := by cases hh : countsOpen i a; rfl; exact absurd (this.2 hh) h
      simp [h, h']

theorem fold_clips (l : List FaultRecord) (s i) : (clipAt s i).isSome → (clipAt (l.foldl (fun x r => subtractCrit (acknowledgedClip r) x) s) i).isSome := by
  induction l generalizing s with
  | nil => exact id
  | cons a l ih => intro h; exact ih _ (subtractCrit_clips _ _ _ h)

theorem fold_su (l : List FaultRecord) (s : State) : (l.foldl (fun x r => subtractCrit (acknowledgedClip r) x) s).su = s.su ∧ (l.foldl (fun x r => subtractCrit (acknowledgedClip r) x) s).fl = s.fl := by
  induction l generalizing s with
  | nil => exact ⟨rfl, rfl⟩
  | cons a l ih => obtain ⟨h1, h2⟩ := ih (subtractCrit (acknowledgedClip a) s); exact ⟨h1.trans (by simp), h2.trans (by simp)⟩

theorem ackFrame_keepsFaultLaw (c n) {s t} (h : KeepsFaultLaw s t) : KeepsFaultLaw s (ackFrame c n t).1 := by
  unfold ackFrame
  dsimp only
  apply computeLamps_keepsFaultLaw
  refine h.trans ?_
  obtain ⟨e1, e2⟩ := fold_su (t.fl.records.filter (frameFaultTest c n)) (ackRecords (frameFaultTest c n) t)
  refine ⟨⟨e1, fun i hi => fold_clips _ _ _ hi⟩, ?_⟩
  rintro ⟨h1,h2,h3,h4⟩
  refine ⟨?_, ?_, ?_, ?_⟩
  · rw [e2]; simpa [ackRecords] using h1
  · intro i e he; apply fold_clips; rw [streamAt_su e1] at he; exact h2 i e he
  · intro m hm i hi; apply fold_clips; rw [e1] at hm; exact h3 m hm i hi
  · intro i
    rw [e2, fold_open]
    show List.countP (countsOpen i) (List.map _ t.fl.records) ≤ critOpenOf (some i) t - _
    rw [ack_count, List.countP_filter]
    have := countP_split (frameFaultTest c n) t.fl.records i
    have h4i : t.fl.records.countP (countsOpen i) ≤ critOpenOf (some i) t := h4 i
    omega

theorem faultAck_keepsFaultLaw (id s) : KeepsFaultLaw s (faultAckAct id s).1 := by
  unfold faultAckAct; split
  · exact .refl s
  · rename_i r hr
    split
    · exact .refl s
    · dsimp only
      have key : KeepsFaultLaw s (subtractCrit (acknowledgedClip r) (ackRecords (fun x => x.id == id) s)) := by
        refine ⟨⟨by simp, fun i hi => subtractCrit_clips _ _ _ hi⟩, ?_⟩
        rintro ⟨h1,h2,h3,h4⟩
        refine ⟨by simpa [ackRecords] using h1, ?_, ?_, ?_⟩
        · intro i e he; apply subtractCrit_clips; rw [streamAt_su (s := s) (by simp)] at he; exact h2 i e he
        · intro m hm i hi; apply subtractCrit_clips; exact h3 m (by simpa using hm) i hi
        · intro i
          rw [subtractCrit_open]
          have e : (subtractCrit (acknowledgedClip r) (ackRecords (fun x => x.id == id) s)).fl.records = List.map (fun r => if (fun x : FaultRecord => x.id == id) r then { r with acked := true } else r) s.fl.records := by
            simp [ackRecords]
          rw [e]
          have hc : List.countP (countsOpen i) (List.map (fun r => if (fun x : FaultRecord => x.id == id) r then { r with acked := true } else r) s.fl.records) = s.fl.records.countP (fun r => countsOpen i r && !(r.id == id)) := ack_count _ _ _
          change List.countP (countsOpen i) _ ≤ _
          rw [hc]
          have hs := countP_split (fun x => x.id == id) s.fl.records i
          have h4i : s.fl.records.countP (countsOpen i) ≤ critOpenOf (some i) s := h4 i
          have : critOpenOf (some i) (ackRecords (fun x => x.id == id) s) = critOpenOf (some i) s := rfl
          rw [this]
          split
          · rename_i ha
            have : 0 < s.fl.records.countP (fun r => countsOpen i r && r.id == id) := by
              rw [List.countP_pos_iff]
              exact ⟨r, List.mem_of_find?_eq_some hr, by simp [(ackd_iff r i).1 ha]; simpa using List.find?_some hr⟩
            omega
          · omega
      split
      · exact key
      · exact computeClipLamp_keepsFaultLaw _ key

theorem clipFaultsAck_keepsFaultLaw (c s) : KeepsFaultLaw s (clipFaultsAckAct c s).1 := by
  unfold clipFaultsAckAct; split
  · exact .refl s
  · split
    · exact .refl s
    · rename_i x hx
      dsimp only
      have key : KeepsFaultLaw s (Machine.setClip c (some { x with critOpen := 0 }) (ackRecords (clipFaultTest c) s)) := by
        have hx' : clipAt (ackRecords (clipFaultTest c) s) c = some x := hx
        refine ⟨⟨rfl, fun i hi => ?_⟩, ?_⟩
        · rw [clipAt_set hx']; split
          · rfl
          · exact hi
        · rintro ⟨h1,h2,h3,h4⟩
          refine ⟨by simpa [ackRecords, Machine.setClip] using h1, ?_, ?_, ?_⟩
          · intro i e he; rw [clipAt_set hx']; split
            · rfl
            · exact h2 i e he
          · intro m hm i hi; rw [clipAt_set hx']; split
            · rfl
            · exact h3 m hm i hi
          · intro i
            show List.countP (countsOpen i) (List.map _ s.fl.records) ≤ _
            rw [ack_count, critOpen_eq, clipAt_set hx']
            by_cases e : i = c
            · subst e
              simp only [if_true, Option.map_some, Option.getD_some, Nat.le_zero]
              rw [List.countP_eq_zero]
              intro a ha hb
              simp only [countsOpen, clipFaultTest, newCritical] at hb
              simp at hb; obtain ⟨⟨⟨⟨b1, b2⟩, b3⟩, b4⟩, b5⟩ := hb
              rw [b1, b3, b4] at b5; simp at b5
            · rw [if_neg e]
              have h4i : s.fl.records.countP (countsOpen i) ≤ critOpenOf (some i) s := h4 i
              rw [critOpen_eq] at h4i
              refine Nat.le_trans ?_ h4i
              exact List.countP_mono_left (by simp; tauto)
      split
      · exact key
      · exact computeClipLamp_keepsFaultLaw _ key

theorem clipOpen_keepsNamedClips (l k c r s) : KeepsNamedClips s (clipOpenAct l k c r s).1 := by
  unfold clipOpenAct; dsimp only [refuse]; split
  · exact .refl s
  · split
    · exact .refl s
    · split
      · exact .refl s
      · split
        · exact .refl s
        · rename_i i hi
          have hi' : clipAt s i = none ∧ i < s.ct.clips.length := by
            unfold freeClip at hi
            obtain ⟨h1, h2, -⟩ := List.findIdx?_eq_some_iff_getElem.1 hi
            refine ⟨?_, h1⟩
            unfold clipAt; rw [List.getD_eq_getElem _ _ h1]; simpa using h2
          refine KeepsNamedClips.trans ?_ (computeLamp_keepsFaultLaw _ (reportClip_keepsFaultLaw _ _ _ (.refl _))).g
          refine ⟨?_, ?_⟩
          · intro j hj; rw [clipAt_setClip]; split
            · rfl
            · exact hj
          · rintro ⟨h1,h2,h3,h4⟩
            refine ⟨h1, ?_, ?_, ?_⟩
            · intro j e he; rw [clipAt_setClip]; split
              · rfl
              · exact h2 j e he
            · intro m hm j hj; rw [clipAt_setClip]; split
              · rfl
              · exact h3 m hm j hj
            · intro j
              have := h4 j
              rw [critOpen_eq] at this ⊢
              rw [clipAt_setClip]; split
              · rename_i e; obtain ⟨rfl, -⟩ := e; rw [hi'.1] at this; exact Nat.le_trans this (Nat.zero_le _)
              · exact this

theorem clipRetire_L (i s) (h : FaultLaw s) : FaultLaw (clipRetireAct i s).1 := by
  unfold clipRetireAct; dsimp only [refuse]; split
  · exact h
  · split
    · exact h
    · rename_i c hc
      split
      · exact h
      · rename_i hr
        unfold retireClip
        dsimp only
        refine (computeLamp_keepsFaultLaw _ (.refl _)).2 ?_
        have h0 := (KeepsFaultLaw.create (.clipState i c (some c.state) none .retired) (.refl s)).2 h
        generalize hu : createReport (.clipState i c (some c.state) none .retired) s = u at *
        have hcu : clipAt u i = some c := by rw [← hc, ← hu]; exact clipAt_ct (by simp) i
        have hru : streamRunning u i = false := by rw [← hu]; simpa [streamRunning] using hr
        obtain ⟨h1,h2,h3,h4⟩ := h0
        have hlt := clipAt_lt hcu
        have hcl : ∀ j, clipAt (Machine.setClip i none (forgetClip i (markRetired i u))) j = if j = i then none else clipAt u j := by
          intro j; rw [clipAt_setClip]
          have : i < (forgetClip i (markRetired i u)).ct.clips.length := hlt
          simp only [this, and_true]; rfl
        refine ⟨by simpa [Machine.setClip, forgetClip, markRetired] using h1, ?_, ?_, ?_⟩
        · intro j e he
          have he' : streamAt u j = some e := he
          rw [hcl]; rw [if_neg]
          · exact h2 j e he'
          · intro hh
            unfold streamRunning at hru
            rw [List.any_eq_false] at hru
            unfold streamAt at he'
            rw [List.getD_eq_getElem?_getD] at he'
            cases hx : u.su.table[j]? with
            | none => rw [hx] at he'; cases he'
            | some y => rw [hx] at he'; simp at he'; subst he'; exact hru _ (List.mem_of_getElem? hx) (by simp [hh])
        · intro m hm j hj
          have hm' : m ∈ u.su.closing.map (fun n => if n.clip = some i then { n with clip := none } else n) := hm
          obtain ⟨n, hn, rfl⟩ := List.mem_map.1 hm'
          rw [hcl]
          split at hj
          · cases hj
          · rename_i hne
            rw [if_neg]
            · exact h3 n hn j hj
            · rintro rfl; exact hne hj
        · intro j
          rw [critOpen_eq, hcl]
          show List.countP (countsOpen j) (u.fl.records.map (fun r => if r.clip == some i && !r.retired then { r with retired := true } else r)) ≤ _
          rw [List.countP_map]
          by_cases e : j = i
          · subst e
            simp only [if_true, Option.map_none, Option.getD_none, Nat.le_zero]
            rw [List.countP_eq_zero]
            intro a ha hb
            simp only [Function.comp] at hb
            split at hb
            · simp [countsOpen] at hb
            · rename_i hn; simp [countsOpen] at hb hn; exact absurd (hn hb.1.2) (by simp [hb.2])
          · rw [if_neg e, ← critOpen_eq]
            refine Nat.le_trans (List.countP_mono_left ?_) (h4 j)
            intro a ha hb
            simp only [Function.comp] at hb
            split at hb
            · rename_i hn; simp [countsOpen] at hb
            · exact hb

theorem streamOpen_keepsNamedClips (c r d b l x s) : KeepsNamedClips s (streamOpenAct c r d b l x s).1 := by
  unfold streamOpenAct; dsimp only [refuse]; split
  · exact .refl s
  · split
    · exact .refl s
    · split
      · exact .refl s
      · rename_i hclip
        split
        · exact .refl s
        · split
          · exact .refl s
          · split
            · exact .refl s
            · unfold openStream
              dsimp only
              rename_i id hid _ _ _
              generalize hE : openedStream s c _ b l x = E
              have hcE : E.clip = c := by rw [← hE]; rfl
              have hsome : (clipAt s E.clip).isSome := by rw [hcE, hclip]; rfl
              have h1 : KeepsNamedClips s ((setStream id (some E) s).withSu { (setStream id (some E) s).su with openSerial := wrap32 (setStream id (some E) s).su.openSerial 1 }) := by
                refine ⟨fun i hi => hi, ?_⟩
                rintro ⟨h1,h2,h3,h4⟩
                refine ⟨h1, ?_, h3, h4⟩
                intro j e he
                have he' : streamAt (setStream id (some E) s) j = some e := he
                rw [streamAt_set] at he'
                split at he'
                · cases he'; exact hsome
                · exact h2 j e he'
              split
              · exact h1.trans (sourceOpened_keepsFaultLaw _ (.refl _)).g
              · exact h1.trans (destOpened_keepsFaultLaw _ _ (.refl _)).g

theorem checkInvalid_keepsFaultLaw (f b) {s t} (h : KeepsFaultLaw s t) : KeepsFaultLaw s (checkInvalid f b t)
    := by unfold checkInvalid; split; exact h; exact raiseFrame_keepsFaultLaw _ _ _ h

theorem checkNumber_keepsFaultLaw (f b) {s t} (h : KeepsFaultLaw s t) : KeepsFaultLaw s (checkNumber f b t) := by
  unfold checkNumber; repeat' split
  · exact h
  all_goals exact raiseFrame_keepsFaultLaw _ _ _ h

theorem checkTimecode_keepsFaultLaw (f b l c) {s t} (h : KeepsFaultLaw s t) : KeepsFaultLaw s (checkTimecode f b l c t)
    := by
  unfold checkTimecode; dsimp only; split
  · exact raiseFrame_keepsFaultLaw _ _ _ h
  · exact h

theorem checkFrozen_keepsFaultLaw (f b l) {s t} (h : KeepsFaultLaw s t) : KeepsFaultLaw s (checkFrozen f b l t) := by
  unfold checkFrozen; split
  · exact raiseFrame_keepsFaultLaw _ _ _ h
  · exact h

theorem checkHistory_keepsFaultLaw (f c) {s t} (h : KeepsFaultLaw s t) : KeepsFaultLaw s (checkHistory f c t) := by
  unfold checkHistory; split
  · exact h
  · exact checkFrozen_keepsFaultLaw _ _ _ (checkTimecode_keepsFaultLaw _ _ _ _ (checkNumber_keepsFaultLaw _ _ h))

theorem KeepsFaultLaw.ctu {s t} (x) (h : KeepsFaultLaw s t) : KeepsFaultLaw s (t.withCtu x) := h.trans (.same rfl rfl rfl)

theorem checkExposure_keepsFaultLaw (f q) {s t} (h : KeepsFaultLaw s t) : KeepsFaultLaw s (checkExposure f q t) := by
  unfold checkExposure; dsimp only; repeat' split
  · exact h.ctu _
  · exact h
  · exact raiseFrame_keepsFaultLaw _ _ _ (h.ctu _)
  · exact h

theorem trackCandidates_keepsFaultLaw (f) {s t} (h : KeepsFaultLaw s t) : KeepsFaultLaw s (trackCandidates f t) := by
  refine h.trans (.same (by simp) (by simp) (by simp))

theorem checkStuck_keepsFaultLaw (f p) {s t} (h : KeepsFaultLaw s t) : KeepsFaultLaw s (checkStuck f p t) := by
  unfold checkStuck; split
  · exact h
  · split
    · exact raiseFault_keepsFaultLaw _ _ (h.ctu _) (fun i hi => heldClip_some hi)
    · exact h

theorem trackerSteps_keepsFaultLaw (f) {s t} (h : KeepsFaultLaw s t) : KeepsFaultLaw s (trackerSteps f t) := by
  unfold trackerSteps
  have h := trackCandidates_keepsFaultLaw f h
  generalize trackCandidates f t = u at *
  generalize f.candidates = l
  induction l generalizing u with
  | nil => exact h
  | cons a l ih => exact ih _ (checkStuck_keepsFaultLaw _ _ h)

theorem raiseUnpaired_keepsFaultLaw (k p x) {s t} (h : KeepsFaultLaw s t) : KeepsFaultLaw s (raiseUnpaired k p x t)
    := raiseFault_keepsFaultLaw _ _ h (fun i hi => heldClip_some hi)

theorem setQueue_keepsFaultLaw (k q) {s t} (h : KeepsFaultLaw s t) : KeepsFaultLaw s (setQueue k q t) := h.ctu _

theorem holdFrame_keepsFaultLaw (k p x) {s t} (h : KeepsFaultLaw s t) : KeepsFaultLaw s (holdFrame k p x t) := by
  unfold holdFrame; repeat' split
  · exact setQueue_keepsFaultLaw _ _ (raiseUnpaired_keepsFaultLaw _ _ _ (setQueue_keepsFaultLaw _ _ h))
  · exact setQueue_keepsFaultLaw _ _ h
  · exact setQueue_keepsFaultLaw _ _ h

theorem checkExposurePair_keepsFaultLaw (f p x m) {s t} (h : KeepsFaultLaw s t) :
    KeepsFaultLaw s (checkExposurePair f p x m t) := by
  unfold checkExposurePair; dsimp only; repeat' split
  all_goals first | exact raiseFrame_keepsFaultLaw _ _ _ h | exact h

theorem pairFrame_keepsFaultLaw (k p f x l) {s t} (h : KeepsFaultLaw s t) : KeepsFaultLaw s (pairFrame k p f x l t) := by
  unfold pairFrame
  dsimp only
  have hf : ∀ (es : List HeldRecord) (u : State), KeepsFaultLaw s u → KeepsFaultLaw s (es.foldl (fun x r => raiseUnpaired k p r x) u) := by
    intro es
    induction es with
    | nil => intro u hu; exact hu
    | cons a es ih => intro u hu; exact ih _ (raiseUnpaired_keepsFaultLaw _ _ _ hu)
  have h1 := hf (p.queue.takeWhile (isEarlier l x.count)) _ (setQueue_keepsFaultLaw k (p.queue.dropWhile (isEarlier l x.count)) h)
  split
  · exact setQueue_keepsFaultLaw _ _ h1
  · split
    · exact checkExposurePair_keepsFaultLaw _ _ _ _ (setQueue_keepsFaultLaw _ _ h1)
    · exact raiseUnpaired_keepsFaultLaw _ _ _ h1

theorem stereoStep_keepsFaultLaw (f c m) {s t} (h : KeepsFaultLaw s t) : KeepsFaultLaw s (stereoStep f c m t) := by
  unfold stereoStep; dsimp only; repeat' split
  · exact h
  · exact h
  · exact holdFrame_keepsFaultLaw _ _ _ h
  · exact holdFrame_keepsFaultLaw _ _ _ h
  · exact pairFrame_keepsFaultLaw _ _ _ _ _ h

theorem KeepsFaultLaw.fiu {s t} (x) (h : KeepsFaultLaw s t) : KeepsFaultLaw s (t.withFiu x) := h.trans (.same rfl rfl rfl)

theorem endFrame_keepsFaultLaw (k f) {s t} (h : KeepsFaultLaw s t) : KeepsFaultLaw s (endFrame k f t) := by
  unfold endFrame trackFrame rememberFrame; dsimp only
  apply KeepsFaultLaw.ctu
  apply stereoStep_keepsFaultLaw; apply trackerSteps_keepsFaultLaw; apply checkExposure_keepsFaultLaw; apply checkHistory_keepsFaultLaw; apply checkInvalid_keepsFaultLaw
  unfold reportFrame; split
  · exact (countFrame_keepsFaultLaw _ _ (h.fiu _)).create _
  · exact countFrame_keepsFaultLaw _ _ (h.fiu _)

theorem noticeViews_keepsFaultLaw (k) {s t} (h : KeepsFaultLaw s t) : KeepsFaultLaw s (noticeViews k t)
    := h.trans (.same (by simp) (by simp) (by simp))

theorem settle_keepsFaultLaw (k y f) {s t} (h : KeepsFaultLaw s t) : KeepsFaultLaw s (settleHeader k y f t) := by
  unfold settleHeader; split
  · exact raiseFault_keepsFaultLaw _ _ (h.fiu _) (fun i hi => by simp only [headerFinding, frameFinding] at hi; exact heldClip_some hi)
  · dsimp only; split
    · exact raiseFrame_keepsFaultLaw _ _ _ (h.fiu _)
    · exact h.fiu _

theorem poolBeat_keepsFaultLaw (r b i d st p) {s t} (h : KeepsFaultLaw s t) :
    KeepsFaultLaw s (poolBeat r b i d st p t).1 := by
  unfold poolBeat; dsimp only; split
  · unfold headerBeat; split
    · exact h
    · split
      · unfold takeHeader; dsimp only
        apply noticeViews_keepsFaultLaw; apply settle_keepsFaultLaw
        unfold abandonFrame; split
        · exact raiseFrame_keepsFaultLaw _ _ _ h
        · exact h
      · unfold spoilHeader; dsimp only
        apply noticeViews_keepsFaultLaw
        split
        · exact raiseFrame_keepsFaultLaw _ _ _ (h.fiu _)
        · exact raiseFault_keepsFaultLaw _ _ (h.fiu _) (fun i hi => by cases hi)
  · unfold bodyBeat; dsimp only; split
    · exact h.fiu _
    · split
      · exact raiseFrame_keepsFaultLaw _ _ _ (h.fiu _)
      · dsimp only; split
        · exact endFrame_keepsFaultLaw _ _ h
        · exact h.fiu _

theorem frameResponse_keepsFaultLaw (a k g ok) {s t} (h : KeepsFaultLaw s t) : KeepsFaultLaw s (frameResponse a k g ok t)
    := by
  unfold frameResponse; dsimp only; repeat' split
  · exact h
  · exact raiseFrame_keepsFaultLaw _ _ _ (h.fiu _)
  · exact h
  · exact raiseFrame_keepsFaultLaw _ _ _ (h.fiu _)
  · exact h
  · exact h

theorem doAction_keepsFaultLaw (a v) {s t} (h : KeepsFaultLaw s t) : KeepsFaultLaw s (doAction a v t).1 := by
  unfold doAction; split
  case h_9 => exact ackFrame_keepsFaultLaw _ _ h
  all_goals exact h.trans (.same (by simp) (by simp) (by simp))

theorem act_keepsFaultLaw (k e x) {s t} (h : KeepsFaultLaw s t) : KeepsFaultLaw s (actAndReport k e x t)
    := (doAction_keepsFaultLaw _ _ h).create _

theorem resetUnits_L (s) : FaultLaw (resetUnits s) := by
  have e1 : (resetUnits s).fl.records = [] := by simp [resetUnits]
  have e2 : (resetUnits s).su = resetStreams s.su := by simp [resetUnits]
  refine ⟨by rw [e1]; simp, ?_, ?_, ?_⟩
  · intro i e he
    have : streamAt (resetUnits s) i = none := by
      unfold streamAt; rw [e2]
      simp only [resetStreams, List.getD_eq_getElem?_getD]
      rw [List.getElem?_map]; cases s.su.table[i]? <;> rfl
    rw [this] at he; cases he
  · intro n hn; rw [e2] at hn; simp [resetStreams] at hn
  · intro i; rw [e1]; simp

end Sys2Proof.Machine
end

