-- ==== Sys2Proof/Laws/FrameSlots.lean ====
section
/-! SUPPORT. The frame slots: what keeps `FrameLaw` (R74 to R79), operation by operation. -/

namespace Sys2Proof.Machine

/-- `FrameLaw` of a list of frame slots. -/
def FramesCounted (l : List FrameSlot) : Prop := ∀ f ∈ l, f.counted ≤ f.expected ∧ (f.state = .complete → f.counted = f.expected)

/-- What `FrameLaw` says of one frame slot. -/
def FrameCounted (f : FrameSlot) : Prop := f.counted ≤ f.expected ∧ (f.state = .complete → f.counted = f.expected)

theorem FramesCounted.set {s k f} (h : FramesCounted s.fiu.slots) (hf : k < s.fiu.slots.length → FrameCounted f) :
    FramesCounted (setFrameSlot k f s).fiu.slots := by
  intro g hg
  simp only [setFrameSlot, State.withFiu_fiu] at hg
  by_cases hk : k < s.fiu.slots.length
  · rcases List.mem_or_eq_of_mem_set hg with h1 | h1
    · exact h g h1
    · rw [h1]; exact hf hk
  · rw [List.set_eq_of_length_le (by omega)] at hg; exact h g hg

theorem FramesCounted.at {s : State} (h : FramesCounted s.fiu.slots) (k) : FrameCounted (frameSlotAt s k) := by
  unfold frameSlotAt
  rw [List.getD_eq_getElem?_getD]
  cases e : s.fiu.slots[k]? with
  | none => exact ⟨Nat.le_refl _, fun _ => rfl⟩
  | some f => exact h f (List.mem_of_getElem? e)

theorem countBeat_cnt (s d st b f) : (countBeat s d st b f).counted = f.counted + 1 ∧ (countBeat s d st b f).expected = f.expected ∧ (countBeat s d st b f).state = f.state := by
  have h1 : ∀ (l : List (Nat × Rgb Nat)) z c (g : FrameSlot), (l.foldl (measurePixel z c) g).counted = g.counted ∧ (l.foldl (measurePixel z c) g).expected = g.expected ∧ (l.foldl (measurePixel z c) g).state = g.state := by
    intro l z c
    induction l with
    | nil => intro g; exact ⟨rfl, rfl, rfl⟩
    | cons a l ih => intro g; rw [List.foldl_cons]; obtain ⟨a1, a2, a3⟩ := ih (measurePixel z c g a); exact ⟨a1, a2, a3⟩
  have h2 : ∀ (l : List (Nat × Nat)) (g : FrameSlot), (l.foldl addCandidate g).counted = g.counted ∧ (l.foldl addCandidate g).expected = g.expected ∧ (l.foldl addCandidate g).state = g.state := by
    intro l
    induction l with
    | nil => intro g; exact ⟨rfl, rfl, rfl⟩
    | cons a l ih =>
      intro g; rw [List.foldl_cons]; obtain ⟨a1, a2, a3⟩ := ih (addCandidate g a)
      have : (addCandidate g a).counted = g.counted ∧ (addCandidate g a).expected = g.expected ∧ (addCandidate g a).state = g.state := by
        unfold addCandidate; repeat' split
        all_goals exact ⟨rfl, rfl, rfl⟩
      exact ⟨a1.trans this.1, a2.trans this.2.1, a3.trans this.2.2⟩
  unfold countBeat
  dsimp only
  refine ⟨?_, ?_, ?_⟩
  · rw [(h2 _ _).1, (h1 _ _ _ _).1]
  · rw [(h2 _ _).2.1, (h1 _ _ _ _).2.1]
  · rw [(h2 _ _).2.2, (h1 _ _ _ _).2.2]

theorem FramesCounted.endFrame {k f s} (h : FramesCounted s.fiu.slots) (hf : f.counted = f.expected) :
    FramesCounted (endFrame k f s).fiu.slots := by
  unfold Machine.endFrame
  simp only [trackFrame_frame, reportFrame_frame, countFrame_frame]
  exact h.set (fun _ => ⟨by simp; omega, fun _ => hf⟩)

theorem FramesCounted.settle {k y f s} (h : FramesCounted s.fiu.slots) (hf : f.counted ≤ f.expected) :
    FramesCounted (settleHeader k y f s).fiu.slots := by
  unfold settleHeader
  split
  · simp only [raiseFault_frame]; exact h.set (fun _ => ⟨hf, fun e => by simp at e⟩)
  · have := h.set (k := k) (f := fillingSlot f) (fun _ => ⟨by simp [fillingSlot], fun e => by simp [fillingSlot] at e⟩)
    dsimp only; split
    · simpa using this
    · exact this

theorem FramesCounted.pool {r b i d st p s} (h : FramesCounted s.fiu.slots) :
    FramesCounted (poolBeat r b i d st p s).1.fiu.slots := by
  unfold poolBeat; dsimp only; split
  · unfold headerBeat; split
    · exact h
    · split
      · dsimp only
        unfold takeHeader
        simp only [noticeViews_frame]
        apply FramesCounted.settle
        · simpa using h
        · have : FramesCounted (abandonFrame (Nat.div (beatAddress r i - p.base) p.size) s).fiu.slots := by simpa using h
          exact (this.at _).1
      · unfold spoilHeader; dsimp only
        simp only [noticeViews_frame]
        split <;> simp only [raiseFrame_frame, raiseFault_frame] <;> exact h.set (fun _ => ⟨(h.at _).1, fun e => by simp at e⟩)
  · unfold bodyBeat; dsimp only; split
    · exact h
    · split
      · unfold overwriteFrame
        simp only [raiseFrame_frame]
        exact h.set (fun _ => ⟨(h.at _).1, fun e => by simp at e⟩)
      · rename_i h1 h2
        dsimp only; split
        · rename_i h3
          exact h.endFrame h3.1
        · obtain ⟨e1, e2, e3⟩ := countBeat_cnt s d st (((beatAddress r i - p.base) % p.size - 256) / 32) (frameSlotAt s ((beatAddress r i - p.base) / p.size))
          refine h.set (fun _ => ⟨by omega, fun e => ?_⟩)
          rw [e3] at e
          simp only [not_or, ne_eq, not_not] at h1
          rw [e] at h1; simp at h1

end Sys2Proof.Machine
end

