-- ==== Sys2Proof/Laws/Rep.lean ====
section
/-! SUPPORT. How the operations of the units report: each changes CIR's state and the background queue by creating
reports, none of them a COMPLETION, and in no other way. -/

namespace Sys2Proof.Machine

/-- Whether a report is a COMPLETION. -/
def ReportBody.isCompletion : ReportBody → Bool
  | .completion _ _ _ => true
  | _ => false

/-- t comes of s by creating reports that are no COMPLETION, and by changes that leave CIR's state, the background queue,
the time base and the look slots alone. -/
inductive Rep : State → State → Prop
  | refl (s : State) : Rep s s
  | create {s t : State} (b : ReportBody) (hb : b.isCompletion = false) (h : Rep s t) : Rep s (createReport b t)
  | other {s t u : State} (h : Rep s t) (hc : u.cir = t.cir) (hb : u.tu.background = t.tu.background)
      (ht : u.time = t.time) (hl : u.ls = t.ls) : Rep s u

theorem withTu_rep (x : Transit) {s t : State} (hx : x.background = t.tu.background) (h : Rep s t) :
    Rep s (t.withTu x) := h.other rfl hx rfl rfl

theorem foldl_rep {α : Type} {f : State → α → State} {s t : State} {l : List α}
    (hf : ∀ t a, Rep s t → Rep s (f t a)) (h : Rep s t) : Rep s (l.foldl f t) := by
  induction l generalizing t with
  | nil => exact h
  | cons a l ih => exact ih (hf _ _ h)

theorem withPending_rep (x : List Instr) {s t : State} (h : Rep s t) : Rep s (t.withPending x) := h.other rfl rfl rfl rfl

theorem withSu_rep (x : StreamUnit) {s t : State} (h : Rep s t) : Rep s (t.withSu x) := h.other rfl rfl rfl rfl

theorem withCt_rep (x : ClipTracker) {s t : State} (h : Rep s t) : Rep s (t.withCt x) := h.other rfl rfl rfl rfl

theorem withFiu_rep (x : FrameInspection) {s t : State} (h : Rep s t) : Rep s (t.withFiu x) := h.other rfl rfl rfl rfl

theorem withCtu_rep (x : CameraTrack) {s t : State} (h : Rep s t) : Rep s (t.withCtu x) := h.other rfl rfl rfl rfl

theorem withFl_rep (x : FaultList) {s t : State} (h : Rep s t) : Rep s (t.withFl x) := h.other rfl rfl rfl rfl

theorem withVe_rep (x : List View) {s t : State} (h : Rep s t) : Rep s (t.withVe x) := h.other rfl rfl rfl rfl

theorem withSh_rep (x : List Motion) {s t : State} (h : Rep s t) : Rep s (t.withSh x) := h.other rfl rfl rfl rfl

theorem withPu_rep (x : Panel) {s t : State} (h : Rep s t) : Rep s (t.withPu x) := h.other rfl rfl rfl rfl

theorem withFree_rep (x : Nat) {s t : State} (h : Rep s t) : Rep s (t.withFree x) := h.other rfl rfl rfl rfl

/-! ### Table entries -/

theorem setClip_rep (i : Nat) (e : Option Clip) {s u : State} (hr : Rep s u) : Rep s (setClip i e u) := hr.other rfl rfl rfl rfl

theorem setCardSlot_rep (k : Nat) (c : CardSlot) {s u : State} (hr : Rep s u) : Rep s (setCardSlot k c u) := hr.other rfl rfl rfl rfl

theorem setStream_rep (i : Nat) (e : Option Stream) {s u : State} (hr : Rep s u) : Rep s (setStream i e u) := hr.other rfl rfl rfl rfl

theorem setFrameSlot_rep (k : Nat) (f : FrameSlot) {s u : State} (hr : Rep s u) : Rep s (setFrameSlot k f u) := hr.other rfl rfl rfl rfl

theorem setCamera_rep (c : Nat) (x : Camera) {s u : State} (hr : Rep s u) : Rep s (setCamera c x u) := hr.other rfl rfl rfl rfl

theorem setPair_rep (p : Nat) (x : StereoPair) {s u : State} (hr : Rep s u) : Rep s (setPair p x u) := hr.other rfl rfl rfl rfl

theorem setView_rep (v : Nat) (x : View) {s u : State} (hr : Rep s u) : Rep s (setView v x u) := hr.other rfl rfl rfl rfl

theorem setMotion_rep (v : Nat) (x : Motion) {s u : State} (hr : Rep s u) : Rep s (setMotion v x u) := hr.other rfl rfl rfl rfl

theorem setKey_rep (k : Nat) (x : Key) {s u : State} (hr : Rep s u) : Rep s (setKey k x u) := hr.other rfl rfl rfl rfl

theorem chooseOrder_rep {α : Type} (l : List α) {s u : State} (hr : Rep s u) : Rep s (chooseOrder l u).2 := by
  unfold chooseOrder
  try dsimp only [refuse]
  repeat' split
  all_goals apply_rules [hr, withFree_rep _]

/-! ### Lamps and faults -/

theorem changeLamp_rep (k : Nat) (new : Lamp) {s u : State} (hr : Rep s u) : Rep s (changeLamp k new u) := by
  unfold changeLamp
  try dsimp only [refuse]
  all_goals apply_rules [hr, setCardSlot_rep, Rep.create _ rfl]

theorem computeLamp_rep (k : Nat) {s u : State} (hr : Rep s u) : Rep s (computeLamp k u) := by
  unfold computeLamp
  try dsimp only [refuse]
  repeat' split
  all_goals apply_rules [hr, changeLamp_rep]

theorem computeClipLamp_rep (i : Nat) {s u : State} (hr : Rep s u) : Rep s (computeClipLamp i u) := by
  unfold computeClipLamp
  try dsimp only [refuse]
  repeat' split
  all_goals apply_rules [hr, computeLamp_rep]

theorem computeLamps_rep (ks : List Nat) {s u : State} (hr : Rep s u) : Rep s (computeLamps ks u) := by
  unfold computeLamps
  try dsimp only [refuse]
  all_goals apply_rules [hr, computeLamp_rep, foldl_rep]
  all_goals (intro _ _ hq; apply_rules [hq, computeLamp_rep, foldl_rep])

theorem takeFaultId_rep  {s u : State} (hr : Rep s u) : Rep s (takeFaultId u) := hr.other rfl rfl rfl rfl

theorem countFault_rep (f : Finding) {s u : State} (hr : Rep s u) : Rep s (countFault f u) := by
  unfold countFault
  try dsimp only [refuse]
  repeat' split
  all_goals apply_rules [hr, setClip_rep]

theorem storeFault_rep (r : FaultRecord) {s u : State} (hr : Rep s u) : Rep s (storeFault r u) := hr.other rfl rfl rfl rfl

theorem reportFault_rep (f : Finding) {s u : State} (hr : Rep s u) : Rep s (reportFault f u) := by
  unfold reportFault
  try dsimp only [refuse]
  all_goals apply_rules [hr, takeFaultId_rep, countFault_rep, storeFault_rep, Rep.create _ rfl]

theorem raiseFault_rep (b : Bool) (f : Finding) {s u : State} (hr : Rep s u) : Rep s (raiseFault b f u) := by
  unfold raiseFault
  try dsimp only [refuse]
  repeat' split
  all_goals apply_rules [hr, computeClipLamp_rep, reportFault_rep]

theorem subtractCrit_rep (c : Option Nat) {s u : State} (hr : Rep s u) : Rep s (subtractCrit c u) := by
  unfold subtractCrit
  try dsimp only [refuse]
  repeat' split
  all_goals apply_rules [hr, setClip_rep]

theorem ackRecords_rep (p : FaultRecord → Bool) {s u : State} (hr : Rep s u) : Rep s (ackRecords p u) := hr.other rfl rfl rfl rfl

theorem faultAckAct_rep (id : Nat) {s u : State} (hr : Rep s u) : Rep s (faultAckAct id u).1 := by
  unfold faultAckAct
  try dsimp only [refuse]
  repeat' split
  all_goals apply_rules [hr, computeClipLamp_rep, subtractCrit_rep, ackRecords_rep]

theorem clipFaultsAckAct_rep (c : Nat) {s u : State} (hr : Rep s u) : Rep s (clipFaultsAckAct c u).1 := by
  unfold clipFaultsAckAct
  try dsimp only [refuse]
  repeat' split
  all_goals apply_rules [hr, setClip_rep, computeClipLamp_rep, ackRecords_rep]

theorem ackFrame_rep (c n : Nat) {s u : State} (hr : Rep s u) : Rep s (ackFrame c n u).1 := by
  unfold ackFrame
  try dsimp only [refuse]
  all_goals apply_rules [hr, computeLamps_rep, subtractCrit_rep, ackRecords_rep, foldl_rep]
  all_goals (intro _ _ hq; apply_rules [hq, computeLamps_rep, subtractCrit_rep, ackRecords_rep, foldl_rep])

theorem markRetired_rep (c : Nat) {s u : State} (hr : Rep s u) : Rep s (markRetired c u) := hr.other rfl rfl rfl rfl

/-! ### Clips -/

theorem reportClip_rep (i : Nat) (o : Option ClipState) (c : ClipCause) {s u : State} (hr : Rep s u) : Rep s (reportClip i o c u) := by
  unfold reportClip
  try dsimp only [refuse]
  repeat' split
  all_goals apply_rules [hr, Rep.create _ rfl]

theorem countFrame_rep (c : Option Nat) (l : Nat) {s u : State} (hr : Rep s u) : Rep s (countFrame c l u) := by
  unfold countFrame
  try dsimp only [refuse]
  repeat' split
  all_goals apply_rules [hr, setClip_rep]

theorem sourceOpened_rep (i : Nat) {s u : State} (hr : Rep s u) : Rep s (sourceOpened i u) := by
  unfold sourceOpened
  try dsimp only [refuse]
  repeat' split
  all_goals apply_rules [hr, setClip_rep, computeClipLamp_rep, reportClip_rep]

theorem destOpened_rep (i d : Nat) {s u : State} (hr : Rep s u) : Rep s (destOpened i d u) := by
  unfold destOpened
  try dsimp only [refuse]
  repeat' split
  all_goals apply_rules [hr, setClip_rep, reportClip_rep]

theorem raiseMismatches_rep (i : Nat) (ds : List Nat) {s u : State} (hr : Rep s u) : Rep s (raiseMismatches i ds u) := by
  unfold raiseMismatches
  try dsimp only [refuse]
  all_goals apply_rules [hr, raiseFault_rep, foldl_rep]
  all_goals (intro _ _ hq; apply_rules [hq, raiseFault_rep, foldl_rep])

theorem verifyIfEnough_rep (i : Nat) {s u : State} (hr : Rep s u) : Rep s (verifyIfEnough i u) := by
  unfold verifyIfEnough
  try dsimp only [refuse]
  repeat' split
  all_goals apply_rules [hr, setClip_rep, reportClip_rep]

theorem sourceGood_rep (i : Nat) (fp : Fingerprint) {s u : State} (hr : Rep s u) : Rep s (sourceGood i fp u) := by
  unfold sourceGood
  try dsimp only [refuse]
  repeat' split
  all_goals apply_rules [hr, setClip_rep, computeClipLamp_rep, reportClip_rep, raiseMismatches_rep, verifyIfEnough_rep]

theorem sourceFailed_rep (i k : Nat) (p : Option Nat) {s u : State} (hr : Rep s u) : Rep s (sourceFailed i k p u) := by
  unfold sourceFailed
  try dsimp only [refuse]
  repeat' split
  · exact hr
  · refine computeClipLamp_rep _ (raiseFault_rep _ _ (reportClip_rep _ _ _ (setClip_rep _ _ hr)))
  · refine raiseFault_rep _ _ (raiseFault_rep _ _ (reportClip_rep _ _ _ (setClip_rep _ _ hr)))

theorem compareDest_rep (i : Nat) (c : Clip) (d : Nat) (fp : Fingerprint) {s u : State} (hr : Rep s u) : Rep s (compareDest i c d fp u) := by
  unfold compareDest
  try dsimp only [refuse]
  repeat' split
  all_goals apply_rules [hr, setClip_rep, computeClipLamp_rep, raiseFault_rep, reportClip_rep]

theorem destGood_rep (i d : Nat) (fp : Fingerprint) {s u : State} (hr : Rep s u) : Rep s (destGood i d fp u) := by
  unfold destGood
  try dsimp only [refuse]
  repeat' split
  all_goals apply_rules [hr, setClip_rep, reportClip_rep, compareDest_rep]

theorem destFailed_rep (i d : Nat) {s u : State} (hr : Rep s u) : Rep s (destFailed i d u) := by
  unfold destFailed
  try dsimp only [refuse]
  repeat' split
  all_goals apply_rules [hr, setClip_rep, reportClip_rep]

theorem clipOpenAct_rep (label slot camera required : Nat) {s u : State} (hr : Rep s u) : Rep s (clipOpenAct label slot camera required u).1 := by
  unfold clipOpenAct
  try dsimp only [refuse]
  repeat' split
  all_goals apply_rules [hr, setClip_rep, computeLamp_rep, reportClip_rep]

theorem forgetClip_rep (i : Nat) {s u : State} (hr : Rep s u) : Rep s (forgetClip i u) := hr.other rfl rfl rfl rfl

theorem retireClip_rep (i : Nat) (c : Clip) {s u : State} (hr : Rep s u) : Rep s (retireClip i c u) := by
  unfold retireClip
  try dsimp only [refuse]
  all_goals apply_rules [hr, setClip_rep, computeLamp_rep, markRetired_rep, forgetClip_rep, Rep.create _ rfl]

theorem clipRetireAct_rep (i : Nat) {s u : State} (hr : Rep s u) : Rep s (clipRetireAct i u).1 := by
  unfold clipRetireAct
  try dsimp only [refuse]
  repeat' split
  all_goals apply_rules [hr, retireClip_rep]

/-! ### Streams -/

theorem handToClip_rep (id : Nat) (e : Stream) (o : StreamOutcome) (p : Option Nat) {s u : State} (hr : Rep s u) : Rep s (handToClip id e o p u) := by
  unfold handToClip
  try dsimp only [refuse]
  repeat' split
  all_goals apply_rules [hr, sourceGood_rep, sourceFailed_rep, destGood_rep, destFailed_rep]

theorem keepNote_rep (id : Nat) (e : Stream) (o : StreamOutcome) {s u : State} (hr : Rep s u) : Rep s (keepNote id e o u) := by
  unfold keepNote
  try dsimp only [refuse]
  repeat' split
  all_goals apply_rules [hr, withSu_rep _]

theorem endStream_rep (id : Nat) (o : StreamOutcome) (a p : Option Nat) {s u : State} (hr : Rep s u) : Rep s (endStream id o a p u) := by
  unfold endStream
  try dsimp only [refuse]
  repeat' split
  all_goals apply_rules [hr, setStream_rep, handToClip_rep, keepNote_rep, Rep.create _ rfl]

theorem streamBeat_rep (id a : Nat) (d : BeatData) (st : Strobes) (m : List Mark) {s u : State} (hr : Rep s u) : Rep s (streamBeat id a d st m u).1 := by
  unfold streamBeat
  try dsimp only [refuse]
  repeat' split
  all_goals apply_rules [hr, setStream_rep, endStream_rep]

theorem untappedStreams_rep (r : Request) {s u : State} (hr : Rep s u) : Rep s (untappedStreams r u) := by
  unfold untappedStreams
  try dsimp only [refuse]
  all_goals apply_rules [hr, chooseOrder_rep, endStream_rep, foldl_rep]
  all_goals (intro _ _ hq; apply_rules [hq, chooseOrder_rep, endStream_rep, foldl_rep])

theorem noteResponse_rep (n : Nat) (ok : Bool) {s u : State} (hr : Rep s u) : Rep s (noteResponse n ok u) := by
  unfold noteResponse
  try dsimp only [refuse]
  repeat' split
  all_goals apply_rules [hr, raiseFault_rep, withSu_rep _]

theorem streamResponse_rep (n : Nat) (ok : Bool) {s u : State} (hr : Rep s u) : Rep s (streamResponse n ok u) := by
  unfold streamResponse
  try dsimp only [refuse]
  repeat' split
  all_goals apply_rules [hr, setStream_rep, endStream_rep, noteResponse_rep]

theorem openStream_rep (id : Nat) (e : Stream) {s u : State} (hr : Rep s u) : Rep s (openStream id e u) := by
  unfold openStream
  try dsimp only [refuse]
  repeat' split
  all_goals apply_rules [hr, setStream_rep, sourceOpened_rep, destOpened_rep, withSu_rep _]

theorem streamOpenAct_rep (c r d b l x : Nat) {s u : State} (hr : Rep s u) : Rep s (streamOpenAct c r d b l x u).1 := by
  unfold streamOpenAct
  try dsimp only [refuse]
  repeat' split
  all_goals apply_rules [hr, openStream_rep]

theorem streamCloseAct_rep (i n : Nat) {s u : State} (hr : Rep s u) : Rep s (streamCloseAct i n u).1 := by
  unfold streamCloseAct
  try dsimp only [refuse]
  repeat' split
  all_goals apply_rules [hr, endStream_rep]

theorem streamAbortAct_rep (i : Nat) {s u : State} (hr : Rep s u) : Rep s (streamAbortAct i u).1 := by
  unfold streamAbortAct
  try dsimp only [refuse]
  repeat' split
  all_goals apply_rules [hr, endStream_rep]

/-! ### Cards and time -/

theorem cardDetChange_rep (k : Nat) (b : Bool) {s u : State} (hr : Rep s u) : Rep s (cardDetChange k b u) := hr.other rfl rfl rfl rfl

theorem cardInsertion_rep (k : Nat) {s u : State} (hr : Rep s u) : Rep s (cardInsertion k u) := by
  unfold cardInsertion
  try dsimp only [refuse]
  repeat' split
  all_goals apply_rules [hr, setCardSlot_rep, computeLamp_rep]

theorem pullSources_rep (k : Nat) {s u : State} (hr : Rep s u) : Rep s (pullSources k u) := by
  unfold pullSources
  try dsimp only [refuse]
  all_goals apply_rules [hr, endStream_rep, foldl_rep]
  all_goals (intro _ _ hq; apply_rules [hq, endStream_rep, foldl_rep])

theorem cardRemoval_rep (k : Nat) {s u : State} (hr : Rep s u) : Rep s (cardRemoval k u) := by
  unfold cardRemoval
  try dsimp only [refuse]
  repeat' split
  all_goals apply_rules [hr, setCardSlot_rep, computeLamp_rep, pullSources_rep]

/-! ### Camera tracks -/

theorem raiseFrame_rep (k : FaultKind) (f : FrameSlot) (d : Nat) {s u : State} (hr : Rep s u) : Rep s (raiseFrame k f d u) := by
  unfold raiseFrame
  try dsimp only [refuse]
  all_goals apply_rules [hr, raiseFault_rep]

theorem checkInvalid_rep (f : FrameSlot) (b : Nat) {s u : State} (hr : Rep s u) : Rep s (checkInvalid f b u) := by
  unfold checkInvalid
  try dsimp only [refuse]
  repeat' split
  all_goals apply_rules [hr, raiseFrame_rep]

theorem checkNumber_rep (f : FrameSlot) (l : Nat) {s u : State} (hr : Rep s u) : Rep s (checkNumber f l u) := by
  unfold checkNumber
  try dsimp only [refuse]
  repeat' split
  all_goals apply_rules [hr, raiseFrame_rep]

theorem checkTimecode_rep (f : FrameSlot) (b l c : Nat) {s u : State} (hr : Rep s u) : Rep s (checkTimecode f b l c u) := by
  unfold checkTimecode
  try dsimp only [refuse]
  repeat' split
  all_goals apply_rules [hr, raiseFrame_rep]

theorem checkFrozen_rep (f : FrameSlot) (l g : Nat) {s u : State} (hr : Rep s u) : Rep s (checkFrozen f l g u) := by
  unfold checkFrozen
  try dsimp only [refuse]
  repeat' split
  all_goals apply_rules [hr, raiseFrame_rep]

theorem checkHistory_rep (f : FrameSlot) (c : Camera) {s u : State} (hr : Rep s u) : Rep s (checkHistory f c u) := by
  unfold checkHistory
  try dsimp only [refuse]
  repeat' split
  all_goals apply_rules [hr, checkNumber_rep, checkTimecode_rep, checkFrozen_rep]

theorem checkExposure_rep (f : FrameSlot) (q : Nat) {s u : State} (hr : Rep s u) : Rep s (checkExposure f q u) := by
  unfold checkExposure
  try dsimp only [refuse]
  repeat' split
  all_goals apply_rules [hr, setCamera_rep, raiseFrame_rep]

theorem trackCandidates_rep (f : FrameSlot) {s u : State} (hr : Rep s u) : Rep s (trackCandidates f u) := by
  unfold trackCandidates
  try dsimp only [refuse]
  repeat' split
  all_goals apply_rules [hr, setCamera_rep, withCt_rep _, withCtu_rep _, foldl_rep]

theorem checkStuck_rep (f : FrameSlot) (p : Nat × Nat) {s u : State} (hr : Rep s u) : Rep s (checkStuck f p u) := by
  unfold checkStuck
  try dsimp only [refuse]
  repeat' split
  all_goals apply_rules [hr, raiseFault_rep, withCt_rep _, withCtu_rep _]

theorem trackerSteps_rep (f : FrameSlot) {s u : State} (hr : Rep s u) : Rep s (trackerSteps f u) := by
  unfold trackerSteps
  try dsimp only [refuse]
  all_goals apply_rules [hr, trackCandidates_rep, checkStuck_rep, foldl_rep]
  all_goals (intro _ _ hq; apply_rules [hq, trackCandidates_rep, checkStuck_rep, foldl_rep])

theorem raiseUnpaired_rep (k : Nat) (p : StereoPair) (h : HeldRecord) {s u : State} (hr : Rep s u) : Rep s (raiseUnpaired k p h u) := by
  unfold raiseUnpaired
  try dsimp only [refuse]
  all_goals apply_rules [hr, raiseFault_rep]

theorem setQueue_rep (k : Nat) (q : List HeldRecord) {s u : State} (hr : Rep s u) : Rep s (setQueue k q u) := hr.other rfl rfl rfl rfl

theorem holdFrame_rep (k : Nat) (p : StereoPair) (h : HeldRecord) {s u : State} (hr : Rep s u) : Rep s (holdFrame k p h u) := by
  unfold holdFrame
  try dsimp only [refuse]
  repeat' split
  all_goals apply_rules [hr, raiseUnpaired_rep, setQueue_rep]

theorem checkExposurePair_rep (f : FrameSlot) (p : StereoPair) (h : HeldRecord) (m : Nat) {s u : State} (hr : Rep s u) : Rep s (checkExposurePair f p h m u) := by
  unfold checkExposurePair
  try dsimp only [refuse]
  repeat' split
  all_goals apply_rules [hr, raiseFrame_rep]

theorem pairFrame_rep (k : Nat) (p : StereoPair) (f : FrameSlot) (h : HeldRecord) (l : Nat) {s u : State} (hr : Rep s u) : Rep s (pairFrame k p f h l u) := by
  unfold pairFrame
  try dsimp only [refuse]
  repeat' split
  all_goals apply_rules [hr, raiseUnpaired_rep, setQueue_rep, checkExposurePair_rep, foldl_rep]
  all_goals (intro _ _ hq; apply_rules [hq, raiseUnpaired_rep, setQueue_rep, checkExposurePair_rep, foldl_rep])

theorem stereoStep_rep (f : FrameSlot) (c : Camera) (m : Nat) {s u : State} (hr : Rep s u) : Rep s (stereoStep f c m u) := by
  unfold stereoStep
  try dsimp only [refuse]
  repeat' split
  all_goals apply_rules [hr, holdFrame_rep, pairFrame_rep]

theorem rememberFrame_rep (f : FrameSlot) (b : Nat) {s u : State} (hr : Rep s u) : Rep s (rememberFrame f b u) := hr.other rfl rfl rfl rfl

theorem trackFrame_rep (f : FrameSlot) (q m : Nat) {s u : State} (hr : Rep s u) : Rep s (trackFrame f q m u) := by
  unfold trackFrame
  try dsimp only [refuse]
  all_goals apply_rules [hr, checkInvalid_rep, checkHistory_rep, checkExposure_rep, trackerSteps_rep, stereoStep_rep, rememberFrame_rep]

theorem cameraSetAct_rep (a b c d e f g : Nat) (h : Bool) {s u : State} (hr : Rep s u) : Rep s (cameraSetAct a b c d e f g h u).1 := by
  unfold cameraSetAct
  try dsimp only [refuse]
  repeat' split
  all_goals apply_rules [hr, setCamera_rep]

theorem pairSetAct_rep (a b c d : Nat) {s u : State} (hr : Rep s u) : Rep s (pairSetAct a b c d u).1 := by
  unfold pairSetAct
  try dsimp only [refuse]
  repeat' split
  all_goals apply_rules [hr, setPair_rep]

theorem zonesSetAct_rep (z : List Zone) {s u : State} (hr : Rep s u) : Rep s (zonesSetAct z u).1 := by
  unfold zonesSetAct
  try dsimp only [refuse]
  repeat' split
  all_goals apply_rules [hr, withCt_rep _, withCtu_rep _]

theorem trackerClearAct_rep  {s u : State} (hr : Rep s u) : Rep s (trackerClearAct u).1 := by
  unfold trackerClearAct
  try dsimp only [refuse]
  all_goals apply_rules [hr, withCt_rep _, withCtu_rep _]

/-! ### Looks and the shuttle -/

theorem shuttleProfileAct_rep (v : Nat) (p : Profile) {s u : State} (hr : Rep s u) : Rep s (shuttleProfileAct v p u).1 := by
  unfold shuttleProfileAct
  try dsimp only [refuse]
  repeat' split
  all_goals apply_rules [hr, setMotion_rep]

theorem shuttleGoAct_rep (v n : Nat) (d : Option Direction) {s u : State} (hr : Rep s u) : Rep s (shuttleGoAct v n d u).1 := by
  unfold shuttleGoAct
  try dsimp only [refuse]
  repeat' split
  all_goals apply_rules [hr, setMotion_rep]

theorem motionAct_rep (f : Motion → Motion × Nat) (v : Nat) {s u : State} (hr : Rep s u) : Rep s (motionAct f v u).1 := by
  unfold motionAct
  try dsimp only [refuse]
  repeat' split
  all_goals apply_rules [hr, setMotion_rep]

/-! ### Views -/

theorem viewWindowSetAct_rep (v b w h : Nat) {s u : State} (hr : Rep s u) : Rep s (viewWindowSetAct v b w h u).1 := by
  unfold viewWindowSetAct
  try dsimp only [refuse]
  repeat' split
  all_goals apply_rules [hr, setView_rep]

theorem setPending_rep (v : Nat) (x : Settings) {s u : State} (hr : Rep s u) : Rep s (setPending v x u) := hr.other rfl rfl rfl rfl

theorem viewOnAct_rep (v : Nat) {s u : State} (hr : Rep s u) : Rep s (viewOnAct v u).1 := by
  unfold viewOnAct
  try dsimp only [refuse]
  repeat' split
  all_goals apply_rules [hr, setPending_rep]

theorem viewOffAct_rep (v : Nat) {s u : State} (hr : Rep s u) : Rep s (viewOffAct v u).1 := by
  unfold viewOffAct
  try dsimp only [refuse]
  repeat' split
  all_goals apply_rules [hr, setPending_rep]

theorem zonesSwitchAct_rep (x : Bool) (v : Nat) {s u : State} (hr : Rep s u) : Rep s (zonesSwitchAct x v u).1 := by
  unfold zonesSwitchAct
  try dsimp only [refuse]
  repeat' split
  all_goals apply_rules [hr, setPending_rep]

theorem viewSourceAct_rep (v c : Nat) {s u : State} (hr : Rep s u) : Rep s (viewSourceAct v c u).1 := by
  unfold viewSourceAct
  try dsimp only [refuse]
  repeat' split
  all_goals apply_rules [hr, setPending_rep]

theorem viewGeometryAct_rep (v a b d : Nat) (h g : Bool) {s u : State} (hr : Rep s u) : Rep s (viewGeometryAct v a b d h g u).1 := by
  unfold viewGeometryAct
  try dsimp only [refuse]
  repeat' split
  all_goals apply_rules [hr, setPending_rep]

theorem lookSelectAct_rep (v k r : Nat) {s u : State} (hr : Rep s u) : Rep s (lookSelectAct v k r u).1 := by
  unfold lookSelectAct
  try dsimp only [refuse]
  repeat' split
  all_goals apply_rules [hr, setPending_rep]

theorem bandsSetAct_rep (v : Nat) (b : Option (List Band)) (m : Nat) {s u : State} (hr : Rep s u) : Rep s (bandsSetAct v b m u).1 := by
  unfold bandsSetAct
  try dsimp only [refuse]
  repeat' split
  all_goals apply_rules [hr, setView_rep]

theorem overlaySetAct_rep (v a b : Nat) (x y : Strip) {s u : State} (hr : Rep s u) : Rep s (overlaySetAct v a b x y u).1 := by
  unfold overlaySetAct
  try dsimp only [refuse]
  repeat' split
  all_goals apply_rules [hr, setView_rep]

theorem clipMarkSetAct_rep (v : Nat) (b : Bool) (c : Rgb Nat) {s u : State} (hr : Rep s u) : Rep s (clipMarkSetAct v b c u).1 := by
  unfold clipMarkSetAct
  try dsimp only [refuse]
  repeat' split
  all_goals apply_rules [hr, setPending_rep]

theorem reportView_rep (v : Nat) (k : ViewKind) (d : Nat) {s u : State} (hr : Rep s u) : Rep s (reportView v k d u) := by
  unfold reportView
  try dsimp only [refuse]
  all_goals apply_rules [hr, Rep.create _ rfl]

theorem validateBands_rep (v h : Nat) {s u : State} (hr : Rep s u) : Rep s (validateBands v h u) := by
  unfold validateBands
  try dsimp only [refuse]
  repeat' split
  all_goals apply_rules [hr, setView_rep, reportView_rep]

theorem validateStrips_rep (v h : Nat) {s u : State} (hr : Rep s u) : Rep s (validateStrips v h u) := by
  unfold validateStrips
  try dsimp only [refuse]
  repeat' split
  all_goals apply_rules [hr, setView_rep, reportView_rep]

theorem beginFrame_rep (v h : Nat) {s u : State} (hr : Rep s u) : Rep s (beginFrame v h u) := by
  unfold beginFrame
  try dsimp only [refuse]
  all_goals apply_rules [hr, setView_rep, validateBands_rep, validateStrips_rep]

theorem mixStep_rep (v : Nat) {s u : State} (hr : Rep s u) : Rep s (mixStep v u) := by
  unfold mixStep
  try dsimp only [refuse]
  repeat' split
  all_goals apply_rules [hr, setView_rep]

theorem shuttleStep_rep (v : Nat) {s u : State} (hr : Rep s u) : Rep s (shuttleStep v u) := by
  unfold shuttleStep
  try dsimp only [refuse]
  repeat' split
  all_goals apply_rules [hr, setMotion_rep, reportView_rep]

theorem pinStep_rep (v h : Nat) {s u : State} (hr : Rep s u) : Rep s (pinStep v h u) := hr.other rfl rfl rfl rfl

theorem takeBoundary_rep (v h : Nat) {s u : State} (hr : Rep s u) : Rep s (takeBoundary v h u) := pinStep_rep v h (shuttleStep_rep v (mixStep_rep v (beginFrame_rep v h hr)))

theorem setAnswer_rep (t : Nat) (a : UpAnswer) {s u : State} (hr : Rep s u) : Rep s (setAnswer t a u) := hr.other rfl rfl rfl rfl

theorem serveRead_rep (v : Nat) (r : ServedRead) {s u : State} (hr : Rep s u) : Rep s (serveRead v r u) := by
  unfold serveRead
  dsimp only
  split
  · exact setAnswer_rep _ _ hr
  · exact hr.other rfl rfl rfl rfl

theorem viewRead_rep (v t r c b : Nat) (w : ViewWindow) {s u : State} (hr : Rep s u) : Rep s (viewRead v t r c b w u) := by
  unfold viewRead
  dsimp only
  apply serveRead_rep
  apply setView_rep
  split
  · exact takeBoundary_rep _ _ hr
  · exact hr

theorem fetchFault_rep (v : Nat) (r : ServedRead) {s u : State} (hr : Rep s u) : Rep s (fetchFault v r u) := by
  unfold fetchFault
  try dsimp only [refuse]
  repeat' split
  all_goals apply_rules [hr, setView_rep, Rep.create _ rfl]

theorem returnBeats_rep (v i : Nat) (b : List ReadBeat) (r : ServedRead) {s u : State} (hr : Rep s u) : Rep s (returnBeats v i b r u) := by
  unfold returnBeats
  dsimp only
  have key : Rep s (if fetchFailed r = false ∧ fetchFailed { r with reads := r.reads.modify i (appendBeats b) } = true
      then fetchFault v r u else u) := by
    split
    · exact fetchFault_rep _ _ hr
    · exact hr
  split
  · exact setAnswer_rep _ _ (setView_rep _ _ key)
  · exact setView_rep _ _ key

theorem viewFetchReturn_rep (t i : Nat) (b : List ReadBeat) {s u : State} (hr : Rep s u) : Rep s (viewFetchReturn t i b u) := by
  unfold viewFetchReturn
  try dsimp only [refuse]
  repeat' split
  all_goals apply_rules [hr, returnBeats_rep]

theorem noticeView_rep (k v : Nat) {s u : State} (hr : Rep s u) : Rep s (noticeView k v u) := by
  unfold noticeView
  try dsimp only [refuse]
  repeat' split
  all_goals apply_rules [hr, setView_rep, Rep.create _ rfl]

theorem noticeViews_rep (k : Nat) {s u : State} (hr : Rep s u) : Rep s (noticeViews k u) := by
  unfold noticeViews
  try dsimp only [refuse]
  all_goals apply_rules [hr, chooseOrder_rep, noticeView_rep, foldl_rep]
  all_goals (intro _ _ hq; apply_rules [hq, chooseOrder_rep, noticeView_rep, foldl_rep])

/-! ### Frames -/

theorem poolSetAct_rep (b c n : Nat) {s u : State} (hr : Rep s u) : Rep s (poolSetAct b c n u).1 := by
  unfold poolSetAct
  try dsimp only [refuse]
  repeat' split
  all_goals apply_rules [hr, withFiu_rep _]

theorem countStray_rep  {s u : State} (hr : Rep s u) : Rep s (countStray u) := hr.other rfl rfl rfl rfl

theorem abandonFrame_rep (k : Nat) {s u : State} (hr : Rep s u) : Rep s (abandonFrame k u) := by
  unfold abandonFrame
  try dsimp only [refuse]
  repeat' split
  all_goals apply_rules [hr, raiseFrame_rep]

theorem settleHeader_rep (k e : Nat) (f : FrameSlot) {s u : State} (hr : Rep s u) : Rep s (settleHeader k e f u) := by
  unfold settleHeader
  try dsimp only [refuse]
  repeat' split
  all_goals apply_rules [hr, setFrameSlot_rep, raiseFault_rep, raiseFrame_rep]

theorem takeHeader_rep (k : Nat) (d : BeatData) {s u : State} (hr : Rep s u) : Rep s (takeHeader k d u) := by
  unfold takeHeader
  try dsimp only [refuse]
  all_goals apply_rules [hr, noticeViews_rep, abandonFrame_rep, settleHeader_rep]

theorem spoilHeader_rep (k : Nat) {s u : State} (hr : Rep s u) : Rep s (spoilHeader k u) := by
  unfold spoilHeader
  try dsimp only [refuse]
  repeat' split
  all_goals apply_rules [hr, setFrameSlot_rep, raiseFault_rep, raiseFrame_rep, noticeViews_rep]

theorem headerBeat_rep (r : Request) (b : List WriteBeat) (i k o : Nat) {s u : State} (hr : Rep s u) : Rep s (headerBeat r b i k o u).1 := by
  unfold headerBeat
  split
  · exact hr
  · split
    · exact takeHeader_rep _ _ hr
    · exact spoilHeader_rep _ hr

theorem reportFrame_rep (k : Nat) (f : FrameSlot) {s u : State} (hr : Rep s u) : Rep s (reportFrame k f u) := by
  unfold reportFrame
  try dsimp only [refuse]
  repeat' split
  all_goals apply_rules [hr, Rep.create _ rfl]

theorem endFrame_rep (k : Nat) (f : FrameSlot) {s u : State} (hr : Rep s u) : Rep s (endFrame k f u) := by
  unfold endFrame
  try dsimp only [refuse]
  all_goals apply_rules [hr, setFrameSlot_rep, countFrame_rep, trackFrame_rep, reportFrame_rep]

theorem overwriteFrame_rep (k : Nat) {s u : State} (hr : Rep s u) : Rep s (overwriteFrame k u) := by
  unfold overwriteFrame
  try dsimp only [refuse]
  all_goals apply_rules [hr, setFrameSlot_rep, raiseFrame_rep]

theorem bodyBeat_rep (r : Request) (i k o : Nat) (d : BeatData) (st : Strobes) {s u : State} (hr : Rep s u) : Rep s (bodyBeat r i k o d st u).1 := by
  unfold bodyBeat
  try dsimp only [refuse]
  repeat' split
  all_goals apply_rules [hr, setFrameSlot_rep, countStray_rep, endFrame_rep, overwriteFrame_rep]

theorem poolBeat_rep (r : Request) (b : List WriteBeat) (i : Nat) (d : BeatData) (st : Strobes) (p : Pool) {s u : State} (hr : Rep s u) : Rep s (poolBeat r b i d st p u).1 := by
  unfold poolBeat
  try dsimp only [refuse]
  repeat' split
  all_goals apply_rules [hr, headerBeat_rep, bodyBeat_rep]

theorem frameResponse_rep (a k g : Nat) (ok : Bool) {s u : State} (hr : Rep s u) : Rep s (frameResponse a k g ok u) := by
  unfold frameResponse
  try dsimp only [refuse]
  repeat' split
  all_goals apply_rules [hr, setFrameSlot_rep, raiseFrame_rep]

/-! ### The panel -/

theorem lookNext_rep (v : Nat) {s u : State} (hr : Rep s u) : Rep s (lookNext v u).1 := by
  unfold lookNext
  try dsimp only [refuse]
  repeat' split
  all_goals apply_rules [hr, setPending_rep]

theorem zonesToggle_rep (v : Nat) {s u : State} (hr : Rep s u) : Rep s (zonesToggle v u).1 := hr.other rfl rfl rfl rfl

theorem bandsToggle_rep (v : Nat) {s u : State} (hr : Rep s u) : Rep s (bandsToggle v u).1 := hr.other rfl rfl rfl rfl

theorem shuttlePress_rep (d : Direction) (v : Nat) {s u : State} (hr : Rep s u) : Rep s (shuttlePress d v u).1 := hr.other rfl rfl rfl rfl

theorem stopPress_rep (v : Nat) {s u : State} (hr : Rep s u) : Rep s (stopPress v u).1 := hr.other rfl rfl rfl rfl

theorem holdToggle_rep (v : Nat) {s u : State} (hr : Rep s u) : Rep s (holdToggle v u).1 := by
  unfold holdToggle
  try dsimp only [refuse]
  repeat' split
  all_goals apply_rules [hr, setMotion_rep]

theorem locatePress_rep (f : Option Nat) (v : Nat) {s u : State} (hr : Rep s u) : Rep s (locatePress f v u).1 := by
  unfold locatePress
  try dsimp only [refuse]
  repeat' split
  all_goals apply_rules [hr, setMotion_rep]

theorem ackHere_rep (v : Nat) {s u : State} (hr : Rep s u) : Rep s (ackHere v u).1 := by
  unfold ackHere
  try dsimp only [refuse]
  all_goals apply_rules [hr, ackFrame_rep]

theorem doAction_rep (a : PanelAction) (v : Nat) {s u : State} (hr : Rep s u) : Rep s (doAction a v u).1 := by
  unfold doAction
  try dsimp only [refuse]
  repeat' split
  all_goals apply_rules [hr, lookNext_rep, zonesToggle_rep, bandsToggle_rep, shuttlePress_rep, stopPress_rep, holdToggle_rep, locatePress_rep, ackHere_rep]

theorem actAndReport_rep (k : Nat) (e : PanelEvent) (h : Option Nat) {s u : State} (hr : Rep s u) : Rep s (actAndReport k e h u) := Rep.create _ rfl (doAction_rep _ _ hr)

theorem keyChange_rep (k : Nat) (b : Bool) {s u : State} (hr : Rep s u) : Rep s (keyChange k b u) := hr.other rfl rfl rfl rfl

theorem keyPress_rep (k : Nat) {s u : State} (hr : Rep s u) : Rep s (keyPress k u) := by
  unfold keyPress
  try dsimp only [refuse]
  repeat' split
  all_goals apply_rules [hr, setKey_rep, actAndReport_rep]

theorem keyRelease_rep (k : Nat) {s u : State} (hr : Rep s u) : Rep s (keyRelease k u) := by
  unfold keyRelease
  try dsimp only [refuse]
  repeat' split
  all_goals apply_rules [hr, setKey_rep, Rep.create _ rfl]

theorem keyRepeat_rep (k : Nat) {s u : State} (hr : Rep s u) : Rep s (keyRepeat k u) := by
  unfold keyRepeat
  try dsimp only [refuse]
  repeat' split
  all_goals apply_rules [hr, setKey_rep, actAndReport_rep]

theorem panelTimingAct_rep (a b c : Nat) {s u : State} (hr : Rep s u) : Rep s (panelTimingAct a b c u).1 := hr.other rfl rfl rfl rfl

theorem panelBindAct_rep (k : Nat) (a : Option PanelAction) (v r : Nat) {s u : State} (hr : Rep s u) : Rep s (panelBindAct k a v r u).1 := by
  unfold panelBindAct
  try dsimp only [refuse]
  repeat' split
  all_goals apply_rules [hr, withPu_rep _]

theorem routeDetent_rep (d : Direction) {s u : State} (hr : Rep s u) : Rep s (routeDetent d u) := by
  unfold routeDetent
  try dsimp only [refuse]
  repeat' split
  all_goals apply_rules [hr, setMotion_rep, Rep.create _ rfl]

theorem jogStep_rep (d : Direction) (p : Bool × Bool) {s u : State} (hr : Rep s u) : Rep s (jogStep d p u) := by
  unfold jogStep
  try dsimp only [refuse]
  repeat' split
  all_goals apply_rules [hr, routeDetent_rep, withPu_rep _]

theorem compareSample_rep (p : Bool × Bool) {s u : State} (hr : Rep s u) : Rep s (compareSample p u) := by
  unfold compareSample
  try dsimp only [refuse]
  repeat' split
  all_goals apply_rules [hr, jogStep_rep, withPu_rep _]

theorem jogSample_rep (p : Bool × Bool) {s u : State} (hr : Rep s u) : Rep s (jogSample p u) := by
  unfold jogSample
  try dsimp only [refuse]
  repeat' split
  all_goals apply_rules [hr, compareSample_rep, withPu_rep _]

/-! ### Snapshots and resets -/

theorem forgetSent_rep (i : Nat) {s u : State} (hr : Rep s u) : Rep s (forgetSent i u) := hr.other rfl rfl rfl rfl

theorem resetUnits_rep  {s u : State} (hr : Rep s u) : Rep s (resetUnits u) := hr.other rfl rfl rfl rfl

theorem engineResetAct_rep  {s u : State} (hr : Rep s u) : Rep s (engineResetAct u).1 := by
  unfold engineResetAct
  dsimp only
  exact computeLamps_rep _ (resetUnits_rep hr)

/-! ### Records -/

end Sys2Proof.Machine
end

