-- ==== Sys2Proof/Laws/Intake.lean ====
section
/-! SUPPORT. What one step can do to CIR's state, the background queue and the look slots, said once: a chain of intake
moves. An invariant of those that every intake move keeps is kept by every step. -/

namespace Sys2Proof.Machine

/-- One move of CIR's state, the background queue and the look slots. -/
inductive IMove : State → State → Prop
  | hardReset (n : Nat) (s : State) : IMove s (hardReset n s)
  | report (b : ReportBody) (s : State) : IMove s (createReport b s)
  | ready (s : State) : IMove s (makeReady s)
  | taken (s : State) : IMove s (advanceSequence s)
  | consumed (v : Nat) (s : State) (h : v < 4294967296) : IMove s (consumedCount v s)
  | lost (s : State) : IMove s (s.withCir { s.cir with dropped := satAdd 65535 s.cir.dropped 1 })
  | operations (l : List Nat) (s : State) : IMove s (s.withCir { s.cir with snapshots := l })
  | startLoad (k a n : Nat) (s : State) (h : lookLoadTest k a s = none) : IMove s (startLoad k a n s)
  | stageBeat (k : Nat) (d : BeatData) (r : Resp) (s : State) : IMove s (stageBeat k d r s)
  | sent (b : BackgroundItem) (rest : List BackgroundItem) (s : State) (h : s.tu.background = b :: rest) :
      IMove s (sendBackground b rest s)
  | other {s t : State} (hc : t.cir = s.cir) (hb : t.tu.background = s.tu.background) (hl : t.ls = s.ls) : IMove s t

/-- A chain of intake moves. -/
abbrev Chain : State → State → Prop := Relation.ReflTransGen IMove

theorem Chain.refl (s : State) : Chain s s := Relation.ReflTransGen.refl

theorem Chain.other {s t u : State} (h : Chain s t) (hc : u.cir = t.cir) (hb : u.tu.background = t.tu.background)
    (hl : u.ls = t.ls) : Chain s u := h.tail (.other hc hb hl)

theorem rep_chain {s t : State} (h : Rep s t) : Chain s t := by
  induction h with
  | refl => exact Relation.ReflTransGen.refl
  | create b _ _ ih => exact ih.tail (.report b _)
  | other _ hc hb _ hl ih => exact ih.other hc hb hl

theorem completeCommand_chain {code : Nat} {act : State → State × Answer} {s t : State} (h : Chain s t)
    (ha : ∀ u, Rep u (act u).1) : Chain s (completeCommand code act t) := by
  unfold completeCommand
  exact ((h.tail (.taken t)).trans (rep_chain (ha _))).tail (.report _ _)

theorem foldl_chain {α : Type} {f : State → α → State} {s t : State} {l : List α}
    (hf : ∀ u a, Chain u (f u a)) (h : Chain s t) : Chain s (l.foldl f t) := by
  induction l generalizing t with
  | nil => exact h
  | cons a l ih => exact ih (h.trans (hf _ _))

theorem ite_chain {s t u : State} {p : Prop} [Decidable p] (ht : Chain s t) (hu : Chain s u) :
    Chain s (if p then t else u) := by
  split <;> assumption

theorem lookLoadTest_advance (k a : Nat) (s : State) : lookLoadTest k a (advanceSequence s) = lookLoadTest k a s := rfl

theorem takeLookLoad_chain (k : BitVec 8) (a : BitVec 64) (s : State) : Chain s (takeLookLoad k a s) := by
  unfold takeLookLoad
  split
  · exact completeCommand_chain (.refl s) (fun u => .refl u)
  · rename_i h
    exact (Relation.ReflTransGen.single (.taken s)).tail (.startLoad _ _ _ _ ((lookLoadTest_advance _ _ s).trans h))

theorem takeSnapshot_chain (s : State) : Chain s (takeSnapshot s) := by
  unfold takeSnapshot startSnapshot endSnapshot
  split
  · exact ((Relation.ReflTransGen.single (.taken s)).tail (.report _ _)).tail (.report _ _)
  · exact ((Relation.ReflTransGen.single (.taken s)).tail (.operations _ _)).tail (.report _ _)

theorem createReport_chain (b : ReportBody) (s : State) : Chain s (createReport b s) := .single (.report b s)

theorem takePoolSet_chain (base : BitVec 64) (slotCount : BitVec 16) (slotSize : BitVec 64) (s : State) : Chain s (takePoolSet base slotCount slotSize s) := by
  unfold takePoolSet
  exact completeCommand_chain (.refl s) (fun u => poolSetAct_rep _ _ _ (.refl u))

theorem takeViewWindowSet_chain (view : BitVec 8) (base : BitVec 64) (width height : BitVec 16) (s : State) : Chain s (takeViewWindowSet view base width height s) := by
  unfold takeViewWindowSet
  exact completeCommand_chain (.refl s) (fun u => viewWindowSetAct_rep _ _ _ _ (.refl u))

theorem takeStreamOpen_chain (clip role destination : BitVec 8) (base length : BitVec 64) (expected : BitVec 48) (s : State) : Chain s (takeStreamOpen clip role destination base length expected s) := by
  unfold takeStreamOpen
  exact completeCommand_chain (.refl s) (fun u => streamOpenAct_rep _ _ _ _ _ _ (.refl u))

theorem takeStreamClose_chain (stream : BitVec 8) (finalLength : BitVec 48) (s : State) : Chain s (takeStreamClose stream finalLength s) := by
  unfold takeStreamClose
  exact completeCommand_chain (.refl s) (fun u => streamCloseAct_rep _ _ (.refl u))

theorem takeStreamAbort_chain (stream : BitVec 8) (s : State) : Chain s (takeStreamAbort stream s) := by
  unfold takeStreamAbort
  exact completeCommand_chain (.refl s) (fun u => streamAbortAct_rep _ (.refl u))

theorem takeClipOpen_chain (label : BitVec 32) (slot camera required : BitVec 8) (s : State) : Chain s (takeClipOpen label slot camera required s) := by
  unfold takeClipOpen
  exact completeCommand_chain (.refl s) (fun u => clipOpenAct_rep _ _ _ _ (.refl u))

theorem takeClipRetire_chain (clip : BitVec 8) (s : State) : Chain s (takeClipRetire clip s) := by
  unfold takeClipRetire
  exact completeCommand_chain (.refl s) (fun u => clipRetireAct_rep _ (.refl u))

theorem takeCameraSet_chain (camera : BitVec 8) (clipLevel hotLevel : BitVec 16) (base : BitVec 8) (exposureHigh hysteresis : BitVec 16) (persistence frameReports : BitVec 8) (s : State) : Chain s (takeCameraSet camera clipLevel hotLevel base exposureHigh hysteresis persistence frameReports s) := by
  unfold takeCameraSet
  exact completeCommand_chain (.refl s) (fun u => cameraSetAct_rep _ _ _ _ _ _ _ _ (.refl u))

theorem takePairSet_chain (pair left right : BitVec 8) (tolerance : BitVec 32) (s : State) : Chain s (takePairSet pair left right tolerance s) := by
  unfold takePairSet
  exact completeCommand_chain (.refl s) (fun u => pairSetAct_rep _ _ _ _ (.refl u))

theorem takeZonesSet_chain (bounds : Six (BitVec 16)) (colours : Six (Rgb (BitVec 16))) (s : State) : Chain s (takeZonesSet bounds colours s) := by
  unfold takeZonesSet
  exact completeCommand_chain (.refl s) (fun u => zonesSetAct_rep _ (.refl u))

theorem takeTrackerClear_chain  (s : State) : Chain s (takeTrackerClear  s) := by
  unfold takeTrackerClear
  exact completeCommand_chain (.refl s) (fun u => trackerClearAct_rep (.refl u))

theorem takeFaultAck_chain (id : BitVec 32) (s : State) : Chain s (takeFaultAck id s) := by
  unfold takeFaultAck
  exact completeCommand_chain (.refl s) (fun u => faultAckAct_rep _ (.refl u))

theorem takeClipFaultsAck_chain (clip : BitVec 8) (s : State) : Chain s (takeClipFaultsAck clip s) := by
  unfold takeClipFaultsAck
  exact completeCommand_chain (.refl s) (fun u => clipFaultsAckAct_rep _ (.refl u))

theorem takeViewOn_chain (view : BitVec 8) (s : State) : Chain s (takeViewOn view s) := by
  unfold takeViewOn
  exact completeCommand_chain (.refl s) (fun u => viewOnAct_rep _ (.refl u))

theorem takeViewOff_chain (view : BitVec 8) (s : State) : Chain s (takeViewOff view s) := by
  unfold takeViewOff
  exact completeCommand_chain (.refl s) (fun u => viewOffAct_rep _ (.refl u))

theorem takeZonesOn_chain (view : BitVec 8) (s : State) : Chain s (takeZonesOn view s) := by
  unfold takeZonesOn
  exact completeCommand_chain (.refl s) (fun u => zonesSwitchAct_rep _ _ (.refl u))

theorem takeZonesOff_chain (view : BitVec 8) (s : State) : Chain s (takeZonesOff view s) := by
  unfold takeZonesOff
  exact completeCommand_chain (.refl s) (fun u => zonesSwitchAct_rep _ _ (.refl u))

theorem takeViewSource_chain (view camera : BitVec 8) (s : State) : Chain s (takeViewSource view camera s) := by
  unfold takeViewSource
  exact completeCommand_chain (.refl s) (fun u => viewSourceAct_rep _ _ (.refl u))

theorem takeViewGeometry_chain (view : BitVec 8) (x0 y0 : BitVec 16) (decimation hFlip vFlip : BitVec 8) (s : State) : Chain s (takeViewGeometry view x0 y0 decimation hFlip vFlip s) := by
  unfold takeViewGeometry
  exact completeCommand_chain (.refl s) (fun u => viewGeometryAct_rep _ _ _ _ _ _ (.refl u))

theorem takeLookSelect_chain (view slot : BitVec 8) (rate : BitVec 16) (s : State) : Chain s (takeLookSelect view slot rate s) := by
  unfold takeLookSelect
  exact completeCommand_chain (.refl s) (fun u => lookSelectAct_rep _ _ _ (.refl u))

theorem takeBandsSet_chain (view count : BitVec 8) (start1 end1 : BitVec 16) (look1 : BitVec 8) (start2 end2 : BitVec 16) (look2 mode : BitVec 8) (s : State) : Chain s (takeBandsSet view count start1 end1 look1 start2 end2 look2 mode s) := by
  unfold takeBandsSet
  exact completeCommand_chain (.refl s) (fun u => bandsSetAct_rep _ _ _ (.refl u))

theorem takeOverlaySet_chain (view : BitVec 8) (address : BitVec 64) (stride : BitVec 32) (start1 : BitVec 16) (count1 : BitVec 8) (start2 : BitVec 16) (count2 : BitVec 8) (s : State) : Chain s (takeOverlaySet view address stride start1 count1 start2 count2 s) := by
  unfold takeOverlaySet
  exact completeCommand_chain (.refl s) (fun u => overlaySetAct_rep _ _ _ _ _ (.refl u))

theorem takeClipMarkSet_chain (view on : BitVec 8) (colour : Rgb (BitVec 16)) (s : State) : Chain s (takeClipMarkSet view on colour s) := by
  unfold takeClipMarkSet
  exact completeCommand_chain (.refl s) (fun u => clipMarkSetAct_rep _ _ _ (.refl u))

theorem takeShuttleProfile_chain (view : BitVec 8) (s0 s1 s2 s3 s4 n : BitVec 16) (preDwell postDwell stopOnFault : BitVec 8) (s : State) : Chain s (takeShuttleProfile view s0 s1 s2 s3 s4 n preDwell postDwell stopOnFault s) := by
  unfold takeShuttleProfile
  exact completeCommand_chain (.refl s) (fun u => shuttleProfileAct_rep _ _ (.refl u))

theorem takeShuttleGo_chain (view : BitVec 8) (distance : BitVec 32) (direction : BitVec 8) (s : State) : Chain s (takeShuttleGo view distance direction s) := by
  unfold takeShuttleGo
  exact completeCommand_chain (.refl s) (fun u => shuttleGoAct_rep _ _ _ (.refl u))

theorem takeShuttleStop_chain (view : BitVec 8) (s : State) : Chain s (takeShuttleStop view s) := by
  unfold takeShuttleStop
  exact completeCommand_chain (.refl s) (fun u => motionAct_rep _ _ (.refl u))

theorem takeShuttleHold_chain (view : BitVec 8) (s : State) : Chain s (takeShuttleHold view s) := by
  unfold takeShuttleHold
  exact completeCommand_chain (.refl s) (fun u => motionAct_rep _ _ (.refl u))

theorem takeShuttleRelease_chain (view : BitVec 8) (s : State) : Chain s (takeShuttleRelease view s) := by
  unfold takeShuttleRelease
  exact completeCommand_chain (.refl s) (fun u => motionAct_rep _ _ (.refl u))

theorem takeShuttleLocate_chain (view : BitVec 8) (frame : BitVec 32) (s : State) : Chain s (takeShuttleLocate view frame s) := by
  unfold takeShuttleLocate
  exact completeCommand_chain (.refl s) (fun u => motionAct_rep _ _ (.refl u))

theorem takePanelBind_chain (key action view rep : BitVec 8) (s : State) : Chain s (takePanelBind key action view rep s) := by
  unfold takePanelBind
  exact completeCommand_chain (.refl s) (fun u => panelBindAct_rep _ _ _ _ (.refl u))

theorem takePanelTiming_chain (debounce delay interval : BitVec 16) (s : State) : Chain s (takePanelTiming debounce delay interval s) := by
  unfold takePanelTiming
  exact completeCommand_chain (.refl s) (fun u => panelTimingAct_rep _ _ _ (.refl u))

theorem takeEngineReset_chain  (s : State) : Chain s (takeEngineReset  s) := by
  unfold takeEngineReset
  exact completeCommand_chain (.refl s) (fun u => engineResetAct_rep (.refl u))

theorem takeUnknown_chain (code : Nat) (s : State) : Chain s (takeUnknown code s) := by
  unfold takeUnknown
  exact completeCommand_chain (.refl s) (fun u => .refl u)

/-- A record executed is a chain of intake moves. -/
theorem executeRecord_chain (i : Instr) (s : State) : Chain s (executeRecord i s) :=
  match i with
  | .hardReset _ => .refl s
  | .writeRequestAddress _ => .refl s
  | .readRequest _ => .refl s
  | .writeBeat _ _ => .refl s
  | .writeResponse _ _ => .refl s
  | .forwardedReadData _ _ => .refl s
  | .orderBookRelease _ _ => .refl s
  | .arbiterSend => .refl s
  | .preResetResponse => .refl s
  | .reportMadeReady => .refl s
  | .reportWriteResponse _ _ => .refl s
  | .lookFetchBeat _ _ _ => .refl s
  | .viewFetchReturn _ _ _ => .refl s
  | .commandRecordIgnored _ _ => .refl s
  | .commandSlotPartial _ _ => .refl s
  | .consumedCountWrite _ => .refl s
  | .unknownCommand _ => takeUnknown_chain _ s
  | .poolSet _ _ _ => takePoolSet_chain _ _ _ s
  | .viewWindowSet _ _ _ _ => takeViewWindowSet_chain _ _ _ _ s
  | .streamOpen _ _ _ _ _ _ => takeStreamOpen_chain _ _ _ _ _ _ s
  | .streamClose _ _ => takeStreamClose_chain _ _ s
  | .streamAbort _ => takeStreamAbort_chain _ s
  | .clipOpen _ _ _ _ => takeClipOpen_chain _ _ _ _ s
  | .clipRetire _ => takeClipRetire_chain _ s
  | .cameraSet _ _ _ _ _ _ _ _ => takeCameraSet_chain _ _ _ _ _ _ _ _ s
  | .pairSet _ _ _ _ => takePairSet_chain _ _ _ _ s
  | .zonesSet _ _ => takeZonesSet_chain _ _ s
  | .trackerClear => takeTrackerClear_chain s
  | .faultAck _ => takeFaultAck_chain _ s
  | .clipFaultsAck _ => takeClipFaultsAck_chain _ s
  | .lookLoad _ _ => takeLookLoad_chain _ _ s
  | .viewOn _ => takeViewOn_chain _ s
  | .viewOff _ => takeViewOff_chain _ s
  | .zonesOn _ => takeZonesOn_chain _ s
  | .zonesOff _ => takeZonesOff_chain _ s
  | .viewSource _ _ => takeViewSource_chain _ _ s
  | .viewGeometry _ _ _ _ _ _ => takeViewGeometry_chain _ _ _ _ _ _ s
  | .lookSelect _ _ _ => takeLookSelect_chain _ _ _ s
  | .bandsSet _ _ _ _ _ _ _ _ _ => takeBandsSet_chain _ _ _ _ _ _ _ _ _ s
  | .overlaySet _ _ _ _ _ _ _ => takeOverlaySet_chain _ _ _ _ _ _ _ s
  | .clipMarkSet _ _ _ => takeClipMarkSet_chain _ _ _ s
  | .shuttleProfile _ _ _ _ _ _ _ _ _ _ => takeShuttleProfile_chain _ _ _ _ _ _ _ _ _ _ s
  | .shuttleGo _ _ _ => takeShuttleGo_chain _ _ _ s
  | .shuttleStop _ => takeShuttleStop_chain _ s
  | .shuttleHold _ => takeShuttleHold_chain _ s
  | .shuttleRelease _ => takeShuttleRelease_chain _ s
  | .shuttleLocate _ _ => takeShuttleLocate_chain _ _ s
  | .panelBind _ _ _ _ => takePanelBind_chain _ _ _ _ s
  | .panelTiming _ _ _ => takePanelTiming_chain _ _ _ s
  | .snapshot => takeSnapshot_chain s
  | .engineReset => takeEngineReset_chain s
  | .cardDetChange _ _ => .refl s
  | .cardInsertion _ => .refl s
  | .cardRemoval _ => .refl s
  | .keyChange _ _ => .refl s
  | .keyPress _ => .refl s
  | .keyRelease _ => .refl s
  | .keyRepeat _ => .refl s
  | .jogDetent _ _ => .refl s
  | .timeBaseTick => .refl s
  | .jogTransition _ _ => .refl s

theorem judgeRecord_chain (k : Nat) (r : BitVec 512) (s : State) : Chain s (judgeRecord k r s) := by
  unfold judgeRecord
  split
  · exact executeRecord_chain _ s
  · exact createReport_chain _ s

theorem judgeSlot_chain (k : Nat) (a b : Option WriteBeat) (s : State) : Chain s (judgeSlot k a b s) := by
  unfold judgeSlot
  (repeat' split) <;> first | exact judgeRecord_chain _ _ s | exact createReport_chain _ s

theorem ringBeat_chain (r : Request) (b : List WriteBeat) (i : Nat) (s : State) : Chain s (ringBeat r b i s) := by
  unfold ringBeat
  dsimp only
  split
  · exact .refl s
  · exact foldl_chain (fun u k => judgeSlot_chain _ _ _ u) (.refl s)

theorem beatField32_lt (d : BeatData) (n : Nat) : beatField d n 32 < 4294967296 := by
  unfold beatField
  exact Nat.mod_lt _ (by decide)

theorem consumedBeat_chain (a : Nat) (d : BeatData) (st : Strobes) (s : State) : Chain s (consumedBeat a d st s) := by
  rw [consumedBeat]
  by_cases h : a = (controlPage s).base + 8128 ∧ st.toNat % 16 = 15
  · rw [if_pos h]; exact .single (.consumed _ s (beatField32_lt d 0))
  · rw [if_neg h]

theorem routeBeat_chain (r : Request) (l : List WriteBeat) (m : List Mark) (i : Nat) (b : WriteBeat) (s : State) :
    Chain s (routeBeat r l m i b s).1 := by
  unfold routeBeat
  generalize ownerOf s (beatAddress r i) = o
  cases o with
  | commandRing => exact ringBeat_chain _ _ _ s
  | reportRing => exact .refl s
  | consumedLine => exact consumedBeat_chain _ _ _ s
  | pool =>
    cases h : s.fiu.pool with
    | none => simpa only [h] using Chain.refl s
    | some p => simpa only [h] using rep_chain (poolBeat_rep _ _ _ _ _ _ (.refl s))
  | stream k => exact rep_chain (streamBeat_rep _ _ _ _ _ (.refl s))
  | view v => exact .refl s
  | nowhere => exact .refl s


theorem addMark_chain {n : Nat} {m : Option Mark} {s t : State} (h : Chain s t) : Chain s (addMark n m t) := by
  unfold addMark
  split
  · exact h
  · exact h.other rfl rfl rfl

theorem dataBeat_chain (b : WriteBeat) (s : State) : Chain s (dataBeat b s) := by
  unfold dataBeat
  split
  · exact .refl s
  · rename_i w rest _
    have h1 : Chain s (s.withTu { s.tu with inWrites := countArrival w rest }) := .other (.refl s) rfl rfl rfl
    dsimp only
    split
    · exact h1
    · unfold forwardedBeat
      have h2 : Chain s (driveData (changeEntry w.tag (fun e => { e with writeBeats := e.writeBeats ++ [b] })
          (s.withTu { s.tu with inWrites := countArrival w rest }))) := h1.other rfl rfl rfl
      dsimp only
      split
      · exact h2
      · split
        · exact addMark_chain (h2.trans (routeBeat_chain _ _ _ _ _ _))
        · exact h2

theorem untappedEffect_rep (r : Request) {s u : State} (hr : Rep s u) : Rep s (untappedEffect r u) := by
  unfold untappedEffect
  dsimp only
  repeat' split
  all_goals apply_rules [hr, untappedStreams_rep, countStray_rep]

theorem writeAddress_rep (r : Request) (s : State) : Rep s (writeAddress r s) := by
  unfold writeAddress
  split
  · exact .refl s
  · split <;> exact (untappedEffect_rep r (.refl s)).other rfl rfl rfl rfl

theorem readAddress_rep (r : Request) (s : State) : Rep s (readAddress r s) := by
  unfold readAddress
  split
  · exact .refl s
  · split
    · unfold settleViewRead
      split
      · split
        · exact viewRead_rep _ _ _ _ _ _ ((untappedEffect_rep r (.refl s)).other rfl rfl rfl rfl)
        · exact (untappedEffect_rep r (.refl s)).other rfl rfl rfl rfl
      · exact (untappedEffect_rep r (.refl s)).other rfl rfl rfl rfl
    · exact (untappedEffect_rep r (.refl s)).other rfl rfl rfl rfl

theorem writeResponse_rep (i : Nat) (r : Resp) (s : State) : Rep s (writeResponse i r s) := by
  unfold writeResponse
  split
  · exact .refl s
  · split
    · unfold returnWrite
      split
      · exact .refl s
      · split
        · unfold showOwners
          refine foldl_rep ?_ (chooseOrder_rep _ (setAnswer_rep _ _ (forgetSent_rep _ (.refl s))))
          intro u m h
          unfold showMark
          split
          · exact streamResponse_rep _ _ h
          · exact frameResponse_rep _ _ _ _ h
        · exact .refl s
    · exact .refl s

theorem reportWriteResponse_chain (n : Nat) (ok : Bool) (s : State) : Chain s (reportWriteResponse n ok s) := by
  unfold reportWriteResponse
  split
  · exact .refl s
  · split
    · rename_i i _ _ r _
      unfold reportResponse
      have h1 : Chain s (forgetSent i s) := .other (.refl s) rfl rfl rfl
      have h : Chain s (countLoss ok (forgetSent i s)) := by
        unfold countLoss
        exact ite_chain h1 (h1.tail (.lost _))
      unfold endOperation
      split
      · exact (h.tail (.operations _ _)).tail (.report _ _)
      · exact h
    · exact .refl s

theorem arbiterSend_chain (s : State) : Chain s (arbiterSend s) := by
  unfold arbiterSend
  split
  · exact .refl s
  · exact .single (.sent _ _ s ‹_›)
  · exact .other (.refl s) rfl rfl rfl
  · split
    · exact .single (.sent _ _ s ‹_›)
    · exact .other (.refl s) rfl rfl rfl

theorem readData_chain (i : Nat) (b : List ReadBeat) (s : State) : Chain s (readData i b s) := by
  unfold readData
  split
  · exact .refl s
  · exact .other (.refl s) rfl rfl rfl

theorem releaseEntry_chain (d : Dir) (i : Nat) (s : State) : Chain s (releaseEntry d i s) := by
  unfold releaseEntry
  split
  · exact .refl s
  · split
    · exact .refl s
    · exact .other (.refl s) rfl rfl rfl

/-- Every command answers a next state, by a chain of intake moves. -/
theorem exec_runs_chain (c : Instr) (s : State) : ∃ t, exec c s = .next t ∧ Chain s t :=
  match c with
  | .hardReset _ => ⟨_, rfl, .single (.hardReset _ s)⟩
  | .writeRequestAddress _ => ⟨_, rfl, rep_chain (writeAddress_rep _ s)⟩
  | .readRequest _ => ⟨_, rfl, rep_chain (readAddress_rep _ s)⟩
  | .writeBeat _ _ => ⟨_, rfl, dataBeat_chain _ s⟩
  | .writeResponse _ _ => ⟨_, rfl, rep_chain (writeResponse_rep _ _ s)⟩
  | .forwardedReadData _ _ => ⟨_, rfl, readData_chain _ _ s⟩
  | .orderBookRelease _ _ => ⟨_, rfl, releaseEntry_chain _ _ s⟩
  | .arbiterSend => ⟨_, rfl, arbiterSend_chain s⟩
  | .preResetResponse => ⟨_, rfl, .other (.refl s) rfl rfl rfl⟩
  | .reportMadeReady => ⟨_, rfl, .single (.ready s)⟩
  | .reportWriteResponse _ _ => ⟨_, rfl, reportWriteResponse_chain _ _ s⟩
  | .lookFetchBeat _ _ _ => ⟨_, rfl, .single (.stageBeat _ _ _ s)⟩
  | .viewFetchReturn _ _ _ => ⟨_, rfl, rep_chain (viewFetchReturn_rep _ _ _ (.refl s))⟩
  | .commandRecordIgnored _ _ => ⟨_, rfl, ite_chain (.refl s) (createReport_chain _ s)⟩
  | .commandSlotPartial _ _ => ⟨_, rfl, createReport_chain _ s⟩
  | .consumedCountWrite _ => ⟨_, rfl, .single (.consumed _ s (BitVec.isLt _))⟩
  | .unknownCommand _ => ⟨_, rfl, ite_chain (.refl s) (takeUnknown_chain _ s)⟩
  | .poolSet _ _ _ => ⟨_, rfl, takePoolSet_chain _ _ _ s⟩
  | .viewWindowSet _ _ _ _ => ⟨_, rfl, takeViewWindowSet_chain _ _ _ _ s⟩
  | .streamOpen _ _ _ _ _ _ => ⟨_, rfl, takeStreamOpen_chain _ _ _ _ _ _ s⟩
  | .streamClose _ _ => ⟨_, rfl, takeStreamClose_chain _ _ s⟩
  | .streamAbort _ => ⟨_, rfl, takeStreamAbort_chain _ s⟩
  | .clipOpen _ _ _ _ => ⟨_, rfl, takeClipOpen_chain _ _ _ _ s⟩
  | .clipRetire _ => ⟨_, rfl, takeClipRetire_chain _ s⟩
  | .cameraSet _ _ _ _ _ _ _ _ => ⟨_, rfl, takeCameraSet_chain _ _ _ _ _ _ _ _ s⟩
  | .pairSet _ _ _ _ => ⟨_, rfl, takePairSet_chain _ _ _ _ s⟩
  | .zonesSet _ _ => ⟨_, rfl, takeZonesSet_chain _ _ s⟩
  | .trackerClear => ⟨_, rfl, takeTrackerClear_chain s⟩
  | .faultAck _ => ⟨_, rfl, takeFaultAck_chain _ s⟩
  | .clipFaultsAck _ => ⟨_, rfl, takeClipFaultsAck_chain _ s⟩
  | .lookLoad _ _ => ⟨_, rfl, takeLookLoad_chain _ _ s⟩
  | .viewOn _ => ⟨_, rfl, takeViewOn_chain _ s⟩
  | .viewOff _ => ⟨_, rfl, takeViewOff_chain _ s⟩
  | .zonesOn _ => ⟨_, rfl, takeZonesOn_chain _ s⟩
  | .zonesOff _ => ⟨_, rfl, takeZonesOff_chain _ s⟩
  | .viewSource _ _ => ⟨_, rfl, takeViewSource_chain _ _ s⟩
  | .viewGeometry _ _ _ _ _ _ => ⟨_, rfl, takeViewGeometry_chain _ _ _ _ _ _ s⟩
  | .lookSelect _ _ _ => ⟨_, rfl, takeLookSelect_chain _ _ _ s⟩
  | .bandsSet _ _ _ _ _ _ _ _ _ => ⟨_, rfl, takeBandsSet_chain _ _ _ _ _ _ _ _ _ s⟩
  | .overlaySet _ _ _ _ _ _ _ => ⟨_, rfl, takeOverlaySet_chain _ _ _ _ _ _ _ s⟩
  | .clipMarkSet _ _ _ => ⟨_, rfl, takeClipMarkSet_chain _ _ _ s⟩
  | .shuttleProfile _ _ _ _ _ _ _ _ _ _ => ⟨_, rfl, takeShuttleProfile_chain _ _ _ _ _ _ _ _ _ _ s⟩
  | .shuttleGo _ _ _ => ⟨_, rfl, takeShuttleGo_chain _ _ _ s⟩
  | .shuttleStop _ => ⟨_, rfl, takeShuttleStop_chain _ s⟩
  | .shuttleHold _ => ⟨_, rfl, takeShuttleHold_chain _ s⟩
  | .shuttleRelease _ => ⟨_, rfl, takeShuttleRelease_chain _ s⟩
  | .shuttleLocate _ _ => ⟨_, rfl, takeShuttleLocate_chain _ _ s⟩
  | .panelBind _ _ _ _ => ⟨_, rfl, takePanelBind_chain _ _ _ _ s⟩
  | .panelTiming _ _ _ => ⟨_, rfl, takePanelTiming_chain _ _ _ s⟩
  | .snapshot => ⟨_, rfl, takeSnapshot_chain s⟩
  | .engineReset => ⟨_, rfl, takeEngineReset_chain s⟩
  | .cardDetChange _ _ => ⟨_, rfl, rep_chain (cardDetChange_rep _ _ (.refl s))⟩
  | .cardInsertion _ => ⟨_, rfl, rep_chain (cardInsertion_rep _ (.refl s))⟩
  | .cardRemoval _ => ⟨_, rfl, rep_chain (cardRemoval_rep _ (.refl s))⟩
  | .keyChange _ _ => ⟨_, rfl, rep_chain (keyChange_rep _ _ (.refl s))⟩
  | .keyPress _ => ⟨_, rfl, rep_chain (keyPress_rep _ (.refl s))⟩
  | .keyRelease _ => ⟨_, rfl, rep_chain (keyRelease_rep _ (.refl s))⟩
  | .keyRepeat _ => ⟨_, rfl, rep_chain (keyRepeat_rep _ (.refl s))⟩
  | .jogDetent _ _ => ⟨_, rfl, rep_chain (jogSample_rep _ (.refl s))⟩
  | .timeBaseTick => ⟨_, rfl, .other (.refl s) rfl rfl rfl⟩
  | .jogTransition _ _ => ⟨_, rfl, rep_chain (jogSample_rep _ (.refl s))⟩

/-- A command is a chain of intake moves. -/
theorem exec_chain {c : Instr} {s t : State} (h : exec c s = .next t) : Chain s t := by
  obtain ⟨u, hu, m⟩ := exec_runs_chain c s
  rw [h] at hu
  cases hu
  exact m

/-- An invariant that every intake move keeps is kept by every step. -/
theorem step_keeps_intake {P : State → Prop} (hm : ∀ s t, IMove s t → P s → P t) {s t : State} (hs : P s)
    (h : step s = .next t) : P t := by
  have hc : ∀ {a b : State}, Chain a b → P a → P b := by
    intro a b hab ha
    induction hab with
    | refl => exact ha
    | tail _ m ih => exact hm _ _ m ih
  unfold step at h
  split at h
  · cases h; exact hs
  · exact hc (exec_chain h) (hm s _ (.other rfl rfl rfl) hs)

end Sys2Proof.Machine
end

