-- ==== Sys2Proof/Laws/Lamps.lean ====
section
/-! SUPPORT. The card lamps: what keeps `LampLaw` (R64, R65), operation by operation. -/

namespace Sys2Proof.Machine

/-- The lamp of card slot j is the one that Table 4-6 gives. -/
def LampRight (s : State) (j : Nat) : Prop := (cardSlotAt s j).lamp = lampOf s j

/-- Every lamp is right but perhaps that of card slot k. -/
def LampsRightBut (k : Nat) (s : State) : Prop := ∀ j, j < 8 → j ≠ k → LampRight s j

/-- What a clip counts for in a lamp. -/
def lampMark (s : State) (i : Nat) : Option (Nat × Nat × Bool × Bool) :=
  (clipAt s i).map (fun c => (c.slot, c.session, (c.state == .spoiled || decide (0 < c.critOpen)), c.state == .verified))

theorem inSession_mark (s k i) : inSession s k i = (lampMark s i).any (fun m => m.1 == k && m.2.1 == (cardSlotAt s k).session) := by
  unfold inSession lampMark; cases clipAt s i <;> rfl

theorem critical_mark (s i) : clipCritical s i = (lampMark s i).any (fun m => m.2.2.1) := by
  unfold clipCritical lampMark; cases clipAt s i <;> rfl

theorem verified_mark (s i) : clipVerified s i = (lampMark s i).any (fun m => m.2.2.2) := by
  unfold clipVerified lampMark; cases clipAt s i <;> rfl

theorem lampOf_same {s t : State} {j : Nat} (hp : (cardSlotAt t j).present = (cardSlotAt s j).present)
    (hs : (cardSlotAt t j).session = (cardSlotAt s j).session) (hl : t.ct.clips.length = s.ct.clips.length)
    (hi : ∀ i, inSession t j i = inSession s j i)
    (hm : ∀ i, inSession s j i = true → clipCritical t i = clipCritical s i ∧ clipVerified t i = clipVerified s i ∧ sourceRunning t i = sourceRunning s i) :
    lampOf t j = lampOf s j := by
  have e : sessionSet t j = sessionSet s j := by
    unfold sessionSet; rw [hl]; congr 1; funext i; exact hi i
  have m : ∀ i ∈ sessionSet s j, inSession s j i = true := fun i h => (List.mem_filter.1 h).2
  have any_congr : ∀ (f g : Nat → Bool), (∀ i ∈ sessionSet s j, f i = g i) → (sessionSet s j).any f = (sessionSet s j).any g ∧ (sessionSet s j).all f = (sessionSet s j).all g := by
    intro f g h
    generalize sessionSet s j = l at h
    induction l with
    | nil => exact ⟨rfl, rfl⟩
    | cons a l ih =>
      obtain ⟨h1, h2⟩ := ih (fun i hi => h i (List.mem_cons_of_mem _ hi))
      simp [List.any_cons, List.all_cons, h1, h2, h a]
  unfold lampOf
  rw [hp, e, (any_congr _ _ (fun i h => (hm i (m i h)).1)).1, (any_congr _ _ (fun i h => (hm i (m i h)).2.2)).1, (any_congr _ _ (fun i h => (hm i (m i h)).2.1)).2]

/-- Nothing that a lamp sees has changed. -/
structure SameLamps (s t : State) : Prop where
  slots : t.ct.slots = s.ct.slots
  len : t.ct.clips.length = s.ct.clips.length
  clip : ∀ i, lampMark t i = lampMark s i
  run : ∀ i, sourceRunning t i = sourceRunning s i

theorem SameLamps.refl (s) : SameLamps s s := ⟨rfl, rfl, fun _ => rfl, fun _ => rfl⟩

theorem SameLamps.trans {s t u} (h : SameLamps s t) (k : SameLamps t u) : SameLamps s u :=
  ⟨k.slots.trans h.slots, k.len.trans h.len, fun i => (k.clip i).trans (h.clip i), fun i => (k.run i).trans (h.run i)⟩

theorem SameLamps.of {s t : State} (h : t.ct = s.ct) (k : t.su.table = s.su.table) : SameLamps s t :=
  ⟨by rw [h], by rw [h], fun i => by simp [lampMark, clipAt, h], fun i => by simp [sourceRunning, k]⟩

theorem SameLamps.ok {s t} (h : SameLamps s t) {j} (k : LampRight s j) : LampRight t j := by
  have e : ∀ j, cardSlotAt t j = cardSlotAt s j := fun j => by simp [cardSlotAt, h.slots]
  unfold LampRight at *
  rw [e, k]
  refine (lampOf_same (by rw [e]) (by rw [e]) h.len ?_ ?_).symm
  · intro i; rw [inSession_mark, inSession_mark, h.clip, e]
  · intro i _; rw [critical_mark, critical_mark, verified_mark, verified_mark, h.clip]; exact ⟨rfl, rfl, h.run i⟩

theorem SameLamps.law {s t} (h : SameLamps s t) (k : LampLaw s) : LampLaw t := fun j hj => h.ok (k j hj)

theorem SameLamps.but {s t k} (h : SameLamps s t) (b : LampsRightBut k s) :
    LampsRightBut k t := fun j hj hk => h.ok (b j hj hk)

/-- Only what concerns clip i of slot k has changed. -/
structure OnlyClipChanged (i k : Nat) (s t : State) : Prop where
  slots : t.ct.slots = s.ct.slots
  len : t.ct.clips.length = s.ct.clips.length
  other : ∀ x, x ≠ i → lampMark t x = lampMark s x ∧ sourceRunning t x = sourceRunning s x
  before : ∀ m, lampMark s i = some m → m.1 = k
  after : ∀ m, lampMark t i = some m → m.1 = k

theorem OnlyClipChanged.ok {i k s t} (h : OnlyClipChanged i k s t) {j} (hj : j ≠ k) (o : LampRight s j) :
    LampRight t j := by
  have e : ∀ j, cardSlotAt t j = cardSlotAt s j := fun j => by simp [cardSlotAt, h.slots]
  have no : ∀ u, (∀ m, lampMark u i = some m → m.1 = k) → inSession u j i = false := by
    intro u hu
    rw [inSession_mark]
    cases hm : lampMark u i with
    | none => rfl
    | some m => have := hu m hm; simp [this, Ne.symm hj]
  unfold LampRight at *
  rw [e, o]
  refine (lampOf_same (by rw [e]) (by rw [e]) h.len ?_ ?_).symm
  · intro x
    by_cases hx : x = i
    · subst hx; rw [no t h.after, no s h.before]
    · rw [inSession_mark, inSession_mark, (h.other x hx).1, e]
  · intro x hs
    by_cases hx : x = i
    · subst hx; rw [no s h.before] at hs; cases hs
    · rw [critical_mark, critical_mark, verified_mark, verified_mark, (h.other x hx).1]; exact ⟨rfl, rfl, (h.other x hx).2⟩

theorem OnlyClipChanged.but {i k s t} (h : OnlyClipChanged i k s t) (b : LampsRightBut k s) :
    LampsRightBut k t := fun j hj hk => h.ok hk (b j hj hk)

theorem law_but {s k} (h : LampLaw s) : LampsRightBut k s := fun j hj _ => h j hj

/-- Setting a lamp changes no lamp that Table 4-6 gives. -/
theorem lampOf_setLamp (k x s j) : lampOf (setCardSlot k { cardSlotAt s k with lamp := x } s) j = lampOf s j := by
  have e : ∀ j, (cardSlotAt (setCardSlot k { cardSlotAt s k with lamp := x } s) j).present = (cardSlotAt s j).present ∧ (cardSlotAt (setCardSlot k { cardSlotAt s k with lamp := x } s) j).session = (cardSlotAt s j).session := by
    intro j; rw [cardSlotAt_set]; split
    · rename_i h; obtain ⟨rfl, -⟩ := h; exact ⟨rfl, rfl⟩
    · exact ⟨rfl, rfl⟩
  refine lampOf_same (e j).1 (e j).2 rfl ?_ ?_
  · intro i; unfold inSession; rw [(e j).2]; rfl
  · intro i _; exact ⟨rfl, rfl, rfl⟩

theorem lampOf_create (b s j) : lampOf (createReport b s) j = lampOf s j :=
  lampOf_same (by simp [cardSlotAt]) (by simp [cardSlotAt]) (by simp) (fun i => by simp [inSession, clipAt, cardSlotAt])
    (fun i _ => by simp [clipCritical, clipVerified, sourceRunning, clipAt])

theorem cardSlotAt_create (b s j) : cardSlotAt (createReport b s) j = cardSlotAt s j := by simp [cardSlotAt]

theorem computeLamp_ok (k s j) (h : j = k ∨ LampRight s j) (hj : j < 8) : LampRight (computeLamp k s) j := by
  unfold computeLamp; split
  · rename_i hc
    unfold changeLamp LampRight
    rw [lampOf_create, cardSlotAt_create, lampOf_setLamp, cardSlotAt_set]
    by_cases e : j = k
    · subst e
      by_cases hl : j < s.ct.slots.length
      · simp [hl]
      · have e2 : cardSlotAt s j = CardSlot.reset := by unfold cardSlotAt; rw [List.getD_eq_default _ _ (by omega)]
        have e3 : lampOf s j = .off := by unfold lampOf; rw [e2]; rfl
        exact absurd (by rw [e2, e3]; rfl) hc.2
    · rw [if_neg (by tauto)]
      rcases h with h | h
      · exact absurd h e
      · exact h
  · rename_i hc
    rcases h with h | h
    · subst h
      by_contra hn
      exact hc ⟨hj, fun e => hn e.symm⟩
    · exact h

theorem computeLamp_lamps {k s} (h : LampsRightBut k s) : LampLaw (computeLamp k s) := by
  intro j hj
  apply computeLamp_ok _ _ _ _ hj
  by_cases e : j = k
  · exact .inl e
  · exact .inr (h j hj e)

theorem computeLamps_lamps (ks s) (h : ∀ j, j < 8 → j ∈ ks ∨ LampRight s j) : LampLaw (computeLamps ks s) := by
  unfold computeLamps
  induction ks generalizing s with
  | nil => intro j hj; rcases h j hj with h | h
           · cases h
           · exact h
  | cons a ks ih =>
    apply ih
    intro j hj
    by_cases e : j = a
    · exact .inr (computeLamp_ok _ _ _ (.inl e) hj)
    · rcases h j hj with h | h
      · rcases List.mem_cons.1 h with h | h
        · exact absurd h e
        · exact .inl h
      · exact .inr (computeLamp_ok _ _ _ (.inr h) hj)

/-- Clip i is in use in card slot k, whose lamp alone may be due. -/
def LampDue (i k : Nat) (s : State) : Prop := LampsRightBut k s ∧ ∃ c, clipAt s i = some c ∧ c.slot = k

theorem LampDue.lamp {i k s} (h : LampDue i k s) : LampLaw (computeClipLamp i s) := by
  obtain ⟨h1, c, h2, h3⟩ := h
  unfold computeClipLamp; rw [h2]; dsimp only; rw [h3]; exact computeLamp_lamps h1

theorem LampDue.same {i k s t} (h : LampDue i k s) (ht : t.ct = s.ct) (hs : t.su.table = s.su.table) : LampDue i k t := by
  obtain ⟨h1, c, h2, h3⟩ := h
  exact ⟨(SameLamps.of ht hs).but h1, c, by simp only [clipAt, ht]; exact h2, h3⟩

theorem mark_slot {s i m c} (h : lampMark s i = some m) (hc : clipAt s i = some c) : m.1 = c.slot := by
  unfold lampMark at h; rw [hc] at h; simp at h; rw [← h]

theorem LampDue.setClip {i k s c'} (h : LampDue i k s) (hc : c'.slot = k) : LampDue i k (setClip i (some c') s) := by
  obtain ⟨h1, c, h2, h3⟩ := h
  refine ⟨OnlyClipChanged.but (i := i) (s := s) ⟨rfl, by simp [Machine.setClip], ?_, ?_, ?_⟩ h1, c', by rw [clipAt_set h2, if_pos rfl], hc⟩
  · intro x hx; unfold lampMark; rw [clipAt_set h2, if_neg hx]; exact ⟨rfl, rfl⟩
  · intro m hm; rw [mark_slot hm h2, h3]
  · intro m hm; rw [mark_slot hm (c := c') (by rw [clipAt_set h2, if_pos rfl]), hc]

theorem LampDue.report {i k s} (o ca) (h : LampDue i k s) : LampDue i k (reportClip i o ca s) := by
  unfold reportClip; split
  · exact h.same (by simp) (by simp)
  · exact h

theorem LampDue.count {i k s f} (h : LampDue i k s) (hf : f.clip = some i) : LampDue i k (countFault f s) := by
  unfold countFault
  rw [hf]; dsimp only
  obtain ⟨h1, c, h2, h3⟩ := h
  rw [h2]; dsimp only
  refine LampDue.setClip ⟨h1, c, h2, h3⟩ ?_
  unfold countedClip; split <;> exact h3

theorem LampDue.reportFault {i k s f} (h : LampDue i k s) (hf : f.clip = some i) : LampDue i k (reportFault f s) := by
  unfold Machine.reportFault; dsimp only
  have h1 : LampDue i k (countFault f (takeFaultId s)) := LampDue.count (h.same rfl rfl) hf
  exact (h1.same (t := storeFault (faultRecord s.fl.nextId f) (countFault f (takeFaultId s))) rfl rfl).same (by simp) (by simp)

theorem LampDue.raise {i k s f} (h : LampDue i k s) (hf : f.clip = some i) : LampDue i k (raiseFault false f s) := by
  unfold raiseFault; dsimp only; rw [hf]; dsimp only; simp only [Bool.false_eq_true, false_and, if_false]; exact h.reportFault hf

/-- countFault with same crit keeps marks -/
theorem reportFault_mark (f s) (h : critOpenOf f.clip s = critOpenOf f.clip (reportFault f s)) :
    SameLamps s (reportFault f s) := by
  refine ⟨by unfold reportFault; dsimp only; simp only [createReport_ct]; unfold storeFault countFault takeFaultId; dsimp only; (repeat' split) <;> rfl, ?_, ?_, by intro i; simp [sourceRunning]⟩
  · unfold reportFault; dsimp only; simp only [createReport_ct]; unfold storeFault countFault takeFaultId; dsimp only; (repeat' split) <;> simp [setClip]
  · intro i
    have e : ∀ i, clipAt (reportFault f s) i = clipAt (countFault f (takeFaultId s)) i := by
      intro i; unfold reportFault; dsimp only; unfold clipAt; simp only [createReport_ct]; rfl
    unfold lampMark; rw [e]
    unfold countFault
    cases hf : f.clip with
    | none => rfl
    | some j =>
      dsimp only
      cases hj : clipAt (takeFaultId s) j with
      | none => rfl
      | some c =>
        dsimp only
        rw [clipAt_set hj]
        split
        · rename_i hij; subst hij
          have hj' : clipAt s i = some c := hj
          rw [hj']
          rw [hf] at h
          unfold critOpenOf clipCounts at h
          simp only [e] at h
          unfold countFault at h
          simp only [hf, hj, clipAt_set hj] at h
          rw [hj'] at h
          simp at h
          simp only [Option.map_some]
          have hs : (countedClip (severityOf f.kind) c).slot = c.slot ∧ (countedClip (severityOf f.kind) c).session = c.session ∧ (countedClip (severityOf f.kind) c).state = c.state := by
            unfold countedClip; split <;> exact ⟨rfl, rfl, rfl⟩
          rw [hs.1, hs.2.1, hs.2.2, ← h]
        · rfl

theorem raise_lamps {s f} (h : LampLaw s) : LampLaw (raiseFault true f s) := by
  unfold raiseFault; dsimp only
  cases hf : f.clip with
  | none =>
    dsimp only
    refine (SameLamps.of ?_ (by simp)).law h
    unfold reportFault countFault; dsimp only; rw [hf]; dsimp only; simp [storeFault, takeFaultId]
  | some i =>
    dsimp only
    split
    · rename_i hc
      rw [← hf] at hc
      cases hi : clipAt s i with
      | none =>
        exfalso; apply hc.2
        have : (reportFault f s).ct = s.ct := by
          unfold reportFault countFault; dsimp only; rw [hf]; dsimp only
          have hi' : clipAt (takeFaultId s) i = none := hi
          rw [hi']; simp [storeFault, takeFaultId]
        unfold critOpenOf clipCounts clipAt; rw [this]
      | some c => exact (LampDue.reportFault (i := i) (k := c.slot) ⟨law_but h, c, hi, rfl⟩ hf).lamp
    · rename_i hc
      simp only [true_and, ne_eq, not_not] at hc
      exact (reportFault_mark f s (by rw [hf]; exact hc)).law h

theorem raiseFrame_lamps {k f d s} (h : LampLaw s) : LampLaw (raiseFrame k f d s) := raise_lamps h

theorem SameLamps.create (b) {s t} (h : SameLamps s t) : SameLamps s (createReport b t) := h.trans (.of (by simp) (by simp))

theorem create_lamps {b s} (h : LampLaw s) : LampLaw (createReport b s) := ((SameLamps.refl s).create b).law h

/-- a clip changed in nothing a lamp sees -/
theorem setClip_same {i c c' s} (h : clipAt s i = some c) (e1 : c'.slot = c.slot) (e2 : c'.session = c.session)
    (e3 : c'.state = c.state) (e4 : c'.critOpen = c.critOpen) : SameLamps s (setClip i (some c') s) := by
  refine ⟨rfl, by simp [setClip], ?_, fun _ => rfl⟩
  intro j; unfold lampMark; rw [clipAt_set h]; split
  · rename_i e; subst e; rw [h]; simp [e1, e2, e3, e4]
  · rfl

theorem reportClip_same (i o c) {s t} (h : SameLamps s t) : SameLamps s (reportClip i o c t) := by
  unfold reportClip; split
  · exact h.create _
  · exact h

theorem LampDue.mismatches {i k s} (ds) (h : LampDue i k s) : LampDue i k (raiseMismatches i ds s) := by
  unfold raiseMismatches
  induction ds generalizing s with
  | nil => exact h
  | cons d ds ih => exact ih (h.raise rfl)

theorem LampDue.verify {i k s} (h : LampDue i k s) : LampDue i k (verifyIfEnough i s) := by
  unfold verifyIfEnough; split
  · exact h
  · rename_i c hc
    split
    · apply LampDue.report; apply h.setClip
      obtain ⟨-, c2, h2, h3⟩ := h; rw [hc] at h2; cases h2; exact h3
    · exact h

theorem LampDue.slot {i k s c} (h : LampDue i k s) (hc : clipAt s i = some c) : c.slot = k := by
  obtain ⟨-, c2, h2, h3⟩ := h; rw [hc] at h2; cases h2; exact h3

theorem sourceGood_lamps {i fp k s} (h : LampDue i k s) : LampLaw (sourceGood i fp s) := by
  unfold sourceGood; split
  · rename_i hn; obtain ⟨-, c, hc, -⟩ := h; rw [hn] at hc; cases hc
  · rename_i c hc
    dsimp only
    exact (((h.setClip (c' := sourcedClip fp c) (show c.slot = k from h.slot hc)).report _ _).mismatches _).verify.lamp

theorem sourceFailed_W {i st k s} (p) (h : LampDue i k s) : (p = none → LampLaw (sourceFailed i st p s))
    ∧ (∀ n, p = some n → LampDue i k (sourceFailed i st p s)) := by
  unfold sourceFailed; split
  · rename_i hn; obtain ⟨-, c, hc, -⟩ := h; rw [hn] at hc; cases hc
  · rename_i c hc
    dsimp only
    have h1 := LampDue.raise (f := clipFinding .sourceUnverifiable (some i) st) ((h.setClip (c' := spoiledClip s i c) (show c.slot = k from h.slot hc)).report (some c.state) .sourceFailed) rfl
    constructor
    · rintro rfl; exact h1.lamp
    · rintro n rfl; exact h1.raise rfl

theorem compareDest_lamps {i c d fp s} (h : LampLaw s) (hc : clipAt s i = some c) : LampLaw (compareDest i c d fp s) := by
  unfold compareDest; dsimp only
  have e : (comparedClip c d fp).slot = c.slot ∧ (comparedClip c d fp).session = c.session ∧ (comparedClip c d fp).state = c.state ∧ (comparedClip c d fp).critOpen = c.critOpen := by
    unfold comparedClip; split <;> exact ⟨rfl, rfl, rfl, rfl⟩
  split
  · have : LampDue i c.slot s := ⟨law_but h, c, hc, rfl⟩
    exact ((this.setClip (c' := { comparedClip c d fp with state := .verified }) e.1).report _ _).lamp
  · have h1 := reportClip_same i (some c.state) .verdict (setClip_same hc e.1 e.2.1 e.2.2.1 e.2.2.2)
    split
    · exact h1.law h
    · -- COPY_MISMATCH is WARN: critOpen is kept
      have h2 := h1.law h
      generalize reportClip i (some c.state) .verdict (Machine.setClip i (some (comparedClip c d fp)) s) = t at h2
      unfold raiseFault; dsimp only [clipFinding]; simp only [Bool.false_eq_true, false_and, if_false]
      refine (reportFault_mark _ t ?_).law h2
      unfold critOpenOf clipCounts; dsimp only
      have e : ∀ (f : Finding) i, clipAt (reportFault f t) i = clipAt (countFault f (takeFaultId t)) i := by
        intro f i; unfold reportFault; dsimp only; unfold clipAt; simp only [createReport_ct]; rfl
      rw [e]; unfold countFault; dsimp only
      have e5 : clipAt (takeFaultId t) i = clipAt t i := rfl
      rw [e5]
      cases hx : clipAt t i with
      | none => dsimp only; rw [e5, hx]
      | some y => dsimp only; rw [clipAt_set (by rw [e5]; exact hx), if_pos rfl]; rfl

theorem destGood_lamps {i d fp s} (h : LampLaw s) : LampLaw (destGood i d fp s) := by
  unfold destGood; split
  · exact h
  · rename_i c hc
    split
    · exact (reportClip_same _ _ _ (setClip_same (c' := withDest c d { verdict := .pending, held := some fp }) hc rfl rfl rfl rfl)).law h
    · exact compareDest_lamps h hc
    · exact compareDest_lamps h hc
    · exact (reportClip_same _ _ _ (setClip_same (c' := withDest c d Dest.empty) hc rfl rfl rfl rfl)).law h

theorem destFailed_lamps {i d s} (h : LampLaw s) : LampLaw (destFailed i d s) := by
  unfold destFailed; split
  · exact h
  · rename_i c hc
    dsimp only
    exact (reportClip_same _ _ _ (setClip_same (c' := withDest c d { verdict := if c.state = .spoiled then .unset else .unverifiable, held := none }) hc rfl rfl rfl rfl)).law h

/-! streams -/
theorem any_set {p : Option Stream → Bool} {l : List (Option Stream)} {i x} (hp : p x = p (l.getD i none))
    (hi : i < l.length) : (l.set i x).any p = l.any p := by
  induction l generalizing i with
  | nil => rfl
  | cons a l ih =>
    cases i with
    | zero => simp at hp; simp [List.any_cons, hp]
    | succ i => simp only [List.set_cons_succ, List.any_cons]; rw [ih (by simpa using hp) (by simpa using hi)]

theorem running_set {id x s} (i) (h : (x.any (fun e => e.clip == i && e.role == .source)) = ((streamAt s id).any (fun e => e.clip == i && e.role == .source))) : sourceRunning (setStream id x s) i = sourceRunning s i := by
  unfold sourceRunning setStream; simp only [State.withSu_su]
  by_cases hi : id < s.su.table.length
  · exact any_set (p := fun e => e.any (fun x => x.clip == i && x.role == .source)) h hi
  · rw [List.set_eq_of_length_le (by omega)]

theorem setStream_same {id e e' s} (h : streamAt s id = some e) (hc : e'.clip = e.clip) (hr : e'.role = e.role) :
    SameLamps s (setStream id (some e') s) :=
  ⟨rfl, rfl, fun _ => rfl, fun i => running_set i (by rw [h]; simp [hc, hr])⟩

theorem setStream_dest {id d e s} (h : streamAt s id = some e) (hr : e.role = .dest d) :
    SameLamps s (setStream id none s) :=
  ⟨rfl, rfl, fun _ => rfl, fun i => running_set i (by rw [h]; simp [hr])⟩

theorem LampDue.setStream {id x i c s} (h : LampLaw s ∨ LampsRightBut c.slot s) (hc : clipAt s i = some c)
    (hx : ∀ j, j ≠ i → (x.any (fun e => e.clip == j && e.role == .source)) = ((streamAt s id).any (fun e => e.clip == j && e.role == .source))) : LampDue i c.slot (setStream id x s) := by
  have hb : LampsRightBut c.slot s := by rcases h with h | h; exact law_but h; exact h
  refine ⟨OnlyClipChanged.but (i := i) (s := s) ⟨rfl, rfl, ?_, ?_, ?_⟩ hb, c, hc, rfl⟩
  · intro j hj; exact ⟨rfl, running_set j (hx j hj)⟩
  · intro m hm; exact mark_slot hm hc
  · intro m hm; exact mark_slot hm hc

/-- clip FREE: its source stream is not seen -/
theorem setStream_free {id x i s} (h : LampLaw s) (hc : clipAt s i = none)
    (hx : ∀ j, j ≠ i → (x.any (fun e => e.clip == j && e.role == .source)) = ((streamAt s id).any (fun e => e.clip == j && e.role == .source))) : LampLaw (setStream id x s) := by
  have key : ∀ k, OnlyClipChanged i k s (setStream id x s) := by
    intro k
    refine ⟨rfl, rfl, ?_, ?_, ?_⟩
    · intro j hj; exact ⟨rfl, running_set j (hx j hj)⟩
    · intro m hm; unfold lampMark at hm; rw [hc] at hm; cases hm
    · intro m hm; have : clipAt (setStream id x s) i = none := hc
      unfold lampMark at hm; rw [this] at hm; cases hm
  intro j hj
  exact (key 8).ok (by omega) (h j hj)

theorem keepNote_same (id e o s) : SameLamps s (keepNote id e o s) := by
  unfold keepNote; split
  · exact .of rfl rfl
  · exact .refl s

theorem none_ne {id e s} (he : streamAt s id = some e) : ∀ j, j ≠ e.clip → ((none : Option Stream).any (fun e => e.clip == j && e.role == .source)) = ((streamAt s id).any (fun e => e.clip == j && e.role == .source)) := by
  intro j hj; rw [he]; simp [Ne.symm hj]

theorem endStream_lamps {id o a s} (h : LampLaw s) : LampLaw (endStream id o a none s) := by
  unfold endStream; split
  · exact h
  · rename_i e he
    apply (keepNote_same _ _ _ _).law
    unfold handToClip
    cases hr : e.role with
    | dest d =>
      have h1 : LampLaw (createReport (streamEndReport id e o a) (setStream id none s)) := create_lamps ((setStream_dest he hr).law h)
      have g1 : ∀ fp, LampLaw (destGood e.clip d fp (createReport (streamEndReport id e o a) (setStream id none s))) := fun _ => destGood_lamps h1
      have g2 : LampLaw (destFailed e.clip d (createReport (streamEndReport id e o a) (setStream id none s))) := destFailed_lamps h1
      cases o
      · exact g1 _
      all_goals exact g2
    | source =>
      cases hc : clipAt s e.clip with
      | none =>
        have h1 : LampLaw (createReport (streamEndReport id e o a) (setStream id none s)) := create_lamps (setStream_free h hc (none_ne he))
        have hc1 : clipAt (createReport (streamEndReport id e o a) (setStream id none s)) e.clip = none := by
          rw [← hc]; unfold clipAt; simp
        have g1 : ∀ fp, LampLaw (sourceGood e.clip fp (createReport (streamEndReport id e o a) (setStream id none s))) := by
          intro fp; unfold sourceGood; rw [hc1]; exact h1
        have g2 : LampLaw (sourceFailed e.clip id none (createReport (streamEndReport id e o a) (setStream id none s))) := by
          unfold sourceFailed; rw [hc1]; exact h1
        cases o
        · exact g1 _
        all_goals exact g2
      | some c =>
        have h1 : LampDue e.clip c.slot (createReport (streamEndReport id e o a) (setStream id none s)) :=
          (LampDue.setStream (.inl h) hc (none_ne he)).same (by simp) (by simp)
        have g1 : ∀ fp, LampLaw (sourceGood e.clip fp (createReport (streamEndReport id e o a) (setStream id none s))) := fun _ => sourceGood_lamps h1
        have g2 : LampLaw (sourceFailed e.clip id none (createReport (streamEndReport id e o a) (setStream id none s))) := (sourceFailed_W none h1).1 rfl
        cases o
        · exact g1 _
        all_goals exact g2

theorem streamBeat_lamps {i a d st m s} (h : LampLaw s) : LampLaw (streamBeat i a d st m s).1 := by
  unfold streamBeat; split
  · exact h
  · rename_i e he
    split
    · exact endStream_lamps h
    · dsimp only
      have key : ∀ e' : Stream, e'.clip = e.clip → e'.role = e.role → LampLaw (if e'.expected ≠ 0 ∧ e'.bytes = e'.expected then
          endStream i .good none none (setStream i (some e') s) else setStream i (some e') s) := by
        intro e' hcl hr
        have h1 := (setStream_same he hcl hr).law h
        split
        · exact endStream_lamps h1
        · exact h1
      rename_i n _
      exact key { takenStream e d st n with outstanding := if (!m.contains (Mark.stream e.serial)) = true then e.outstanding + 1 else e.outstanding } rfl rfl

theorem streamResponse_lamps {n ok s} (h : LampLaw s) : LampLaw (streamResponse n ok s) := by
  unfold streamResponse; split
  · unfold noteResponse; split
    · exact h
    · dsimp only; split
      · exact raise_lamps ((SameLamps.of rfl rfl).law h)
      · exact (SameLamps.of (s := s) rfl rfl).law h
  · split
    · exact h
    · dsimp only; split
      · rename_i e he _
        exact (setStream_same (e' := { e with outstanding := e.outstanding - 1 }) he rfl rfl).law h
      · rename_i e he _
        exact endStream_lamps ((setStream_same (e' := { e with outstanding := e.outstanding - 1 }) he rfl rfl).law h)

theorem sourceOpened_lamps {i k s} (h : LampDue i k s) : LampLaw (sourceOpened i s) := by
  unfold sourceOpened; split
  · rename_i hn; obtain ⟨-, c, hc, -⟩ := h; rw [hn] at hc; cases hc
  · rename_i c hc
    split
    · exact ((h.setClip (c' := reopenedClip s c) (show c.slot = k from h.slot hc)).report _ _).lamp
    · exact h.lamp

theorem destOpened_lamps {i d s} (h : LampLaw s) : LampLaw (destOpened i d s) := by
  unfold destOpened; split
  · exact h
  · rename_i c hc
    exact (reportClip_same _ _ _ (setClip_same (c' := withDest c d { verdict := .pending, held := none }) hc rfl rfl rfl rfl)).law h

theorem streamOpen_lamps {c r d b l x s} (h : LampLaw s) : LampLaw (streamOpenAct c r d b l x s).1 := by
  unfold streamOpenAct; dsimp only [refuse]; split
  · exact h
  · split
    · exact h
    · split
      · exact h
      · rename_i y hclip
        split
        · exact h
        · rename_i id hid
          split
          · exact h
          · split
            · exact h
            · unfold openStream
              dsimp only
              have hn : streamAt s id = none := by
                unfold freeStream at hid
                obtain ⟨h1, h2, -⟩ := List.findIdx?_eq_some_iff_getElem.1 hid
                unfold streamAt; rw [List.getD_eq_getElem _ _ h1]; simpa using h2
              generalize hE : openedStream s c _ b l x = E
              have hcE : E.clip = c := by rw [← hE]; rfl
              cases hr : E.role with
              | source =>
                dsimp only
                rw [hcE]
                refine sourceOpened_lamps (k := y.slot) (LampDue.same (s := setStream id (some E) s) (LampDue.setStream (.inl h) hclip ?_) rfl rfl)
                intro j hj; rw [hn]; simp [hcE, Ne.symm hj]
              | dest q =>
                dsimp only
                apply destOpened_lamps
                have h1 : SameLamps s (setStream id (some E) s) := ⟨rfl, rfl, fun _ => rfl, fun i => running_set (x := some E) i (by rw [hn]; simp [hr])⟩
                exact (h1.trans (u := ((setStream id (some E) s).withSu _)) (.of rfl rfl)).law h

theorem clipOpen_lamps {l k c r s} (h : LampLaw s) : LampLaw (clipOpenAct l k c r s).1 := by
  unfold clipOpenAct; dsimp only [refuse]; split
  · exact h
  · split
    · exact h
    · split
      · exact h
      · split
        · exact h
        · rename_i i hi
          obtain ⟨hc, hl⟩ : clipAt s i = none ∧ i < s.ct.clips.length := by
            unfold freeClip at hi
            obtain ⟨h1, h2, -⟩ := List.findIdx?_eq_some_iff_getElem.1 hi
            refine ⟨?_, h1⟩
            unfold clipAt; rw [List.getD_eq_getElem _ _ h1]; simpa using h2
          dsimp only
          apply computeLamp_lamps
          have hat : clipAt (setClip i (some (openedClip s l k c r)) s) i = some (openedClip s l k c r) := by rw [clipAt_setClip]; simp [hl]
          refine (reportClip_same _ _ _ (.refl _)).but ?_
          refine OnlyClipChanged.but (i := i) (s := s) ⟨rfl, by simp [setClip], ?_, ?_, ?_⟩ (law_but h)
          · intro x hx; unfold lampMark; rw [clipAt_setClip, if_neg (by tauto)]; exact ⟨rfl, rfl⟩
          · intro m hm; unfold lampMark at hm; rw [hc] at hm; cases hm
          · intro m hm; rw [mark_slot hm hat]; rfl

theorem clipRetire_lamps {i s} (h : LampLaw s) : LampLaw (clipRetireAct i s).1 := by
  unfold clipRetireAct; dsimp only [refuse]; split
  · exact h
  · split
    · exact h
    · rename_i c hc
      split
      · exact h
      · unfold retireClip; dsimp only
        apply computeLamp_lamps
        have h1 : SameLamps s (forgetClip i (markRetired i (createReport (.clipState i c (some c.state) none .retired) s))) :=
          .of (by simp [markRetired, forgetClip]) (by simp [markRetired, forgetClip])
        have hb := h1.but (law_but h : LampsRightBut c.slot s)
        have hc1 : clipAt (forgetClip i (markRetired i (createReport (.clipState i c (some c.state) none .retired) s))) i = some c := by
          rw [← hc]; unfold clipAt; simp [markRetired, forgetClip]
        generalize forgetClip i (markRetired i (createReport (.clipState i c (some c.state) none .retired) s)) = t at *
        refine OnlyClipChanged.but (i := i) (s := t) ⟨rfl, by simp [setClip], ?_, ?_, ?_⟩ hb
        · intro x hx; unfold lampMark; rw [clipAt_setClip, if_neg (by tauto)]; exact ⟨rfl, rfl⟩
        · intro m hm; exact mark_slot hm hc1
        · intro m hm; unfold lampMark at hm; rw [clipAt_setClip] at hm; simp [clipAt_lt hc1] at hm

theorem LampDue.subtract {i k s} (h : LampDue i k s) : LampDue i k (subtractCrit (some i) s) := by
  unfold subtractCrit; dsimp only; split
  · exact h
  · rename_i c hc; exact h.setClip (show c.slot = k from h.slot hc)

theorem faultAck_lamps {id s} (h : LampLaw s) : LampLaw (faultAckAct id s).1 := by
  unfold faultAckAct; split
  · exact h
  · rename_i r hr
    split
    · exact h
    · dsimp only
      have h1 : LampLaw (ackRecords (fun x => x.id == id) s) := (SameLamps.of rfl rfl).law h
      cases ha : acknowledgedClip r with
      | none => exact h1
      | some i =>
        dsimp only
        cases hc : clipAt s i with
        | none =>
          have hc' : clipAt (ackRecords (fun x => x.id == id) s) i = none := hc
          unfold subtractCrit; dsimp only; rw [hc']; dsimp only
          unfold computeClipLamp; rw [hc']; exact h1
        | some c => exact (LampDue.subtract (i := i) (k := c.slot) ⟨law_but h1, c, hc, rfl⟩).lamp

theorem clipFaultsAck_lamps {c s} (h : LampLaw s) : LampLaw (clipFaultsAckAct c s).1 := by
  unfold clipFaultsAckAct; split
  · exact h
  · split
    · exact h
    · rename_i x hx
      dsimp only
      have h1 : LampLaw (ackRecords (clipFaultTest c) s) := (SameLamps.of rfl rfl).law h
      have hx' : clipAt (ackRecords (clipFaultTest c) s) c = some x := hx
      split
      · rename_i h0; exact (setClip_same (c' := { x with critOpen := 0 }) hx' rfl rfl rfl h0.symm).law h1
      · exact (LampDue.setClip (c' := { x with critOpen := 0 }) (⟨law_but h1, x, hx', rfl⟩ : LampDue c x.slot _) rfl).lamp

/-- critOpen differences only -/
theorem fold_sub (l : List FaultRecord) (s : State) :
    (l.foldl (fun x r => subtractCrit (acknowledgedClip r) x) s).ct.slots = s.ct.slots ∧
    (l.foldl (fun x r => subtractCrit (acknowledgedClip r) x) s).ct.clips.length = s.ct.clips.length ∧
    (l.foldl (fun x r => subtractCrit (acknowledgedClip r) x) s).su = s.su ∧
    ∀ i, ((clipAt s i = none ∧ clipAt (l.foldl (fun x r => subtractCrit (acknowledgedClip r) x) s) i = none) ∨
      ∃ c n, clipAt s i = some c ∧ clipAt (l.foldl (fun x r => subtractCrit (acknowledgedClip r) x) s) i = some { c with critOpen := n }) := by
  have step : ∀ (o : Option Nat) (s : State), (subtractCrit o s).ct.slots = s.ct.slots ∧ (subtractCrit o s).ct.clips.length = s.ct.clips.length ∧ (subtractCrit o s).su = s.su ∧
      ∀ i, (clipAt s i = none ∧ clipAt (subtractCrit o s) i = none) ∨ ∃ c n, clipAt s i = some c ∧ clipAt (subtractCrit o s) i = some { c with critOpen := n } := by
    intro o s
    have id : ∀ i, (clipAt s i = none ∧ clipAt s i = none) ∨ ∃ c n, clipAt s i = some c ∧ clipAt s i = some { c with critOpen := n } := by
      intro i; cases h : clipAt s i with
      | none => exact .inl ⟨rfl, rfl⟩
      | some c => exact .inr ⟨c, c.critOpen, rfl, rfl⟩
    unfold subtractCrit; split
    · exact ⟨rfl, rfl, rfl, id⟩
    · split
      · exact ⟨rfl, rfl, rfl, id⟩
      · rename_i j _ c hc
        refine ⟨rfl, by simp [setClip], rfl, ?_⟩
        intro i; rw [clipAt_set hc]; split
        · rename_i e; subst e; exact .inr ⟨c, _, hc, rfl⟩
        · exact id i
  induction l generalizing s with
  | nil =>
    refine ⟨rfl, rfl, rfl, ?_⟩
    intro i; cases h : clipAt s i with
    | none => exact .inl ⟨rfl, h⟩
    | some c => exact .inr ⟨c, c.critOpen, rfl, h⟩
  | cons a l ih =>
    obtain ⟨h1, h2, h3, h4⟩ := step (acknowledgedClip a) s
    obtain ⟨k1, k2, k3, k4⟩ := ih (subtractCrit (acknowledgedClip a) s)
    rw [List.foldl_cons]
    refine ⟨k1.trans h1, k2.trans h2, k3.trans h3, ?_⟩
    intro i
    rcases h4 i with ⟨a1, a2⟩ | ⟨c, n, a1, a2⟩
    · rcases k4 i with ⟨b1, b2⟩ | ⟨c, n, b1, b2⟩
      · exact .inl ⟨a1, b2⟩
      · rw [a2] at b1; cases b1
    · rcases k4 i with ⟨b1, b2⟩ | ⟨c', n', b1, b2⟩
      · rw [a2] at b1; cases b1
      · rw [a2] at b1; cases b1; exact .inr ⟨c, n', a1, b2⟩

theorem ackFrame_lamps {c n s} (h : LampLaw s) : LampLaw (ackFrame c n s).1 := by
  unfold ackFrame; dsimp only
  apply computeLamps_lamps
  intro k hk
  obtain ⟨h1, h2, h3, h4⟩ := fold_sub (s.fl.records.filter (frameFaultTest c n)) (ackRecords (frameFaultTest c n) s)
  generalize (s.fl.records.filter (frameFaultTest c n)).foldl (fun x r => subtractCrit (acknowledgedClip r) x) (ackRecords (frameFaultTest c n) s) = t at *
  by_cases hm : k ∈ (List.range 8).filter (fun k => (List.range s.ct.clips.length).any (fun i =>
    (clipAt t i).any (fun c => c.slot == k) && critOpenOf (some i) s != critOpenOf (some i) t))
  · exact .inl hm
  · right
    have hm' : ∀ i, i < s.ct.clips.length → (clipAt t i).any (fun c => c.slot == k) = true → critOpenOf (some i) s = critOpenOf (some i) t := by
      intro i hi hc
      by_contra hne
      apply hm
      rw [List.mem_filter, List.any_eq_true]
      refine ⟨List.mem_range.2 hk, i, List.mem_range.2 hi, ?_⟩
      simp [hc, hne]
    have e : ∀ j, cardSlotAt t j = cardSlotAt s j := fun j => by simp [cardSlotAt, h1, ackRecords]
    have hk' := h k hk
    unfold LampRight at *
    rw [e, hk']
    have ec : ∀ i, clipAt (ackRecords (frameFaultTest c n) s) i = clipAt s i := fun _ => rfl
    have h2' : t.ct.clips.length = s.ct.clips.length := h2
    refine (lampOf_same (by rw [e]) (by rw [e]) h2' ?_ ?_).symm
    · intro i; unfold inSession; rw [e]
      rcases h4 i with ⟨a1, a2⟩ | ⟨c, n, a1, a2⟩
      · rw [ec] at a1; rw [a1, a2]
      · rw [ec] at a1; rw [a1, a2]
    · intro i hi
      rcases h4 i with ⟨a1, a2⟩ | ⟨c, n, a1, a2⟩
      · rw [ec] at a1; unfold inSession at hi; rw [a1] at hi; cases hi
      · rw [ec] at a1
        unfold inSession at hi; rw [a1] at hi
        simp at hi
        have := hm' i (clipAt_lt a1) (by rw [a2]; simp [hi.1])
        unfold critOpenOf clipCounts at this
        simp [a1, a2] at this
        refine ⟨?_, ?_, ?_⟩
        · unfold clipCritical; rw [a1, a2]; simp [this]
        · unfold clipVerified; rw [a1, a2]; rfl
        · unfold sourceRunning; rw [h3]; rfl

/-- card removal -/
theorem endStream_at (id o a p s j) : streamAt (endStream id o a p s) j = streamAt s j ∨ streamAt (endStream id o a p s)
    j = none := by
  unfold endStream; split
  · exact .inl rfl
  · have e : ∀ u : State, u.su.table = (s.su.table.set id none) → (streamAt u j = streamAt s j ∨ streamAt u j = none) := by
      intro u hu
      unfold streamAt; rw [hu]
      simp only [List.getD_eq_getElem?_getD, List.getElem?_set]
      split
      · right; split <;> rfl
      · left; rfl
    apply e
    unfold keepNote; split <;> simp [setStream]

theorem slot_reportFault (f s i c) (h : clipAt s i = some c) : ∃ c', clipAt (reportFault f s)
    i = some c' ∧ c'.slot = c.slot := by
  have e : clipAt (reportFault f s) i = clipAt (countFault f (takeFaultId s)) i := by
    unfold reportFault; dsimp only; unfold clipAt; simp only [createReport_ct]; rfl
  rw [e]; unfold countFault
  have h' : clipAt (takeFaultId s) i = some c := h
  split
  · exact ⟨c, h', rfl⟩
  · split
    · exact ⟨c, h', rfl⟩
    · rename_i j _ x hx
      rw [clipAt_set hx]; split
      · rename_i e; subst e; rw [h'] at hx; cases hx; refine ⟨_, rfl, ?_⟩; unfold countedClip; split <;> rfl
      · exact ⟨c, h', rfl⟩

/-- Every clip keeps its slot. -/
def KeepsSlots (s t : State) : Prop := ∀ i c, clipAt s i = some c → ∃ c', clipAt t i = some c' ∧ c'.slot = c.slot

theorem sourceFailed_slots (i st k s) : KeepsSlots s (sourceFailed i st (some k) s) := by
  intro j c hj
  unfold sourceFailed; split
  · exact ⟨c, hj, rfl⟩
  · rename_i x hx
    dsimp only
    have h1 : ∃ c', clipAt (reportClip i (some x.state) .sourceFailed (setClip i (some (spoiledClip s i x)) s)) j = some c' ∧ c'.slot = c.slot := by
      have e : clipAt (reportClip i (some x.state) .sourceFailed (setClip i (some (spoiledClip s i x)) s)) j = clipAt (setClip i (some (spoiledClip s i x)) s) j := by
        unfold reportClip; split
        · unfold clipAt; simp
        · rfl
      rw [e, clipAt_set hx]; split
      · rename_i e; subst e; rw [hj] at hx; cases hx; exact ⟨_, rfl, rfl⟩
      · exact ⟨c, hj, rfl⟩
    obtain ⟨c1, h1, s1⟩ := h1
    have r : ∀ f s, raiseFault false f s = reportFault f s := by
      intro f s; unfold raiseFault; dsimp only; cases f.clip <;> simp
    rw [r, r]
    obtain ⟨c2, h2, s2⟩ := slot_reportFault (clipFinding .sourceUnverifiable (some i) st) _ _ _ h1
    obtain ⟨c3, h3, s3⟩ := slot_reportFault (clipFinding .cardPulled (some i) k) _ _ _ h2
    exact ⟨c3, h3, by rw [s3, s2, s1]⟩

theorem endPulled {id k s} (hb : LampsRightBut k s) (hs : ∀ e, streamAt s id = some e → e.role = .source ∧ ∃ c, clipAt s e.clip = some c ∧ c.slot = k) :
    LampsRightBut k (endStream id .aborted none (some k) s) ∧ KeepsSlots s (endStream id .aborted none (some k) s) := by
  unfold endStream; split
  · exact ⟨hb, fun i c h => ⟨c, h, rfl⟩⟩
  · rename_i e he
    obtain ⟨hr, c, hc, hk⟩ := hs e he
    have h1 : LampDue e.clip c.slot (createReport (streamEndReport id e .aborted none) (setStream id none s)) :=
          (LampDue.setStream (.inr (by rw [hk]; exact hb)) hc (none_ne he)).same (by simp) (by simp)
    unfold handToClip; rw [hr]; dsimp only
    have h2 := ((sourceFailed_W (some k) h1 (st := id)).2 k rfl).1
    rw [hk] at h2
    constructor
    · exact (keepNote_same _ _ _ _).but h2
    · intro i x hx
      have hx' : clipAt (createReport (streamEndReport id e .aborted none) (setStream id none s)) i = some x := by
        rw [← hx]; unfold clipAt; simp
      obtain ⟨c', h3, h4⟩ := sourceFailed_slots e.clip id k _ i x hx'
      refine ⟨c', ?_, h4⟩
      rw [← h3]; unfold keepNote; split <;> rfl

theorem cardRemoval_lamps {k s} (h : LampLaw s) : LampLaw (cardRemoval k s) := by
  unfold cardRemoval; dsimp only; split
  · have hb : LampsRightBut k (pullSources k s) := by
      unfold pullSources
      have key : ∀ (l : List Nat) (t : State), LampsRightBut k t → (∀ id ∈ l, ∀ e, streamAt t id = some e → e.role = .source ∧ ∃ c, clipAt t e.clip = some c ∧ c.slot = k) →
          LampsRightBut k (l.foldl (fun t id => endStream id .aborted none (some k) t) t) := by
        intro l
        induction l with
        | nil => intro t ht _; exact ht
        | cons a l ih =>
          intro t ht hl
          obtain ⟨h1, h2⟩ := endPulled ht (hl a List.mem_cons_self)
          apply ih _ h1
          intro id hid e he
          rcases endStream_at a .aborted none (some k) t id with h3 | h3
          · rw [h3] at he
            obtain ⟨hr, c, hc, hk⟩ := hl id (List.mem_cons_of_mem _ hid) e he
            obtain ⟨c', hc', hk'⟩ := h2 _ _ hc
            exact ⟨hr, c', hc', by rw [hk', hk]⟩
          · rw [h3] at he; cases he
      apply key _ _ (law_but h)
      intro id hid e he
      have := (List.mem_filter.1 hid).2
      rw [he] at this
      simp [inSession] at this
      obtain ⟨hr, hi⟩ := this
      refine ⟨hr, ?_⟩
      cases hc : clipAt s e.clip with
      | none => rw [hc] at hi; cases hi
      | some c => rw [hc] at hi; simp at hi; exact ⟨c, rfl, hi.1⟩
    generalize pullSources k s = t at *
    apply computeLamp_lamps
    intro j hj hk
    have e : ∀ x, cardSlotAt (setCardSlot k x t) j = cardSlotAt t j := fun x => by rw [cardSlotAt_set, if_neg (by tauto)]
    unfold LampRight
    rw [e, hb j hj hk]
    refine (lampOf_same (congrArg _ (e _)) (congrArg _ (e _)) rfl ?_ ?_).symm
    · intro i; unfold inSession; rw [e]; rfl
    · intro i _; exact ⟨rfl, rfl, rfl⟩
  · exact h

theorem cardInsertion_lamps {k s} (h : LampLaw s) : LampLaw (cardInsertion k s) := by
  unfold cardInsertion; dsimp only; split
  · apply computeLamp_lamps
    intro j hj hk
    have e : ∀ x, cardSlotAt (setCardSlot k x s) j = cardSlotAt s j := fun x => by rw [cardSlotAt_set, if_neg (by tauto)]
    unfold LampRight
    rw [e, h j hj]
    refine (lampOf_same (congrArg _ (e _)) (congrArg _ (e _)) rfl ?_ ?_).symm
    · intro i; unfold inSession; rw [e]; rfl
    · intro i _; exact ⟨rfl, rfl, rfl⟩
  · exact h

theorem cardDet_lamps {k b s} (h : LampLaw s) : LampLaw (cardDetChange k b s) := by
  unfold cardDetChange; dsimp only
  intro j hj
  generalize changeAfter b _ _ _ = p
  have e : (cardSlotAt (setCardSlot k { cardSlotAt s k with detLow := b, changePending := p } s) j).present = (cardSlotAt s j).present ∧ (cardSlotAt (setCardSlot k { cardSlotAt s k with detLow := b, changePending := p } s) j).session = (cardSlotAt s j).session ∧ (cardSlotAt (setCardSlot k { cardSlotAt s k with detLow := b, changePending := p } s) j).lamp = (cardSlotAt s j).lamp := by
    rw [cardSlotAt_set]; split
    · rename_i h; obtain ⟨rfl, -⟩ := h; exact ⟨rfl, rfl, rfl⟩
    · exact ⟨rfl, rfl, rfl⟩
  rw [e.2.2, h j hj]
  refine (lampOf_same e.1 e.2.1 rfl ?_ ?_).symm
  · intro i; unfold inSession; rw [e.2.1]; rfl
  · intro i _; exact ⟨rfl, rfl, rfl⟩
/-! frames -/
theorem ctu_lamps {x s} (h : LampLaw s) : LampLaw (s.withCtu x) := (SameLamps.of (s := s) rfl rfl).law h

theorem fiu_lamps {x s} (h : LampLaw s) : LampLaw (s.withFiu x) := (SameLamps.of (s := s) rfl rfl).law h

theorem fold_lamps {α} {f : State → α → State} (hf : ∀ t a, LampLaw t → LampLaw (f t a)) (l : List α) {t} (h : LampLaw t)
    : LampLaw (l.foldl f t) := by
  induction l generalizing t with
  | nil => exact h
  | cons a l ih => exact ih (hf _ _ h)

theorem countFrame_lamps {c l s} (h : LampLaw s) : LampLaw (countFrame c l s) := by
  unfold countFrame; split
  · exact h
  · split
    · exact h
    · rename_i c hc; exact (setClip_same (c' := { c with frames := satAdd 4294967295 c.frames 1 }) hc rfl rfl rfl rfl).law h

theorem unpaired_lamps {k p x s} (h : LampLaw s) : LampLaw (raiseUnpaired k p x s) := raise_lamps h

theorem pairFrame_lamps {k p f x l s} (h : LampLaw s) : LampLaw (pairFrame k p f x l s) := by
  unfold pairFrame; dsimp only
  have h1 := fold_lamps (f := fun x r => raiseUnpaired k p r x) (fun t a ht => unpaired_lamps ht) (p.queue.takeWhile (isEarlier l x.count)) (ctu_lamps h : LampLaw (setQueue k (p.queue.dropWhile (isEarlier l x.count)) s))
  split
  · exact ctu_lamps h1
  · split
    · unfold checkExposurePair; dsimp only; repeat' split
      all_goals first | exact raiseFrame_lamps (ctu_lamps h1) | exact ctu_lamps h1
    · exact unpaired_lamps h1

theorem stereo_lamps {f c m s} (h : LampLaw s) : LampLaw (stereoStep f c m s) := by
  unfold stereoStep holdFrame; dsimp only; repeat' split
  all_goals first | exact h | exact ctu_lamps h | exact pairFrame_lamps h | exact ctu_lamps (unpaired_lamps (ctu_lamps h))

theorem tracker_lamps {f s} (h : LampLaw s) : LampLaw (trackerSteps f s) := by
  unfold trackerSteps
  apply fold_lamps
  · intro t a ht; unfold checkStuck; split
    · exact ht
    · split
      · exact raise_lamps (ctu_lamps ht)
      · exact ht
  · exact (SameLamps.of (by simp) (by simp)).law h

theorem endFrame_lamps {k f s} (h : LampLaw s) : LampLaw (endFrame k f s) := by
  unfold endFrame trackFrame rememberFrame; dsimp only
  apply ctu_lamps; apply stereo_lamps; apply tracker_lamps
  have h1 : LampLaw (reportFrame k { f with state := .complete } (countFrame f.clip f.label (setFrameSlot k { f with state := .complete } s))) := by
    unfold reportFrame; split
    · exact create_lamps (countFrame_lamps (fiu_lamps h))
    · exact countFrame_lamps (fiu_lamps h)
  generalize reportFrame k _ _ = t at h1
  have h2 : ∀ b, LampLaw (checkInvalid { f with state := .complete } b t) := by
    intro b; unfold checkInvalid; split; exact h1; exact raiseFrame_lamps h1
  have h3 : ∀ u c, LampLaw u → LampLaw (checkHistory { f with state := .complete } c u) := by
    intro u c hu
    have a1 : ∀ l, LampLaw (checkNumber { f with state := .complete } l u) := by
      intro l; unfold checkNumber; repeat' split
      all_goals first | exact hu | exact raiseFrame_lamps hu
    have a2 : ∀ v b l c, LampLaw v → LampLaw (checkTimecode { f with state := .complete } b l c v) := by
      intro v b l c hv; unfold checkTimecode; dsimp only; split; exact raiseFrame_lamps hv; exact hv
    have a3 : ∀ v l c, LampLaw v → LampLaw (checkFrozen { f with state := .complete } l c v) := by
      intro v l c hv; unfold checkFrozen; split; exact raiseFrame_lamps hv; exact hv
    unfold checkHistory; split
    · exact hu
    · exact a3 _ _ _ (a2 _ _ _ _ (a1 _))
  have h4 : ∀ u q, LampLaw u → LampLaw (checkExposure { f with state := .complete } q u) := by
    intro u q hu; unfold checkExposure; dsimp only; repeat' split
    all_goals first | exact hu | exact raiseFrame_lamps (ctu_lamps hu)
  exact h4 _ _ (h3 _ _ (h2 _))

theorem notice_lamps {k s} (h : LampLaw s) : LampLaw (noticeViews k s) := (SameLamps.of (by simp) (by simp)).law h

theorem poolBeat_lamps {r b i d st p s} (h : LampLaw s) : LampLaw (poolBeat r b i d st p s).1 := by
  unfold poolBeat; dsimp only; split
  · unfold headerBeat; split
    · exact h
    · split
      · unfold takeHeader; dsimp only
        apply notice_lamps
        have h1 : LampLaw (abandonFrame ((beatAddress r i - p.base) / p.size) s) := by
          unfold abandonFrame; split; exact raiseFrame_lamps h; exact h
        unfold settleHeader; split
        · exact raise_lamps (fiu_lamps h1)
        · dsimp only; split
          · exact raiseFrame_lamps (fiu_lamps h1)
          · exact fiu_lamps h1
      · unfold spoilHeader; dsimp only
        apply notice_lamps
        split
        · exact raiseFrame_lamps (fiu_lamps h)
        · exact raise_lamps (fiu_lamps h)
  · unfold bodyBeat; dsimp only; split
    · exact fiu_lamps h
    · split
      · exact raiseFrame_lamps (fiu_lamps h)
      · dsimp only; split
        · exact endFrame_lamps h
        · exact fiu_lamps h

theorem doAction_lamps {a v s} (h : LampLaw s) : LampLaw (doAction a v s).1 := by
  unfold doAction; split
  case h_9 => exact ackFrame_lamps h
  all_goals exact (SameLamps.of (by simp) (by simp)).law h

end Sys2Proof.Machine
end

