-- ==== Sys2Proof/Laws/PerInstr.lean ====
section
/-! SUPPORT. Statements for all commands, proved one constructor at a time.

Codes: what Table 12-2 gives a command as its record. -/

namespace Sys2Proof.Laws.Codes

open Sys2Proof

/-- A command that has a record has a 16-bit code and at most 56 bytes of payload, and its code is in the code table but
for UNKNOWN_COMMAND (Section 12.2, R167). -/
def Statement (i : Instr) : Prop :=
  ∀ f, commandFields i = some f → f.1 < 65536 ∧ widthOf f.2 ≤ 56 ∧ (isCommandCode f.1 = true ∨ ∃ code, i = .unknownCommand code)

/-- A command with no record. -/
theorem of_none {i : Instr} (h : commandFields i = none) : Statement i := by
  intro f hf
  rw [h] at hf
  cases hf

/-- A command of the code table. -/
theorem of_some {i : Instr} {c : Nat} {l : List (Nat × Nat)} (h : commandFields i = some (c, l)) (hc : isCommandCode c = true)
    (hs : c < 65536) (hl : widthOf l ≤ 56) : Statement i := by
  intro f hf
  rw [h] at hf
  cases hf
  exact ⟨hs, hl, .inl hc⟩

theorem hardReset (straps : BitVec 8) : Statement (.hardReset straps) :=
  of_none rfl

theorem writeRequestAddress (req : Request) : Statement (.writeRequestAddress req) :=
  of_none rfl

theorem readRequest (req : Request) : Statement (.readRequest req) :=
  of_none rfl

theorem writeBeat (data : BeatData) (strobes : Strobes) : Statement (.writeBeat data strobes) :=
  of_none rfl

theorem writeResponse (id : Nat) (resp : Resp) : Statement (.writeResponse id resp) :=
  of_none rfl

theorem forwardedReadData (id : Nat) (beats : List ReadBeat) : Statement (.forwardedReadData id beats) :=
  of_none rfl

theorem orderBookRelease (dir : Dir) (id : Nat) : Statement (.orderBookRelease dir id) :=
  of_none rfl

theorem arbiterSend : Statement .arbiterSend :=
  of_none rfl

theorem preResetResponse : Statement .preResetResponse :=
  of_none rfl

theorem reportMadeReady : Statement .reportMadeReady :=
  of_none rfl

theorem reportWriteResponse (sequence : BitVec 32) (resp : Resp) : Statement (.reportWriteResponse sequence resp) :=
  of_none rfl

theorem lookFetchBeat (slot : Fin 8) (data : BeatData) (resp : Resp) : Statement (.lookFetchBeat slot data resp) :=
  of_none rfl

theorem viewFetchReturn (read : Nat) (index : Nat) (beats : List ReadBeat)
    : Statement (.viewFetchReturn read index beats) :=
  of_none rfl

theorem commandRecordIgnored (slot : Fin 64) (sequence : BitVec 32) : Statement (.commandRecordIgnored slot sequence) :=
  of_none rfl

theorem commandSlotPartial (slot : Fin 64) (seen : BitVec 32) : Statement (.commandSlotPartial slot seen) :=
  of_none rfl

theorem consumedCountWrite (count : BitVec 32) : Statement (.consumedCountWrite count) :=
  of_none rfl

theorem unknownCommand (code : BitVec 16) : Statement (.unknownCommand code) := by
  intro f hf
  cases hf
  exact ⟨code.isLt, by simp [widthOf], .inr ⟨code, rfl⟩⟩

theorem poolSet (base : BitVec 64) (slotCount : BitVec 16) (slotSize : BitVec 64)
    : Statement (.poolSet base slotCount slotSize) :=
  of_some rfl (by decide) (by decide) (by simp [widthOf, fieldOf])

theorem viewWindowSet (view : BitVec 8) (base : BitVec 64) (width : BitVec 16) (height : BitVec 16)
    : Statement (.viewWindowSet view base width height) :=
  of_some rfl (by decide) (by decide) (by simp [widthOf, fieldOf])

theorem streamOpen (clip : BitVec 8) (role : BitVec 8) (destination : BitVec 8) (base : BitVec 64)
    (length : BitVec 64) (expected : BitVec 48) : Statement (.streamOpen clip role destination base length expected) :=
  of_some rfl (by decide) (by decide) (by simp [widthOf, fieldOf])

theorem streamClose (stream : BitVec 8) (finalLength : BitVec 48) : Statement (.streamClose stream finalLength) :=
  of_some rfl (by decide) (by decide) (by simp [widthOf, fieldOf])

theorem streamAbort (stream : BitVec 8) : Statement (.streamAbort stream) :=
  of_some rfl (by decide) (by decide) (by simp [widthOf, fieldOf])

theorem clipOpen (label : BitVec 32) (slot : BitVec 8) (camera : BitVec 8) (required : BitVec 8)
    : Statement (.clipOpen label slot camera required) :=
  of_some rfl (by decide) (by decide) (by simp [widthOf, fieldOf])

theorem clipRetire (clip : BitVec 8) : Statement (.clipRetire clip) :=
  of_some rfl (by decide) (by decide) (by simp [widthOf, fieldOf])

theorem cameraSet (camera : BitVec 8) (clipLevel : BitVec 16) (hotLevel : BitVec 16) (base : BitVec 8)
    (exposureHigh : BitVec 16) (hysteresis : BitVec 16) (persistence : BitVec 8) (frameReports : BitVec 8) : Statement (.cameraSet camera clipLevel hotLevel base exposureHigh hysteresis persistence frameReports) :=
  of_some rfl (by decide) (by decide) (by simp [widthOf, fieldOf])

theorem pairSet (pair : BitVec 8) (left : BitVec 8) (right : BitVec 8) (tolerance : BitVec 32)
    : Statement (.pairSet pair left right tolerance) :=
  of_some rfl (by decide) (by decide) (by simp [widthOf, fieldOf])

theorem zonesSet (bounds : Six (BitVec 16)) (colours : Six (Rgb (BitVec 16))) : Statement (.zonesSet bounds colours) :=
  of_some rfl (by decide) (by decide) (by simp [widthOf, fieldOf, colourFields])

theorem trackerClear : Statement .trackerClear :=
  of_some rfl (by decide) (by decide) (by simp [widthOf])

theorem faultAck (id : BitVec 32) : Statement (.faultAck id) :=
  of_some rfl (by decide) (by decide) (by simp [widthOf, fieldOf])

theorem clipFaultsAck (clip : BitVec 8) : Statement (.clipFaultsAck clip) :=
  of_some rfl (by decide) (by decide) (by simp [widthOf, fieldOf])

theorem lookLoad (slot : BitVec 8) (address : BitVec 64) : Statement (.lookLoad slot address) :=
  of_some rfl (by decide) (by decide) (by simp [widthOf, fieldOf])

theorem viewOn (view : BitVec 8) : Statement (.viewOn view) :=
  of_some rfl (by decide) (by decide) (by simp [widthOf, fieldOf])

theorem viewOff (view : BitVec 8) : Statement (.viewOff view) :=
  of_some rfl (by decide) (by decide) (by simp [widthOf, fieldOf])

theorem zonesOn (view : BitVec 8) : Statement (.zonesOn view) :=
  of_some rfl (by decide) (by decide) (by simp [widthOf, fieldOf])

theorem zonesOff (view : BitVec 8) : Statement (.zonesOff view) :=
  of_some rfl (by decide) (by decide) (by simp [widthOf, fieldOf])

theorem viewSource (view : BitVec 8) (camera : BitVec 8) : Statement (.viewSource view camera) :=
  of_some rfl (by decide) (by decide) (by simp [widthOf, fieldOf])

theorem viewGeometry (view : BitVec 8) (x0 : BitVec 16) (y0 : BitVec 16) (decimation : BitVec 8)
    (hFlip : BitVec 8) (vFlip : BitVec 8) : Statement (.viewGeometry view x0 y0 decimation hFlip vFlip) :=
  of_some rfl (by decide) (by decide) (by simp [widthOf, fieldOf])

theorem lookSelect (view : BitVec 8) (slot : BitVec 8) (rate : BitVec 16) : Statement (.lookSelect view slot rate) :=
  of_some rfl (by decide) (by decide) (by simp [widthOf, fieldOf])

theorem bandsSet (view : BitVec 8) (count : BitVec 8) (start1 : BitVec 16) (end1 : BitVec 16) (look1 : BitVec 8)
    (start2 : BitVec 16) (end2 : BitVec 16) (look2 : BitVec 8) (mode : BitVec 8) : Statement (.bandsSet view count start1 end1 look1 start2 end2 look2 mode) :=
  of_some rfl (by decide) (by decide) (by simp [widthOf, fieldOf])

theorem overlaySet (view : BitVec 8) (address : BitVec 64) (stride : BitVec 32) (start1 : BitVec 16)
    (count1 : BitVec 8) (start2 : BitVec 16) (count2 : BitVec 8) : Statement (.overlaySet view address stride start1 count1 start2 count2) :=
  of_some rfl (by decide) (by decide) (by simp [widthOf, fieldOf])

theorem clipMarkSet (view : BitVec 8) (on : BitVec 8) (colour : Rgb (BitVec 16))
    : Statement (.clipMarkSet view on colour) :=
  of_some rfl (by decide) (by decide) (by simp [widthOf, fieldOf, colourFields])

theorem shuttleProfile (view : BitVec 8) (s0 : BitVec 16) (s1 : BitVec 16) (s2 : BitVec 16) (s3 : BitVec 16)
    (s4 : BitVec 16) (n : BitVec 16) (preDwell : BitVec 8) (postDwell : BitVec 8) (stopOnFault : BitVec 8) : Statement (.shuttleProfile view s0 s1 s2 s3 s4 n preDwell postDwell stopOnFault) :=
  of_some rfl (by decide) (by decide) (by simp [widthOf, fieldOf])

theorem shuttleGo (view : BitVec 8) (distance : BitVec 32) (direction : BitVec 8)
    : Statement (.shuttleGo view distance direction) :=
  of_some rfl (by decide) (by decide) (by simp [widthOf, fieldOf])

theorem shuttleStop (view : BitVec 8) : Statement (.shuttleStop view) :=
  of_some rfl (by decide) (by decide) (by simp [widthOf, fieldOf])

theorem shuttleHold (view : BitVec 8) : Statement (.shuttleHold view) :=
  of_some rfl (by decide) (by decide) (by simp [widthOf, fieldOf])

theorem shuttleRelease (view : BitVec 8) : Statement (.shuttleRelease view) :=
  of_some rfl (by decide) (by decide) (by simp [widthOf, fieldOf])

theorem shuttleLocate (view : BitVec 8) (frame : BitVec 32) : Statement (.shuttleLocate view frame) :=
  of_some rfl (by decide) (by decide) (by simp [widthOf, fieldOf])

theorem panelBind (key : BitVec 8) (action : BitVec 8) (view : BitVec 8) (rep : BitVec 8)
    : Statement (.panelBind key action view rep) :=
  of_some rfl (by decide) (by decide) (by simp [widthOf, fieldOf])

theorem panelTiming (debounce : BitVec 16) (delay : BitVec 16) (interval : BitVec 16)
    : Statement (.panelTiming debounce delay interval) :=
  of_some rfl (by decide) (by decide) (by simp [widthOf, fieldOf])

theorem snapshot : Statement .snapshot :=
  of_some rfl (by decide) (by decide) (by simp [widthOf])

theorem engineReset : Statement .engineReset :=
  of_some rfl (by decide) (by decide) (by simp [widthOf])

theorem cardDetChange (slot : Fin 8) (low : Bool) : Statement (.cardDetChange slot low) :=
  of_none rfl

theorem cardInsertion (slot : Fin 8) : Statement (.cardInsertion slot) :=
  of_none rfl

theorem cardRemoval (slot : Fin 8) : Statement (.cardRemoval slot) :=
  of_none rfl

theorem keyChange (key : Fin 16) (low : Bool) : Statement (.keyChange key low) :=
  of_none rfl

theorem keyPress (key : Fin 16) : Statement (.keyPress key) :=
  of_none rfl

theorem keyRelease (key : Fin 16) : Statement (.keyRelease key) :=
  of_none rfl

theorem keyRepeat (key : Fin 16) : Statement (.keyRepeat key) :=
  of_none rfl

theorem jogDetent (a : Bool) (b : Bool) : Statement (.jogDetent a b) :=
  of_none rfl

theorem timeBaseTick : Statement .timeBaseTick :=
  of_none rfl

theorem jogTransition (a : Bool) (b : Bool) : Statement (.jogTransition a b) :=
  of_none rfl

end Sys2Proof.Laws.Codes
end

