-- ==== Sys2Proof/Laws/Ring.lean ====
section
/-! SUPPORT. The report ring and the background queue: what keeps `RingLaw` and `BackgroundLaw`, operation by operation. -/

namespace Sys2Proof.Machine

theorem reportsOutstanding_readyReport {s : State} {r rest} (h : RingLaw s) (ho : reportsOutstanding s < 63) :
   reportsOutstanding (readyReport r rest s) = reportsOutstanding s + 1 := by
  have h1 := h.produced; have h2 := h.consumed
  simp only [reportsOutstanding, readyReport, State.withCir_cir, wrap32, two32] at *
  omega

theorem countP_isReport_zero {l : List BackgroundItem} (h : l.any BackgroundItem.isReport = false) :
    l.countP BackgroundItem.isReport = 0 := by
  rw [List.countP_eq_zero]
  intro a ha
  simp only [List.any_eq_false] at h
  exact h a ha

/-- The ring law but for its last clause, which makeReady restores. -/
structure RingCore (s : State) : Prop where
  produced : s.cir.p < 4294967296
  consumed : s.cir.c < 4294967296
  slot : s.cir.w < 63
  outstanding : reportsOutstanding s ≤ 63
  queue : s.cir.queue.length ≤ 32
  dropped : s.cir.dropped ≤ 65535
  waiting : s.tu.background.countP BackgroundItem.isReport ≤ 1

theorem RingCore.ready {s : State} (h : RingCore s) : RingLaw (makeReady s) := by
  obtain ⟨h1,h2,h3,h4,h5,h6,h7⟩ := h
  unfold makeReady
  split
  · exact ⟨h1,h2,h3,h4,h5,h6,h7,.inl ‹_›⟩
  · rename_i r rest hq
    split
    · rename_i hc
      obtain ⟨ho, hw⟩ := hc
      have hz := countP_isReport_zero hw
      constructor
      · simp only [readyReport, State.withCir_cir, wrap32, two32]; omega
      · simpa [readyReport] using h2
      · simp only [readyReport, State.withCir_cir]; omega
      · have : reportsOutstanding (readyReport r rest s) = reportsOutstanding s + 1 := by
          simp only [reportsOutstanding, readyReport, State.withCir_cir, wrap32, two32] at *
          omega
        omega
      · simp only [readyReport, State.withCir_cir]; rw [hq] at h5; simp at h5; omega
      · simp [readyReport]
      · simp [readyReport, List.countP_append, hz, BackgroundItem.isReport]
      · right; right; simp [readyReport, reportWaiting, BackgroundItem.isReport]
    · rename_i hc
      refine ⟨h1,h2,h3,h4,h5,h6,h7,?_⟩
      by_cases ho : reportsOutstanding s < 63
      · right; right
        by_contra hw
        exact hc ⟨ho, by simpa using hw⟩
      · right; left; omega

theorem RingLaw.core {s : State} (h : RingLaw s) : RingCore s := ⟨h.1,h.2,h.3,h.4,h.5,h.6,h.7⟩

theorem RingLaw.of_eq {s t : State} (h : RingLaw s) (hp : t.cir.p = s.cir.p) (hc : t.cir.c = s.cir.c)
    (hw : t.cir.w = s.cir.w)
   (hq : t.cir.queue = s.cir.queue) (hd : t.cir.dropped ≤ 65535) (hb : t.tu.background.countP BackgroundItem.isReport = s.tu.background.countP BackgroundItem.isReport) : RingLaw t := by
  obtain ⟨h1,h2,h3,h4,h5,h6,h7,h8⟩ := h
  have ho : reportsOutstanding t = reportsOutstanding s := by simp [reportsOutstanding, hp, hc]
  refine ⟨by omega, by omega, by omega, by omega, by rw [hq]; exact h5, hd, by omega, ?_⟩
  rw [hq, ho]
  rcases h8 with h|h|h
  · exact .inl h
  · exact .inr (.inl h)
  · right; right
    unfold reportWaiting at *
    by_contra hn
    have := countP_isReport_zero (by simpa using hn)
    rw [hb, List.countP_eq_zero] at this
    rw [List.any_eq_true] at h
    obtain ⟨x, hx, hx2⟩ := h
    exact this x hx hx2

theorem createReport_ring (b s) (h : RingLaw s) : RingLaw (createReport b s) := by
  unfold createReport
  split
  · apply h.of_eq <;> simp [satAdd]
  · apply RingCore.ready
    obtain ⟨h1,h2,h3,h4,h5,h6,h7⟩ := h.core
    exact ⟨h1,h2,h3,h4,by simp; omega,h6,h7⟩

theorem consumedAfter_cases (s v) : (consumedAfter s v = v ∧ (two32 + v - s.cir.c) % two32 ≤ reportsOutstanding s)
    ∨ consumedAfter s v = s.cir.p ∨ consumedAfter s v = s.cir.c := by
  unfold consumedAfter
  dsimp only
  split
  · exact .inl ⟨rfl, ‹_›⟩
  · split
    · exact .inr (.inl rfl)
    · exact .inr (.inr rfl)

theorem fetchSlot_ready (s r rest) : (readyReport r rest s).tu.background.filterMap BackgroundItem.fetchSlot = s.tu.background.filterMap BackgroundItem.fetchSlot := by
  simp [readyReport, List.filterMap_append, BackgroundItem.fetchSlot]

theorem makeReady_background {s} (h : BackgroundLaw s) : BackgroundLaw (makeReady s) := by
  obtain ⟨h1,h2,h3,h4⟩ := h
  unfold makeReady
  split
  · exact ⟨h1,h2,h3,h4⟩
  · split
    · rename_i r rest _ hc
      refine ⟨h1, ?_, ?_, ?_⟩
      · have := countP_isReport_zero hc.2
        simp [readyReport, List.countP_append, this, BackgroundItem.isReport]
      · rw [fetchSlot_ready]; exact h3
      · rw [fetchSlot_ready]; exact h4
    · exact ⟨h1,h2,h3,h4⟩

theorem BackgroundLaw.of_eq {s t} (h : BackgroundLaw s) (hb : t.tu.background = s.tu.background) (hl : t.ls = s.ls) :
    BackgroundLaw t := by
  obtain ⟨h1,h2,h3,h4⟩ := h
  refine ⟨by rw [hl]; exact h1, by rw [hb]; exact h2, by rw [hb]; exact h3, ?_⟩
  rw [hb]; simpa [lookSlotAt, hl] using h4

theorem createReport_background (b s) (h : BackgroundLaw s) : BackgroundLaw (createReport b s) := by
  unfold createReport
  split
  · exact h.of_eq rfl rfl
  · exact makeReady_background (h.of_eq rfl rfl)

theorem setLookSlot_background {s k x} (h : BackgroundLaw s) (hx : k ∉ s.tu.background.filterMap BackgroundItem.fetchSlot ∨ x.state = .loading) : BackgroundLaw (setLookSlot k x s) := by
  obtain ⟨h1,h2,h3,h4⟩ := h
  refine ⟨by simp [setLookSlot, h1], h2, h3, ?_⟩
  intro j hj
  by_cases hk : k < s.ls.length
  · rw [lookSlotAt_set _ _ _ _ hk]
    split
    · subst j
      rcases hx with hx | hx
      · exact absurd hj hx
      · exact hx
    · exact h4 j hj
  · have : setLookSlot k x s = s := by unfold setLookSlot; rw [List.set_eq_of_length_le (by omega)]; rfl
    rw [this] at hj ⊢; exact h4 j hj

theorem fetchWaiting_mem (s k) : k ∈ s.tu.background.filterMap BackgroundItem.fetchSlot ↔ fetchWaiting s k = true := by
  unfold fetchWaiting
  rw [List.mem_filterMap, List.any_eq_true]
  constructor
  · rintro ⟨a, ha, hb⟩; refine ⟨a, ha, ?_⟩; cases a <;> simp_all [BackgroundItem.fetchSlot]
  · rintro ⟨a, ha, hb⟩; refine ⟨a, ha, ?_⟩; cases a <;> simp_all [BackgroundItem.fetchSlot]

/-- A consumed count keeps the ring law (R26). -/
theorem consumedCount_ring {s : State} (v : Nat) (hv : v < 4294967296) (h : RingLaw s) : RingLaw (consumedCount v s) := by
  unfold consumedCount
  apply RingCore.ready
  obtain ⟨h1,h2,h3,h4,h5,h6,h7⟩ := h.core
  have key : consumedAfter s v < 4294967296 ∧ (two32 + s.cir.p - consumedAfter s v) % two32 ≤ 63 := by
    rcases consumedAfter_cases s v with ⟨e, hd⟩ | e | e
    · rw [e]; simp only [reportsOutstanding, two32] at h4 hd ⊢; omega
    · rw [e]; simp only [two32]; omega
    · rw [e]; exact ⟨h2, h4⟩
  generalize consumedAfter s v = w at key
  constructor
  · simpa using h1
  · simpa using key.1
  · simpa using h3
  · simpa [reportsOutstanding] using key.2
  · simpa using h5
  · simpa using h6
  · simpa using h7

/-- A background request sent keeps the ring law (R9, R24). -/
theorem sendBackground_ring {s : State} (b : BackgroundItem) (rest : List BackgroundItem)
    (hb : s.tu.background = b :: rest) (h : RingLaw s) :
    RingLaw (sendBackground b rest s) := by
  unfold sendBackground
  apply RingCore.ready
  obtain ⟨h1,h2,h3,h4,h5,h6,h7⟩ := h.core
  refine ⟨h1,h2,h3,h4,h5,h6,?_⟩
  rw [hb, List.countP_cons] at h7
  show rest.countP _ ≤ 1
  omega

theorem stageBeat_ring {s : State} (k : Nat) (d : BeatData) (r : Resp) (h : RingLaw s) : RingLaw (stageBeat k d r s) := by
  have : RingLaw (setLookSlot k (lookSlotAt s k) s) := h.of_eq rfl rfl rfl rfl h.dropped rfl
  unfold stageBeat
  dsimp only
  repeat' split
  · exact h.of_eq rfl rfl rfl rfl h.dropped rfl
  · unfold endLoad; split <;> apply createReport_ring <;> exact h.of_eq rfl rfl rfl rfl h.dropped rfl
  · exact h

/-- A look fetch is queued for a slot that had none (R115). -/
theorem startLoad_background {s : State} (k a n : Nat) (ht : lookLoadTest k a s = none) (h : BackgroundLaw s) :
    BackgroundLaw (startLoad k a n s) := by
  have hk : k < 8 ∧ (lookSlotAt s k).state ≠ .loading := by
    unfold lookLoadTest at ht
    split at ht
    · cases ht
    · split at ht
      · cases ht
      · constructor
        · omega
        · assumption
  have hn : k ∉ s.tu.background.filterMap BackgroundItem.fetchSlot := fun hm => hk.2 (h.loading k hm)
  have h' := setLookSlot_background (x := loadingSlot (lookSlotAt s k) n) h (.inl hn)
  obtain ⟨h1,h2,h3,h4⟩ := h'
  unfold startLoad
  dsimp only
  refine ⟨h1, ?_, ?_, ?_⟩
  · simpa [List.countP_append, BackgroundItem.isReport] using h2
  · simp only [State.withTu_tu, List.filterMap_append]
    rw [List.nodup_append]
    refine ⟨h3, by simp [BackgroundItem.fetchSlot], ?_⟩
    intro x hx y hy hxy
    simp [BackgroundItem.fetchSlot] at hy
    subst hy; subst hxy
    exact hn hx
  · intro j hj
    have hl : k < s.ls.length := by have := h.looks; omega
    show (lookSlotAt (setLookSlot k (loadingSlot (lookSlotAt s k) n) s) j).state = .loading
    rw [lookSlotAt_set _ _ _ _ hl]
    split
    · rfl
    · simp only [State.withTu_tu, List.filterMap_append, List.mem_append] at hj
      rcases hj with hj | hj
      · exact h.loading j hj
      · simp [BackgroundItem.fetchSlot] at hj; contradiction

theorem stageBeat_background {s : State} (k : Nat) (d : BeatData) (r : Resp) (h : BackgroundLaw s) :
    BackgroundLaw (stageBeat k d r s) := by
  unfold stageBeat
  dsimp only
  split
  · rename_i hc
    have hn : k ∉ s.tu.background.filterMap BackgroundItem.fetchSlot := by rw [fetchWaiting_mem]; simp [hc.2]
    split
    · exact setLookSlot_background h (.inl hn)
    · unfold endLoad; split <;> apply createReport_background <;> exact setLookSlot_background h (.inl hn)
  · exact h

theorem sendBackground_background {s : State} (b : BackgroundItem) (rest : List BackgroundItem)
    (hb : s.tu.background = b :: rest)
    (h : BackgroundLaw s) : BackgroundLaw (sendBackground b rest s) := by
  unfold sendBackground
  apply makeReady_background
  obtain ⟨h1,h2,h3,h4⟩ := h
  rw [hb] at h2 h3 h4
  refine ⟨h1, ?_, ?_, ?_⟩
  · rw [List.countP_cons] at h2; show rest.countP _ ≤ 1; omega
  · show (rest.filterMap _).Nodup
    rw [List.filterMap_cons] at h3
    split at h3
    · exact h3
    · exact (List.nodup_cons.1 h3).2
  · intro k hk
    apply h4 k
    change k ∈ rest.filterMap _ at hk
    rw [List.filterMap_cons]; split
    · exact hk
    · exact List.mem_cons_of_mem _ hk

end Sys2Proof.Machine
end

