-- ==== Sys2Proof/Laws/Shuttles.lean ====
section
/-! SUPPORT. The motion contexts and the frame numbers: what keeps `ShuttleLaw` (R145 to R158), operation by operation. -/

namespace Sys2Proof.Machine

theorem NumberLaw.of_eq {s t : State} (h : NumberLaw s) (h1 : t.fiu = s.fiu) (h2 : t.ctu = s.ctu) (h3 : t.fl = s.fl) :
    NumberLaw t := by
  obtain ⟨a, b, c⟩ := h
  exact ⟨by rw [h1]; exact a, by rw [h2]; exact b, by rw [h3]; exact c⟩

theorem create_numbers (b : ReportBody) {u : State} (h : NumberLaw u) : NumberLaw (createReport b u) := h.of_eq (by simp)
    (by simp) (by simp)

theorem foldl_numbers {α : Type} {f : State → α → State} {t : State} {l : List α}
    (hf : ∀ t a, NumberLaw t → NumberLaw (f t a)) (h : NumberLaw t) : NumberLaw (l.foldl f t) := by
  induction l generalizing t with
  | nil => exact h
  | cons a l ih => exact ih (hf _ _ h)

theorem setClip_numbers (i : Nat) (e : Option Clip)  {u : State} (hr : NumberLaw u) : NumberLaw (setClip i e u) := by
  exact hr.of_eq (by simp) (by simp) (by simp)

theorem setCardSlot_numbers (k : Nat) (c : CardSlot)  {u : State} (hr : NumberLaw u) : NumberLaw (setCardSlot k c u) := by
  exact hr.of_eq (by simp) (by simp) (by simp)

theorem setStream_numbers (i : Nat) (e : Option Stream)  {u : State} (hr : NumberLaw u) : NumberLaw (setStream i e u) := by
  exact hr.of_eq (by simp) (by simp) (by simp)

theorem setFrameSlot_numbers (k : Nat) (f : FrameSlot) (hf : f.frame < 4294967296) {u : State} (hr : NumberLaw u) :
    NumberLaw (setFrameSlot k f u) := by
  obtain ⟨h1, h2, h3⟩ := hr
  refine ⟨?_, h2, h3⟩
  intro g hg
  rcases List.mem_or_eq_of_mem_set hg with h | rfl
  · exact h1 g h
  · exact hf

theorem setCamera_numbers (c : Nat) (x : Camera)  {u : State} (hr : NumberLaw u) : NumberLaw (setCamera c x u) := by
  exact ⟨hr.1, hr.2, hr.3⟩

theorem setPair_numbers (p : Nat) (x : StereoPair) (hf : ∀ h ∈ x.queue, h.frame < 4294967296) {u : State}
    (hr : NumberLaw u) : NumberLaw (setPair p x u) := by
  obtain ⟨h1, h2, h3⟩ := hr
  refine ⟨h1, ?_, h3⟩
  intro g hg
  rcases List.mem_or_eq_of_mem_set hg with h | rfl
  · exact h2 g h
  · exact hf

theorem setLookSlot_numbers (k : Nat) (x : LookSlot)  {u : State} (hr : NumberLaw u) : NumberLaw (setLookSlot k x u) := by
  exact hr.of_eq (by simp) (by simp) (by simp)

theorem setView_numbers (v : Nat) (x : View)  {u : State} (hr : NumberLaw u) : NumberLaw (setView v x u) := by
  exact hr.of_eq (by simp) (by simp) (by simp)

theorem setMotion_numbers (v : Nat) (x : Motion)  {u : State} (hr : NumberLaw u) : NumberLaw (setMotion v x u) := by
  exact hr.of_eq (by simp) (by simp) (by simp)

theorem setKey_numbers (k : Nat) (x : Key)  {u : State} (hr : NumberLaw u) : NumberLaw (setKey k x u) := by
  exact hr.of_eq (by simp) (by simp) (by simp)

theorem advanceSequence_numbers   {u : State} (hr : NumberLaw u) : NumberLaw (advanceSequence u) := by
  exact hr.of_eq (by simp) (by simp) (by simp)

theorem chooseOrder_numbers {α : Type} (l : List α)  {u : State} (hr : NumberLaw u) : NumberLaw (chooseOrder l u).2 := by
  exact hr.of_eq (by simp) (by simp) (by simp)

theorem changeLamp_numbers (k : Nat) (new : Lamp)  {u : State} (hr : NumberLaw u) : NumberLaw (changeLamp k new u) := by
  exact hr.of_eq (by simp) (by simp) (by simp)

theorem computeLamp_numbers (k : Nat)  {u : State} (hr : NumberLaw u) : NumberLaw (computeLamp k u) := by
  exact hr.of_eq (by simp) (by simp) (by simp)

theorem computeClipLamp_numbers (i : Nat)  {u : State} (hr : NumberLaw u) : NumberLaw (computeClipLamp i u) := by
  exact hr.of_eq (by simp) (by simp) (by simp)

theorem computeLamps_numbers (ks : List Nat)  {u : State} (hr : NumberLaw u) : NumberLaw (computeLamps ks u) := by
  exact hr.of_eq (by simp) (by simp) (by simp)

theorem takeFaultId_numbers   {u : State} (hr : NumberLaw u) : NumberLaw (takeFaultId u) := by
  exact ⟨hr.1, hr.2, hr.3⟩

theorem countFault_numbers (f : Finding)  {u : State} (hr : NumberLaw u) : NumberLaw (countFault f u) := by
  exact hr.of_eq (by simp) (by simp) (by simp)

theorem storeFault_numbers (r : FaultRecord) (hf : ∀ x, r.frame = some x → x.1 < 4294967296) {u : State}
    (hr : NumberLaw u) : NumberLaw (storeFault r u) := by
  obtain ⟨h1, h2, h3⟩ := hr
  refine ⟨h1, h2, ?_⟩
  intro q hq x hx
  change q ∈ (listFault r u.fl).1.records at hq
  unfold listFault at hq
  split at hq
  · rcases List.mem_append.1 hq with h | h
    · exact h3 q h x hx
    · rw [List.mem_singleton.1 h] at hx; exact hf x hx
  · split at hq
    · rcases List.mem_append.1 hq with h | h
      · exact h3 q (List.mem_of_mem_eraseIdx h) x hx
      · rw [List.mem_singleton.1 h] at hx; exact hf x hx
    · exact h3 q hq x hx

theorem reportFault_numbers (f : Finding) (hf : ∀ x, f.frame = some x → x.1 < 4294967296) {u : State} (hr : NumberLaw u)
    : NumberLaw (reportFault f u) := by
  unfold reportFault
  dsimp only
  apply create_numbers
  apply storeFault_numbers
  · exact hf
  · exact countFault_numbers _ (takeFaultId_numbers hr)

theorem raiseFault_numbers (b : Bool) (f : Finding) (hf : ∀ x, f.frame = some x → x.1 < 4294967296) {u : State}
    (hr : NumberLaw u) : NumberLaw (raiseFault b f u) := by
  unfold raiseFault
  dsimp only
  have h := reportFault_numbers f hf hr
  (repeat' split) <;> first | exact h | exact computeClipLamp_numbers _ h

theorem subtractCrit_numbers (c : Option Nat)  {u : State} (hr : NumberLaw u) : NumberLaw (subtractCrit c u) := by
  exact hr.of_eq (by simp) (by simp) (by simp)

theorem ackRecords_numbers (p : FaultRecord → Bool)  {u : State} (hr : NumberLaw u) : NumberLaw (ackRecords p u) := by
  obtain ⟨h1, h2, h3⟩ := hr
  refine ⟨h1, h2, ?_⟩
  intro r hr x hx
  simp only [ackRecords, State.withFl_fl, List.mem_map] at hr
  obtain ⟨q, hq, rfl⟩ := hr
  refine h3 q hq x ?_
  revert hx
  split <;> exact id

theorem faultAckAct_numbers (id : Nat)  {u : State} (hr : NumberLaw u) : NumberLaw (faultAckAct id u).1 := by
  unfold faultAckAct
  try dsimp only [refuse]
  repeat' split
  all_goals apply_rules [hr, computeClipLamp_numbers, subtractCrit_numbers, ackRecords_numbers]

theorem clipFaultsAckAct_numbers (c : Nat)  {u : State} (hr : NumberLaw u) : NumberLaw (clipFaultsAckAct c u).1 := by
  unfold clipFaultsAckAct
  try dsimp only [refuse]
  repeat' split
  all_goals apply_rules [hr, setClip_numbers, computeClipLamp_numbers, ackRecords_numbers]

theorem ackFrame_numbers (c n : Nat)  {u : State} (hr : NumberLaw u) : NumberLaw (ackFrame c n u).1 := by
  unfold ackFrame
  try dsimp only [refuse]
  all_goals apply_rules [hr, computeLamps_numbers, subtractCrit_numbers, ackRecords_numbers, foldl_numbers]
  all_goals (intro _ _ hq; apply_rules [hq, computeLamps_numbers, subtractCrit_numbers, ackRecords_numbers, foldl_numbers])

theorem markRetired_numbers (c : Nat)  {u : State} (hr : NumberLaw u) : NumberLaw (markRetired c u) := by
  obtain ⟨h1, h2, h3⟩ := hr
  refine ⟨h1, h2, ?_⟩
  intro r hr x hx
  simp only [markRetired, State.withFl_fl, List.mem_map] at hr
  obtain ⟨q, hq, rfl⟩ := hr
  refine h3 q hq x ?_
  revert hx
  split <;> exact id

theorem reportClip_numbers (i : Nat) (o : Option ClipState) (c : ClipCause)  {u : State} (hr : NumberLaw u) :
    NumberLaw (reportClip i o c u) := by
  exact hr.of_eq (by simp) (by simp) (by simp)

theorem countFrame_numbers (c : Option Nat) (l : Nat)  {u : State} (hr : NumberLaw u) : NumberLaw (countFrame c l u) := by
  exact hr.of_eq (by simp) (by simp) (by simp)

theorem sourceOpened_numbers (i : Nat)  {u : State} (hr : NumberLaw u) : NumberLaw (sourceOpened i u) := by
  exact hr.of_eq (by simp) (by simp) (by simp)

theorem destOpened_numbers (i d : Nat)  {u : State} (hr : NumberLaw u) : NumberLaw (destOpened i d u) := by
  exact hr.of_eq (by simp) (by simp) (by simp)

theorem raiseMismatches_numbers (i : Nat) (ds : List Nat)  {u : State} (hr : NumberLaw u) :
    NumberLaw (raiseMismatches i ds u) := by
  unfold raiseMismatches
  apply foldl_numbers
  · intro t a h; exact raiseFault_numbers _ _ (by simp [clipFinding]) h
  · exact hr

theorem verifyIfEnough_numbers (i : Nat)  {u : State} (hr : NumberLaw u) : NumberLaw (verifyIfEnough i u) := by
  exact hr.of_eq (by simp) (by simp) (by simp)

theorem sourceGood_numbers (i : Nat) (fp : Fingerprint)  {u : State} (hr : NumberLaw u) : NumberLaw (sourceGood i fp u)
    := by
  unfold sourceGood
  try dsimp only [refuse]
  repeat' split
  all_goals apply_rules [hr, setClip_numbers, computeClipLamp_numbers, reportClip_numbers, raiseMismatches_numbers, verifyIfEnough_numbers]

theorem sourceFailed_numbers (i k : Nat) (p : Option Nat)  {u : State} (hr : NumberLaw u) :
    NumberLaw (sourceFailed i k p u) := by
  unfold sourceFailed
  split
  · exact hr
  · dsimp only
    have h := raiseFault_numbers false (clipFinding .sourceUnverifiable (some i) k) (by simp [clipFinding]) (reportClip_numbers i (some ‹Clip›.state) .sourceFailed (setClip_numbers i (some (spoiledClip u i ‹Clip›)) hr))
    split
    · exact computeClipLamp_numbers _ h
    · exact raiseFault_numbers _ _ (by simp [clipFinding]) h

theorem compareDest_numbers (i : Nat) (c : Clip) (d : Nat) (fp : Fingerprint)  {u : State} (hr : NumberLaw u) :
    NumberLaw (compareDest i c d fp u) := by
  unfold compareDest
  dsimp only
  split
  · exact computeClipLamp_numbers _ (reportClip_numbers _ _ _ (setClip_numbers _ _ hr))
  · split
    · exact reportClip_numbers _ _ _ (setClip_numbers _ _ hr)
    · exact raiseFault_numbers _ _ (by simp [clipFinding]) (reportClip_numbers _ _ _ (setClip_numbers _ _ hr))

theorem destGood_numbers (i d : Nat) (fp : Fingerprint)  {u : State} (hr : NumberLaw u) : NumberLaw (destGood i d fp u)
    := by
  unfold destGood
  try dsimp only [refuse]
  repeat' split
  all_goals apply_rules [hr, setClip_numbers, reportClip_numbers, compareDest_numbers]

theorem destFailed_numbers (i d : Nat)  {u : State} (hr : NumberLaw u) : NumberLaw (destFailed i d u) := by
  exact hr.of_eq (by simp) (by simp) (by simp)

theorem clipOpenAct_numbers (label slot camera required : Nat)  {u : State} (hr : NumberLaw u) :
    NumberLaw (clipOpenAct label slot camera required u).1 := by
  exact hr.of_eq (by simp) (by simp) (by simp)

theorem forgetClip_numbers (i : Nat)  {u : State} (hr : NumberLaw u) : NumberLaw (forgetClip i u) := by
  exact hr.of_eq (by simp) (by simp) (by simp)

theorem retireClip_numbers (i : Nat) (c : Clip)  {u : State} (hr : NumberLaw u) : NumberLaw (retireClip i c u) := by
  unfold retireClip
  try dsimp only [refuse]
  all_goals apply_rules [hr, setClip_numbers, computeLamp_numbers, markRetired_numbers, forgetClip_numbers, create_numbers _]

theorem clipRetireAct_numbers (i : Nat)  {u : State} (hr : NumberLaw u) : NumberLaw (clipRetireAct i u).1 := by
  unfold clipRetireAct
  try dsimp only [refuse]
  repeat' split
  all_goals apply_rules [hr, retireClip_numbers]

theorem handToClip_numbers (id : Nat) (e : Stream) (o : StreamOutcome) (p : Option Nat)  {u : State} (hr : NumberLaw u) :
    NumberLaw (handToClip id e o p u) := by
  unfold handToClip
  try dsimp only [refuse]
  repeat' split
  all_goals apply_rules [hr, sourceGood_numbers, sourceFailed_numbers, destGood_numbers, destFailed_numbers]

theorem keepNote_numbers (id : Nat) (e : Stream) (o : StreamOutcome)  {u : State} (hr : NumberLaw u) :
    NumberLaw (keepNote id e o u) := by
  exact hr.of_eq (by simp) (by simp) (by simp)

theorem endStream_numbers (id : Nat) (o : StreamOutcome) (a p : Option Nat)  {u : State} (hr : NumberLaw u) :
    NumberLaw (endStream id o a p u) := by
  unfold endStream
  try dsimp only [refuse]
  repeat' split
  all_goals apply_rules [hr, setStream_numbers, handToClip_numbers, keepNote_numbers, create_numbers _]

theorem streamBeat_numbers (id a : Nat) (d : BeatData) (st : Strobes) (m : List Mark)  {u : State} (hr : NumberLaw u) :
    NumberLaw (streamBeat id a d st m u).1 := by
  unfold streamBeat
  try dsimp only [refuse]
  repeat' split
  all_goals apply_rules [hr, setStream_numbers, endStream_numbers]

theorem untappedStreams_numbers (r : Request)  {u : State} (hr : NumberLaw u) : NumberLaw (untappedStreams r u) := by
  unfold untappedStreams
  try dsimp only [refuse]
  all_goals apply_rules [hr, chooseOrder_numbers, endStream_numbers, foldl_numbers]
  all_goals (intro _ _ hq; apply_rules [hq, chooseOrder_numbers, endStream_numbers, foldl_numbers])

theorem noteResponse_numbers (n : Nat) (ok : Bool)  {u : State} (hr : NumberLaw u) : NumberLaw (noteResponse n ok u) := by
  unfold noteResponse
  split
  · exact hr
  · dsimp only
    have h : ∀ x, NumberLaw (u.withSu { u.su with closing := x }) := fun x => ⟨hr.1, hr.2, hr.3⟩
    split
    · exact raiseFault_numbers _ _ (by simp [clipFinding]) (h _)
    · exact h _

theorem streamResponse_numbers (n : Nat) (ok : Bool)  {u : State} (hr : NumberLaw u) : NumberLaw (streamResponse n ok u)
    := by
  unfold streamResponse
  try dsimp only [refuse]
  repeat' split
  all_goals apply_rules [hr, setStream_numbers, endStream_numbers, noteResponse_numbers]

theorem openStream_numbers (id : Nat) (e : Stream)  {u : State} (hr : NumberLaw u) : NumberLaw (openStream id e u) := by
  exact hr.of_eq (by simp) (by simp) (by simp)

theorem streamOpenAct_numbers (c r d b l x : Nat)  {u : State} (hr : NumberLaw u) :
    NumberLaw (streamOpenAct c r d b l x u).1 := by
  exact hr.of_eq (by simp) (by simp) (by simp)

theorem streamCloseAct_numbers (i n : Nat)  {u : State} (hr : NumberLaw u) : NumberLaw (streamCloseAct i n u).1 := by
  unfold streamCloseAct
  try dsimp only [refuse]
  repeat' split
  all_goals apply_rules [hr, endStream_numbers]

theorem streamAbortAct_numbers (i : Nat)  {u : State} (hr : NumberLaw u) : NumberLaw (streamAbortAct i u).1 := by
  unfold streamAbortAct
  try dsimp only [refuse]
  repeat' split
  all_goals apply_rules [hr, endStream_numbers]

theorem cardDetChange_numbers (k : Nat) (b : Bool)  {u : State} (hr : NumberLaw u) : NumberLaw (cardDetChange k b u) := by
  exact hr.of_eq (by simp) (by simp) (by simp)

theorem cardInsertion_numbers (k : Nat)  {u : State} (hr : NumberLaw u) : NumberLaw (cardInsertion k u) := by
  exact hr.of_eq (by simp) (by simp) (by simp)

theorem pullSources_numbers (k : Nat)  {u : State} (hr : NumberLaw u) : NumberLaw (pullSources k u) := by
  unfold pullSources
  try dsimp only [refuse]
  all_goals apply_rules [hr, endStream_numbers, foldl_numbers]
  all_goals (intro _ _ hq; apply_rules [hq, endStream_numbers, foldl_numbers])

theorem cardRemoval_numbers (k : Nat)  {u : State} (hr : NumberLaw u) : NumberLaw (cardRemoval k u) := by
  unfold cardRemoval
  try dsimp only [refuse]
  repeat' split
  all_goals apply_rules [hr, setCardSlot_numbers, computeLamp_numbers, pullSources_numbers]

theorem timeBaseTick_numbers   {u : State} (hr : NumberLaw u) : NumberLaw (timeBaseTick u) := by
  exact hr.of_eq (by simp) (by simp) (by simp)

theorem raiseFrame_numbers (k : FaultKind) (f : FrameSlot) (d : Nat) (hf : f.frame < 4294967296) {u : State}
    (hr : NumberLaw u) : NumberLaw (raiseFrame k f d u) := by
  unfold raiseFrame
  exact raiseFault_numbers _ _ (by intro x hx; simp only [frameFinding, Option.some.injEq] at hx; rw [← hx]; exact hf) hr

theorem checkInvalid_numbers (f : FrameSlot) (b : Nat) (hf : f.frame < 4294967296) {u : State} (hr : NumberLaw u) :
    NumberLaw (checkInvalid f b u) := by
  unfold checkInvalid
  try dsimp only [refuse]
  repeat' split
  all_goals apply_rules [hr, raiseFrame_numbers, hf]

theorem checkNumber_numbers (f : FrameSlot) (l : Nat) (hf : f.frame < 4294967296) {u : State} (hr : NumberLaw u) :
    NumberLaw (checkNumber f l u) := by
  unfold checkNumber
  try dsimp only [refuse]
  repeat' split
  all_goals apply_rules [hr, raiseFrame_numbers, hf]

theorem checkTimecode_numbers (f : FrameSlot) (b l c : Nat) (hf : f.frame < 4294967296) {u : State} (hr : NumberLaw u) :
    NumberLaw (checkTimecode f b l c u) := by
  unfold checkTimecode
  try dsimp only [refuse]
  repeat' split
  all_goals apply_rules [hr, raiseFrame_numbers, hf]

theorem checkFrozen_numbers (f : FrameSlot) (l g : Nat) (hf : f.frame < 4294967296) {u : State} (hr : NumberLaw u) :
    NumberLaw (checkFrozen f l g u) := by
  unfold checkFrozen
  try dsimp only [refuse]
  repeat' split
  all_goals apply_rules [hr, raiseFrame_numbers, hf]

theorem checkHistory_numbers (f : FrameSlot) (c : Camera) (hf : f.frame < 4294967296) {u : State} (hr : NumberLaw u) :
    NumberLaw (checkHistory f c u) := by
  unfold checkHistory
  try dsimp only [refuse]
  repeat' split
  all_goals apply_rules [hr, checkNumber_numbers, checkTimecode_numbers, checkFrozen_numbers, hf]

theorem checkExposure_numbers (f : FrameSlot) (q : Nat) (hf : f.frame < 4294967296) {u : State} (hr : NumberLaw u) :
    NumberLaw (checkExposure f q u) := by
  unfold checkExposure
  try dsimp only [refuse]
  repeat' split
  all_goals apply_rules [hr, setCamera_numbers, raiseFrame_numbers, hf]

theorem trackCandidates_numbers (f : FrameSlot) (hf : f.frame < 4294967296) {u : State} (hr : NumberLaw u) :
    NumberLaw (trackCandidates f u) := by
  unfold trackCandidates
  dsimp only
  split
  · exact ⟨hr.1, hr.2, hr.3⟩
  · exact ⟨hr.1, hr.2, hr.3⟩

theorem checkStuck_numbers (f : FrameSlot) (p : Nat × Nat) (hf : f.frame < 4294967296) {u : State} (hr : NumberLaw u) :
    NumberLaw (checkStuck f p u) := by
  unfold checkStuck
  split
  · exact hr
  · split
    · exact raiseFault_numbers _ _ (by intro x hx; simp only [frameFinding, Option.some.injEq] at hx; rw [← hx]; exact hf) ⟨hr.1, hr.2, hr.3⟩
    · exact hr

theorem trackerSteps_numbers (f : FrameSlot) (hf : f.frame < 4294967296) {u : State} (hr : NumberLaw u) :
    NumberLaw (trackerSteps f u) := by
  unfold trackerSteps
  apply foldl_numbers
  · intro t a h; exact checkStuck_numbers f a hf h
  · exact trackCandidates_numbers f hf hr

theorem raiseUnpaired_numbers (k : Nat) (p : StereoPair) (h : HeldRecord) (hf : h.frame < 4294967296) {u : State}
    (hr : NumberLaw u) : NumberLaw (raiseUnpaired k p h u) := by
  unfold raiseUnpaired
  exact raiseFault_numbers _ _ (by intro x hx; simp only [Option.some.injEq] at hx; rw [← hx]; exact hf) hr

theorem setQueue_numbers (k : Nat) (q : List HeldRecord) (hf : ∀ h ∈ q, h.frame < 4294967296) {u : State}
    (hr : NumberLaw u) : NumberLaw (setQueue k q u) := by
  exact setPair_numbers _ _ hf hr

theorem holdFrame_numbers (k : Nat) (p : StereoPair) (h : HeldRecord) (hf : h.frame < 4294967296)
    (hp0 : ∀ x ∈ p.queue, x.frame < 4294967296) {u : State} (hr : NumberLaw u) : NumberLaw (holdFrame k p h u) := by
  have hp : ∀ x ∈ p.queue, x.frame < 4294967296 := hp0
  unfold holdFrame
  split
  · rename_i o rest hq
    rw [hq] at hp
    dsimp only
    split
    · apply setQueue_numbers
      · intro x hx
        rcases List.mem_append.1 hx with hx | hx
        · exact hp x (List.mem_cons_of_mem _ hx)
        · rw [List.mem_singleton.1 hx]; exact hf
      · exact raiseUnpaired_numbers _ _ _ (hp _ List.mem_cons_self) (setQueue_numbers _ _ (fun x hx => hp x (List.mem_cons_of_mem _ hx)) hr)
    · apply setQueue_numbers _ _ _ hr
      rw [hq]
      intro x hx
      rcases List.mem_append.1 hx with hx | hx
      · exact hp x hx
      · rw [List.mem_singleton.1 hx]; exact hf
  · apply setQueue_numbers _ _ _ hr
    intro x hx
    rw [List.mem_singleton.1 hx]; exact hf

theorem checkExposurePair_numbers (f : FrameSlot) (p : StereoPair) (h : HeldRecord) (m : Nat) (hf : f.frame < 4294967296)
    {u : State} (hr : NumberLaw u) : NumberLaw (checkExposurePair f p h m u) := by
  unfold checkExposurePair
  try dsimp only [refuse]
  repeat' split
  all_goals apply_rules [hr, raiseFrame_numbers, hf]

theorem pairFrame_numbers (k : Nat) (p : StereoPair) (f : FrameSlot) (h : HeldRecord) (l : Nat)
    (hf : f.frame < 4294967296) (hh : h.frame < 4294967296) (hp0 : ∀ x ∈ p.queue, x.frame < 4294967296) {u : State}
    (hr : NumberLaw u) : NumberLaw (pairFrame k p f h l u) := by
  have hd : ∀ x ∈ p.queue.dropWhile (isEarlier l h.count), x.frame < 4294967296 :=
    fun x hx => hp0 x ((List.dropWhile_suffix _).subset hx)
  have ht : ∀ x ∈ p.queue.takeWhile (isEarlier l h.count), x.frame < 4294967296 :=
    fun x hx => hp0 x ((List.takeWhile_prefix _).subset hx)
  have key : ∀ (q : List HeldRecord) (t : State), (∀ x ∈ q, x.frame < 4294967296) → NumberLaw t → NumberLaw (q.foldl (fun x r => raiseUnpaired k p r x) t) := by
    intro q
    induction q with
    | nil => intro t _ h; exact h
    | cons a q ih => intro t hq h; exact ih _ (fun x hx => hq x (List.mem_cons_of_mem _ hx)) (raiseUnpaired_numbers _ _ _ (hq a List.mem_cons_self) h)
  unfold pairFrame
  dsimp only
  have h0 := key _ _ ht (setQueue_numbers k _ hd hr)
  split
  · exact setQueue_numbers _ _ (fun x hx => by rw [List.mem_singleton.1 hx]; exact hh) h0
  · rename_i fr ot hq
    rw [hq] at hd
    split
    · apply checkExposurePair_numbers _ _ _ _ hf
      exact setQueue_numbers _ _ (fun x hx => hd x (List.mem_cons_of_mem _ hx)) h0
    · exact raiseUnpaired_numbers _ _ _ hh h0

theorem stereoStep_numbers (f : FrameSlot) (c : Camera) (m : Nat) (hf : f.frame < 4294967296) {u : State}
    (hr : NumberLaw u) : NumberLaw (stereoStep f c m u) := by
  have hp : ∀ k, ∀ x ∈ (pairAt u k).queue, x.frame < 4294967296 := by
    intro k
    unfold pairAt
    rw [List.getD_eq_getElem?_getD]
    cases hx : u.ctu.pairs[k]? with
    | none => simp [StereoPair.reset]
    | some p => exact hr.2 p (List.mem_of_getElem? hx)
  unfold stereoStep
  split
  · exact hr
  · split
    · exact hr
    · rename_i k _
      dsimp only
      split
      · exact holdFrame_numbers _ _ _ hf (hp k) hr
      · split
        · exact holdFrame_numbers _ _ _ hf (hp k) hr
        · exact pairFrame_numbers _ _ _ _ _ hf hf (hp k) hr

theorem rememberFrame_numbers (f : FrameSlot) (b : Nat)  {u : State} (hr : NumberLaw u) : NumberLaw (rememberFrame f b u)
    := by
  exact ⟨hr.1, hr.2, hr.3⟩

theorem trackFrame_numbers (f : FrameSlot) (q m : Nat) (hf : f.frame < 4294967296) {u : State} (hr : NumberLaw u) :
    NumberLaw (trackFrame f q m u) := by
  unfold trackFrame
  try dsimp only [refuse]
  all_goals apply_rules [hr, checkInvalid_numbers, checkHistory_numbers, checkExposure_numbers, trackerSteps_numbers, stereoStep_numbers, rememberFrame_numbers, hf]

theorem cameraSetAct_numbers (a b c d e f g : Nat) (h : Bool)  {u : State} (hr : NumberLaw u) :
    NumberLaw (cameraSetAct a b c d e f g h u).1 := by
  unfold cameraSetAct
  dsimp only [refuse]
  (repeat' split) <;> exact ⟨hr.1, hr.2, hr.3⟩

theorem pairSetAct_numbers (a b c d : Nat)  {u : State} (hr : NumberLaw u) : NumberLaw (pairSetAct a b c d u).1 := by
  unfold pairSetAct
  dsimp only [refuse]
  (repeat' split) <;> first | exact hr | exact setPair_numbers _ _ (by simp) hr

theorem zonesSetAct_numbers (z : List Zone)  {u : State} (hr : NumberLaw u) : NumberLaw (zonesSetAct z u).1 := by
  unfold zonesSetAct
  dsimp only [refuse]
  (repeat' split) <;> exact ⟨hr.1, hr.2, hr.3⟩

theorem trackerClearAct_numbers   {u : State} (hr : NumberLaw u) : NumberLaw (trackerClearAct u).1 := by
  exact ⟨hr.1, hr.2, hr.3⟩

theorem startLoad_numbers (k a n : Nat)  {u : State} (hr : NumberLaw u) : NumberLaw (startLoad k a n u) := by
  exact hr.of_eq (by simp) (by simp) (by simp)

theorem endLoad_numbers (k : Nat) (x : LookSlot)  {u : State} (hr : NumberLaw u) : NumberLaw (endLoad k x u) := by
  exact hr.of_eq (by simp) (by simp) (by simp)

theorem stageBeat_numbers (k : Nat) (d : BeatData) (r : Resp)  {u : State} (hr : NumberLaw u) :
    NumberLaw (stageBeat k d r u) := by
  exact hr.of_eq (by simp) (by simp) (by simp)

theorem shuttleProfileAct_numbers (v : Nat) (p : Profile)  {u : State} (hr : NumberLaw u) :
    NumberLaw (shuttleProfileAct v p u).1 := by
  exact hr.of_eq (by simp) (by simp) (by simp)

theorem shuttleGoAct_numbers (v n : Nat) (d : Option Direction)  {u : State} (hr : NumberLaw u) :
    NumberLaw (shuttleGoAct v n d u).1 := by
  exact hr.of_eq (by simp) (by simp) (by simp)

theorem motionAct_numbers (f : Motion → Motion × Nat) (v : Nat)  {u : State} (hr : NumberLaw u) :
    NumberLaw (motionAct f v u).1 := by
  exact hr.of_eq (by simp) (by simp) (by simp)

theorem viewWindowSetAct_numbers (v b w h : Nat)  {u : State} (hr : NumberLaw u) :
    NumberLaw (viewWindowSetAct v b w h u).1 := by
  exact hr.of_eq (by simp) (by simp) (by simp)

theorem setPending_numbers (v : Nat) (x : Settings)  {u : State} (hr : NumberLaw u) : NumberLaw (setPending v x u) := by
  exact hr.of_eq (by simp) (by simp) (by simp)

theorem viewOnAct_numbers (v : Nat)  {u : State} (hr : NumberLaw u) : NumberLaw (viewOnAct v u).1 := by
  exact hr.of_eq (by simp) (by simp) (by simp)

theorem viewOffAct_numbers (v : Nat)  {u : State} (hr : NumberLaw u) : NumberLaw (viewOffAct v u).1 := by
  exact hr.of_eq (by simp) (by simp) (by simp)

theorem zonesSwitchAct_numbers (x : Bool) (v : Nat)  {u : State} (hr : NumberLaw u) :
    NumberLaw (zonesSwitchAct x v u).1 := by
  exact hr.of_eq (by simp) (by simp) (by simp)

theorem viewSourceAct_numbers (v c : Nat)  {u : State} (hr : NumberLaw u) : NumberLaw (viewSourceAct v c u).1 := by
  exact hr.of_eq (by simp) (by simp) (by simp)

theorem viewGeometryAct_numbers (v a b d : Nat) (h g : Bool)  {u : State} (hr : NumberLaw u) :
    NumberLaw (viewGeometryAct v a b d h g u).1 := by
  exact hr.of_eq (by simp) (by simp) (by simp)

theorem lookSelectAct_numbers (v k r : Nat)  {u : State} (hr : NumberLaw u) : NumberLaw (lookSelectAct v k r u).1 := by
  exact hr.of_eq (by simp) (by simp) (by simp)

theorem bandsSetAct_numbers (v : Nat) (b : Option (List Band)) (m : Nat)  {u : State} (hr : NumberLaw u) :
    NumberLaw (bandsSetAct v b m u).1 := by
  exact hr.of_eq (by simp) (by simp) (by simp)

theorem overlaySetAct_numbers (v a b : Nat) (x y : Strip)  {u : State} (hr : NumberLaw u) :
    NumberLaw (overlaySetAct v a b x y u).1 := by
  exact hr.of_eq (by simp) (by simp) (by simp)

theorem clipMarkSetAct_numbers (v : Nat) (b : Bool) (c : Rgb Nat)  {u : State} (hr : NumberLaw u) :
    NumberLaw (clipMarkSetAct v b c u).1 := by
  exact hr.of_eq (by simp) (by simp) (by simp)

theorem reportView_numbers (v : Nat) (k : ViewKind) (d : Nat)  {u : State} (hr : NumberLaw u) :
    NumberLaw (reportView v k d u) := by
  exact hr.of_eq (by simp) (by simp) (by simp)

theorem validateBands_numbers (v h : Nat)  {u : State} (hr : NumberLaw u) : NumberLaw (validateBands v h u) := by
  exact hr.of_eq (by simp) (by simp) (by simp)

theorem validateStrips_numbers (v h : Nat)  {u : State} (hr : NumberLaw u) : NumberLaw (validateStrips v h u) := by
  exact hr.of_eq (by simp) (by simp) (by simp)

theorem beginFrame_numbers (v h : Nat)  {u : State} (hr : NumberLaw u) : NumberLaw (beginFrame v h u) := by
  exact hr.of_eq (by simp) (by simp) (by simp)

theorem mixStep_numbers (v : Nat)  {u : State} (hr : NumberLaw u) : NumberLaw (mixStep v u) := by
  exact hr.of_eq (by simp) (by simp) (by simp)

theorem shuttleStep_numbers (v : Nat)  {u : State} (hr : NumberLaw u) : NumberLaw (shuttleStep v u) := by
  exact hr.of_eq (by simp) (by simp) (by simp)

theorem pinStep_numbers (v h : Nat)  {u : State} (hr : NumberLaw u) : NumberLaw (pinStep v h u) := by
  exact hr.of_eq (by simp) (by simp) (by simp)

theorem takeBoundary_numbers (v h : Nat)  {u : State} (hr : NumberLaw u) : NumberLaw (takeBoundary v h u) := by
  exact hr.of_eq (by simp) (by simp) (by simp)

theorem setAnswer_numbers (t : Nat) (a : UpAnswer)  {u : State} (hr : NumberLaw u) : NumberLaw (setAnswer t a u) := by
  exact hr.of_eq (by simp) (by simp) (by simp)

theorem serveRead_numbers (v : Nat) (r : ServedRead)  {u : State} (hr : NumberLaw u) : NumberLaw (serveRead v r u) := by
  exact hr.of_eq (by simp) (by simp) (by simp)

theorem viewRead_numbers (v t r c b : Nat) (w : ViewWindow)  {u : State} (hr : NumberLaw u) :
    NumberLaw (viewRead v t r c b w u) := by
  exact hr.of_eq (by simp) (by simp) (by simp)

theorem fetchFault_numbers (v : Nat) (r : ServedRead)  {u : State} (hr : NumberLaw u) : NumberLaw (fetchFault v r u) := by
  exact hr.of_eq (by simp) (by simp) (by simp)

theorem returnBeats_numbers (v i : Nat) (b : List ReadBeat) (r : ServedRead)  {u : State} (hr : NumberLaw u) :
    NumberLaw (returnBeats v i b r u) := by
  exact hr.of_eq (by simp) (by simp) (by simp)

theorem viewFetchReturn_numbers (t i : Nat) (b : List ReadBeat)  {u : State} (hr : NumberLaw u) :
    NumberLaw (viewFetchReturn t i b u) := by
  exact hr.of_eq (by simp) (by simp) (by simp)

theorem noticeView_numbers (k v : Nat)  {u : State} (hr : NumberLaw u) : NumberLaw (noticeView k v u) := by
  exact hr.of_eq (by simp) (by simp) (by simp)

theorem noticeViews_numbers (k : Nat)  {u : State} (hr : NumberLaw u) : NumberLaw (noticeViews k u) := by
  exact hr.of_eq (by simp) (by simp) (by simp)

theorem poolSetAct_numbers (b c n : Nat)  {u : State} (hr : NumberLaw u) : NumberLaw (poolSetAct b c n u).1 := by
  unfold poolSetAct
  dsimp only [refuse]
  (repeat' split) <;> first | exact hr | (refine ⟨?_, hr.2, hr.3⟩; intro g hg; simp [placedPool] at hg; rw [hg.2]; decide)

theorem countStray_numbers   {u : State} (hr : NumberLaw u) : NumberLaw (countStray u) := by
  exact ⟨hr.1, hr.2, hr.3⟩

theorem abandonFrame_numbers (k : Nat)  {u : State} (hr : NumberLaw u) : NumberLaw (abandonFrame k u) := by
  have hs : ∀ j, (frameSlotAt u j).frame < 4294967296 := by
    intro j
    unfold frameSlotAt
    rw [List.getD_eq_getElem?_getD]
    cases hx : u.fiu.slots[j]? with
    | none => simp [FrameSlot.empty]
    | some p => exact hr.1 p (List.mem_of_getElem? hx)
  unfold abandonFrame
  split
  · exact raiseFrame_numbers _ _ _ (hs k) hr
  · exact hr

theorem settleHeader_numbers (k e : Nat) (f : FrameSlot) (hf : f.frame < 4294967296) {u : State} (hr : NumberLaw u) :
    NumberLaw (settleHeader k e f u) := by
  unfold settleHeader
  split
  · refine raiseFault_numbers _ _ ?_ (setFrameSlot_numbers _ _ ?_ hr)
    · intro x hx; simp only [headerFinding, frameFinding, Option.some.injEq] at hx; rw [← hx]; exact hf
    · exact hf
  · dsimp only
    have h : NumberLaw (setFrameSlot k (fillingSlot f) u) := setFrameSlot_numbers k (fillingSlot f) hf hr
    split
    · exact raiseFrame_numbers _ _ _ hf h
    · exact h

theorem takeHeader_numbers (k : Nat) (d : BeatData)  {u : State} (hr : NumberLaw u) : NumberLaw (takeHeader k d u) := by
  unfold takeHeader
  dsimp only
  apply noticeViews_numbers
  apply settleHeader_numbers
  · exact Nat.mod_lt _ (by decide)
  · exact abandonFrame_numbers k hr

theorem spoilHeader_numbers (k : Nat)  {u : State} (hr : NumberLaw u) : NumberLaw (spoilHeader k u) := by
  have hs : ∀ j, (frameSlotAt u j).frame < 4294967296 := by
    intro j
    unfold frameSlotAt
    rw [List.getD_eq_getElem?_getD]
    cases hx : u.fiu.slots[j]? with
    | none => simp [FrameSlot.empty]
    | some p => exact hr.1 p (List.mem_of_getElem? hx)
  unfold spoilHeader
  dsimp only
  apply noticeViews_numbers
  have h : NumberLaw (setFrameSlot k { frameSlotAt u k with state := .bad } u) := setFrameSlot_numbers k { frameSlotAt u k with state := .bad } (hs k) hr
  split
  · exact raiseFrame_numbers _ _ _ (hs k) h
  · exact raiseFault_numbers _ _ (by simp [anonymousHeaderFinding]) h

theorem headerBeat_numbers (r : Request) (b : List WriteBeat) (i k o : Nat)  {u : State} (hr : NumberLaw u) :
    NumberLaw (headerBeat r b i k o u).1 := by
  unfold headerBeat
  split
  · exact hr
  · split
    · exact takeHeader_numbers _ _ hr
    · exact spoilHeader_numbers _ hr

theorem reportFrame_numbers (k : Nat) (f : FrameSlot)  {u : State} (hr : NumberLaw u) : NumberLaw (reportFrame k f u) := by
  exact hr.of_eq (by simp) (by simp) (by simp)

theorem endFrame_numbers (k : Nat) (f : FrameSlot) (hf : f.frame < 4294967296) {u : State} (hr : NumberLaw u) :
    NumberLaw (endFrame k f u) := by
  unfold endFrame
  dsimp only
  apply trackFrame_numbers
  · exact hf
  · exact reportFrame_numbers _ _ (countFrame_numbers _ _ (setFrameSlot_numbers k { f with state := .complete } hf hr))

theorem overwriteFrame_numbers (k : Nat)  {u : State} (hr : NumberLaw u) : NumberLaw (overwriteFrame k u) := by
  have hs : ∀ j, (frameSlotAt u j).frame < 4294967296 := by
    intro j
    unfold frameSlotAt
    rw [List.getD_eq_getElem?_getD]
    cases hx : u.fiu.slots[j]? with
    | none => simp [FrameSlot.empty]
    | some p => exact hr.1 p (List.mem_of_getElem? hx)
  unfold overwriteFrame
  exact raiseFrame_numbers _ _ _ (hs k) (setFrameSlot_numbers k { frameSlotAt u k with state := .bad } (hs k) hr)

theorem bodyBeat_numbers (r : Request) (i k o : Nat) (d : BeatData) (st : Strobes)  {u : State} (hr : NumberLaw u) :
    NumberLaw (bodyBeat r i k o d st u).1 := by
  have hs : ∀ j, (frameSlotAt u j).frame < 4294967296 := by
    intro j
    unfold frameSlotAt
    rw [List.getD_eq_getElem?_getD]
    cases hx : u.fiu.slots[j]? with
    | none => simp [FrameSlot.empty]
    | some p => exact hr.1 p (List.mem_of_getElem? hx)
  have hm : ∀ zs c (l : List (Nat × Rgb Nat)) (g : FrameSlot), (l.foldl (measurePixel zs c) g).frame = g.frame := by
    intro zs c l; induction l with
    | nil => intro g; rfl
    | cons a l ih => intro g; rw [List.foldl_cons, ih]; rfl
  have ha : ∀ (l : List (Nat × Nat)) (g : FrameSlot), (l.foldl addCandidate g).frame = g.frame := by
    intro l; induction l with
    | nil => intro g; rfl
    | cons a l ih => intro g; rw [List.foldl_cons, ih]; unfold addCandidate; (repeat' split) <;> rfl
  have hc : ∀ b g, (countBeat u d st b g).frame = g.frame := by
    intro b g; simp only [countBeat, ha, hm]
  unfold bodyBeat
  dsimp only
  split
  · exact countStray_numbers hr
  · split
    · exact overwriteFrame_numbers _ hr
    · dsimp only
      have hx : (countBeat u d st ((o - 256) / 32) (frameSlotAt u k)).frame < 4294967296 := by rw [hc]; exact hs k
      split
      · exact endFrame_numbers _ _ hx hr
      · exact setFrameSlot_numbers _ _ hx hr

theorem poolBeat_numbers (r : Request) (b : List WriteBeat) (i : Nat) (d : BeatData) (st : Strobes) (p : Pool)
     {u : State} (hr : NumberLaw u) : NumberLaw (poolBeat r b i d st p u).1 := by
  unfold poolBeat
  try dsimp only [refuse]
  repeat' split
  all_goals apply_rules [hr, headerBeat_numbers, bodyBeat_numbers]

theorem frameResponse_numbers (a k g : Nat) (ok : Bool)  {u : State} (hr : NumberLaw u) :
    NumberLaw (frameResponse a k g ok u) := by
  have hs : ∀ j, (frameSlotAt u j).frame < 4294967296 := by
    intro j
    unfold frameSlotAt
    rw [List.getD_eq_getElem?_getD]
    cases hx : u.fiu.slots[j]? with
    | none => simp [FrameSlot.empty]
    | some p => exact hr.1 p (List.mem_of_getElem? hx)
  unfold frameResponse
  dsimp only
  split
  · exact hr
  · split
    · exact raiseFrame_numbers _ _ _ (hs k) (setFrameSlot_numbers k { frameSlotAt u k with state := .bad } (hs k) hr)
    · split
      · exact hr
      · exact raiseFrame_numbers _ _ _ (hs k) (setFrameSlot_numbers k { frameSlotAt u k with lateFault := true } (hs k) hr)
    · exact hr
    · exact hr

theorem lookNext_numbers (v : Nat)  {u : State} (hr : NumberLaw u) : NumberLaw (lookNext v u).1 := by
  exact hr.of_eq (by simp) (by simp) (by simp)

theorem zonesToggle_numbers (v : Nat)  {u : State} (hr : NumberLaw u) : NumberLaw (zonesToggle v u).1 := by
  exact hr.of_eq (by simp) (by simp) (by simp)

theorem bandsToggle_numbers (v : Nat)  {u : State} (hr : NumberLaw u) : NumberLaw (bandsToggle v u).1 := by
  exact hr.of_eq (by simp) (by simp) (by simp)

theorem shuttlePress_numbers (d : Direction) (v : Nat)  {u : State} (hr : NumberLaw u) :
    NumberLaw (shuttlePress d v u).1 := by
  exact hr.of_eq (by simp) (by simp) (by simp)

theorem stopPress_numbers (v : Nat)  {u : State} (hr : NumberLaw u) : NumberLaw (stopPress v u).1 := by
  exact hr.of_eq (by simp) (by simp) (by simp)

theorem holdToggle_numbers (v : Nat)  {u : State} (hr : NumberLaw u) : NumberLaw (holdToggle v u).1 := by
  exact hr.of_eq (by simp) (by simp) (by simp)

theorem locatePress_numbers (f : Option Nat) (v : Nat)  {u : State} (hr : NumberLaw u) :
    NumberLaw (locatePress f v u).1 := by
  exact hr.of_eq (by simp) (by simp) (by simp)

theorem ackHere_numbers (v : Nat)  {u : State} (hr : NumberLaw u) : NumberLaw (ackHere v u).1 := by
  unfold ackHere
  try dsimp only [refuse]
  all_goals apply_rules [hr, ackFrame_numbers]

theorem doAction_numbers (a : PanelAction) (v : Nat)  {u : State} (hr : NumberLaw u) : NumberLaw (doAction a v u).1 := by
  unfold doAction
  try dsimp only [refuse]
  repeat' split
  all_goals apply_rules [hr, lookNext_numbers, zonesToggle_numbers, bandsToggle_numbers, shuttlePress_numbers, stopPress_numbers, holdToggle_numbers, locatePress_numbers, ackHere_numbers]

theorem actAndReport_numbers (k : Nat) (e : PanelEvent) (h : Option Nat)  {u : State} (hr : NumberLaw u) :
    NumberLaw (actAndReport k e h u) := by
  exact create_numbers _ (doAction_numbers _ _ hr)

theorem keyChange_numbers (k : Nat) (b : Bool)  {u : State} (hr : NumberLaw u) : NumberLaw (keyChange k b u) := by
  exact hr.of_eq (by simp) (by simp) (by simp)

theorem keyPress_numbers (k : Nat)  {u : State} (hr : NumberLaw u) : NumberLaw (keyPress k u) := by
  unfold keyPress
  try dsimp only [refuse]
  repeat' split
  all_goals apply_rules [hr, setKey_numbers, actAndReport_numbers]

theorem keyRelease_numbers (k : Nat)  {u : State} (hr : NumberLaw u) : NumberLaw (keyRelease k u) := by
  exact hr.of_eq (by simp) (by simp) (by simp)

theorem keyRepeat_numbers (k : Nat)  {u : State} (hr : NumberLaw u) : NumberLaw (keyRepeat k u) := by
  unfold keyRepeat
  try dsimp only [refuse]
  repeat' split
  all_goals apply_rules [hr, setKey_numbers, actAndReport_numbers]

theorem panelTimingAct_numbers (a b c : Nat)  {u : State} (hr : NumberLaw u) : NumberLaw (panelTimingAct a b c u).1 := by
  exact hr.of_eq (by simp) (by simp) (by simp)

theorem panelBindAct_numbers (k : Nat) (a : Option PanelAction) (v r : Nat)  {u : State} (hr : NumberLaw u) :
    NumberLaw (panelBindAct k a v r u).1 := by
  exact hr.of_eq (by simp) (by simp) (by simp)

theorem routeDetent_numbers (d : Direction)  {u : State} (hr : NumberLaw u) : NumberLaw (routeDetent d u) := by
  exact hr.of_eq (by simp) (by simp) (by simp)

theorem jogStep_numbers (d : Direction) (p : Bool × Bool)  {u : State} (hr : NumberLaw u) : NumberLaw (jogStep d p u) := by
  exact hr.of_eq (by simp) (by simp) (by simp)

theorem jogSample_numbers (p : Bool × Bool)  {u : State} (hr : NumberLaw u) : NumberLaw (jogSample p u) := by
  exact hr.of_eq (by simp) (by simp) (by simp)

theorem forgetSent_numbers (i : Nat)  {u : State} (hr : NumberLaw u) : NumberLaw (forgetSent i u) := by
  exact hr.of_eq (by simp) (by simp) (by simp)

theorem resetUnits_numbers   {u : State} (hr : NumberLaw u) : NumberLaw (resetUnits u) := by
  refine ⟨?_, ?_, ?_⟩
  · intro g hg; simp [resetUnits, resetFrames] at hg; obtain ⟨a, _, rfl⟩ := hg; simp [emptiedSlot, FrameSlot.empty]
  · intro g hg; simp [resetUnits, resetTracks] at hg; obtain ⟨a, _, rfl⟩ := hg; simp
  · intro g hg; simp [resetUnits] at hg

theorem engineResetAct_numbers   {u : State} (hr : NumberLaw u) : NumberLaw (engineResetAct u).1 := by
  unfold engineResetAct
  dsimp only
  exact computeLamps_numbers _ (resetUnits_numbers hr)

theorem motionLaw_reset : MotionLaw Motion.reset := by constructor <;> simp [Motion.reset, resting]

theorem MotionLaw.same {m x : Motion} (h : MotionLaw m) (h1 : x.position = m.position)
    (h2 : x.pendingLocate = m.pendingLocate)
    (h3 : x.target = m.target) (h4 : x.direction = m.direction) (h5 : x.looping = m.looping) (h6 : x.phase = m.phase)
    (h7 : x.heldPhase = m.heldPhase) (h8 : x.start = m.start) : MotionLaw x := by
  obtain ⟨a, b, c, d, e, f⟩ := h
  refine ⟨?_, ?_, ?_, ?_, ?_, ?_⟩
  · rw [h1]; exact a
  · rw [h2]; exact b
  · rw [h3, h4, h1]; exact c
  · rw [h3, h4, h5, h6, h7, h8]; exact d
  · simp only [resting] at e ⊢; rw [h3, h6, h7]; exact e
  · rw [h6, h7]; exact f

theorem locate_law {m} (h : MotionLaw m) : MotionLaw (applyLocate m) := by
  unfold applyLocate
  split
  · exact h
  · rename_i f hf
    have := h.locate f hf
    refine ⟨?_, ?_, ?_, ?_, ?_, ?_⟩ <;> simp [resting, positionTop]
    omega

theorem joggedPosition_le (p j) : joggedPosition p j ≤ positionTop := by
  unfold joggedPosition clampInt positionTop; omega

theorem jog_law {m} (h : MotionLaw m) : MotionLaw (applyJog m) := by
  have hj := joggedPosition_le m.position m.pendingJog
  have h0 := h
  obtain ⟨a, b, c, d, e, f⟩ := h
  unfold applyJog
  split
  · exact h0
  · dsimp only
    split
    · rename_i hp
      refine ⟨?_, b, ?_, ?_, ?_, ?_⟩
      · simp only [jogClamp, hp, or_true, if_true]; exact hj
      · simp
      · simp
      · simp [resting]
      · intro hh; simp [hp] at f; exact absurd f (by simpa using hh)
    · rename_i hp
      refine ⟨?_, b, ?_, d, e, f⟩
      · show jogClamp m _ ≤ _
        unfold jogClamp
        split
        · exact hj
        · split
          · exact hj
          · rename_i t ht
            have := c t ht
            split <;> omega
      · intro t ht
        refine ⟨(c t ht).1, ?_⟩
        show onSide m.direction (jogClamp m _) t
        unfold jogClamp
        have ht' : m.target = some t := ht
        by_cases hi : m.phase = .idle
        · have : m.target = none := e.1 (by simp [resting, hi])
          rw [this] at ht'; cases ht'
        · simp only [hi, hp, or_self, if_false, ht']
          unfold onSide
          cases m.direction <;> simp

theorem jogdetent_law {m} (d) (h : MotionLaw m) : MotionLaw (jogDetentMotion d m) := by
  unfold jogDetentMotion
  split
  · exact h.same rfl rfl rfl rfl rfl rfl rfl rfl
  · exact h

theorem locateMotion_law {m f} (h : MotionLaw m) (hf : f < 4294967296) : MotionLaw (locateMotion f m) := by
  obtain ⟨a, b, c, d, e, g⟩ := h
  refine ⟨a, ?_, c, d, e, g⟩
  intro x hx; simp [locateMotion] at hx; omega

theorem go_law {m} (n d) (h : MotionLaw m) : MotionLaw (goMotion n d m) := by
  have hx := jog_law (locate_law h)
  unfold goMotion
  generalize applyJog (applyLocate m) = x at hx
  have hp := hx.position
  have key : goTarget (x.position / 256 * 256) n d ≤ positionTop ∧ onSide d x.position (goTarget (x.position / 256 * 256) n d)
     ∧ onSide d (x.position / 256 * 256) (goTarget (x.position / 256 * 256) n d) := by
    unfold goTarget onSide positionTop at *
    cases d <;> dsimp only <;> split <;> omega
  dsimp only
  refine ⟨hp, hx.locate, ?_, ?_, ?_, ?_⟩
  · intro t ht; simp at ht; subst ht; exact ⟨key.1, key.2.1⟩
  · intro _ t st ht hst; simp at ht hst; subst ht hst; exact ⟨by omega, key.2.2⟩
  · simp [resting]; split <;> simp
  · simp

theorem foldl_least_mem (l : List Nat) (m : Option Nat) (f) (h : l.foldl (fun m x => some (match m with | none => x | some y => min x y)) m = some f) :
    f ∈ l ∨ m = some f := by
  induction l generalizing m with
  | nil => exact .inr h
  | cons a l ih =>
    rw [List.foldl_cons] at h
    rcases ih _ h with h | h
    · exact .inl (List.mem_cons_of_mem _ h)
    · cases m with
      | none => simp at h; subst h; exact .inl (by simp)
      | some y =>
        simp at h
        rcases Nat.le_total a y with q | q
        · left; rw [Nat.min_eq_left q] at h; simp [h]
        · right; rw [Nat.min_eq_right q] at h; simp [h]

theorem foldl_greatest_mem (l : List Nat) (m : Option Nat) (f)
    (h : l.foldl (fun m x => some (match m with | none => x | some y => max x y)) m = some f) :
    f ∈ l ∨ m = some f := by
  induction l generalizing m with
  | nil => exact .inr h
  | cons a l ih =>
    rw [List.foldl_cons] at h
    rcases ih _ h with h | h
    · exact .inl (List.mem_cons_of_mem _ h)
    · cases m with
      | none => simp at h; subst h; exact .inl (by simp)
      | some y =>
        simp at h
        rcases Nat.le_total a y with q | q
        · right; rw [Nat.max_eq_right q] at h; simp [h]
        · left; rw [Nat.max_eq_left q] at h; simp [h]

theorem leastOf_mem {l f} (h : leastOf l = some f) : f ∈ l := by
  rcases foldl_least_mem l none f h with h | h
  · exact h
  · cases h

theorem greatestOf_mem {l f} (h : greatestOf l = some f) : f ∈ l := by
  rcases foldl_greatest_mem l none f h with h | h
  · exact h
  · cases h

theorem newFault_numbers {s : State} (hn : NumberLaw s) {c x} (h : x ∈ newFaultFrames s c) : x.2 < 4294967296 := by
  simp only [newFaultFrames, List.mem_filterMap] at h
  obtain ⟨r, hr, h⟩ := h
  split at h
  · simp only [Option.map_eq_some_iff] at h
    obtain ⟨y, hy, rfl⟩ := h
    exact hn.faults r hr y hy
  · cases h

theorem nextFault_numbers {s c a f} (hn : NumberLaw s) (h : nextFault s c a = some f) : f < 4294967296 := by
  have := leastOf_mem h
  simp only [List.mem_filter, List.mem_map] at this
  obtain ⟨⟨x, hx, rfl⟩, _⟩ := this
  exact newFault_numbers hn hx

theorem previousFault_numbers {s c a f} (hn : NumberLaw s) (h : previousFault s c a = some f) : f < 4294967296 := by
  have := greatestOf_mem h
  simp only [List.mem_filter, List.mem_map] at this
  obtain ⟨⟨x, hx, rfl⟩, _⟩ := this
  exact newFault_numbers hn hx

theorem faultAhead_range {s c a b d f} (h : faultAhead s c a b d = some f) :
    (d = .forward → a < f ∧ f ≤ b) ∧ (d = .reverse → f < a ∧ b ≤ f) := by
  unfold faultAhead at h
  cases d with
  | forward =>
    have := leastOf_mem h
    simp only [List.mem_filter] at this
    have := this.2
    simp at this
    simp [this]
  | reverse =>
    have := greatestOf_mem h
    simp only [List.mem_filter] at this
    have := this.2
    simp at this
    simp [this]

/-- A move in progress that keeps its law. -/
def MoveInProgress (m : Motion) : Prop := isMoving m.phase = true ∧ MotionLaw m

theorem moving_rest {m : Motion} (h : isMoving m.phase = true) : resting m = false := by
  unfold resting; cases hp : m.phase <;> simp_all [isMoving]

theorem MoveInProgress.target {m} (h : MoveInProgress m) : ∃ t, m.target = some t := by
  cases ht : m.target with
  | none => have := h.2.rest.2 ht; rw [moving_rest h.1] at this; cases this
  | some t => exact ⟨t, rfl⟩

theorem search_run {s c m} (h : MoveInProgress m) : MoveInProgress (searchStep s c m) := by
  obtain ⟨t, ht⟩ := h.target
  obtain ⟨hm, a, b, c', d, e, g⟩ := h
  unfold searchStep
  split
  · split
    · rename_i f hf
      rw [ht] at hf
      have hr := faultAhead_range hf
      have ct := c' t ht
      have hmv : isMoving (pullTarget f m).phase = true := by
        unfold pullTarget; dsimp only; split
        · rfl
        · exact hm
      have hh : m.heldPhase = none := by
        cases hq : m.heldPhase with
        | none => rfl
        | some q => have := g (by simp [hq]); rw [this] at hm; cases hm
      refine ⟨hmv, a, b, ?_, ?_, ?_, ?_⟩
      · intro t' ht'
        simp [pullTarget] at ht'
        subst ht'
        show _ ∧ onSide m.direction m.position _
        revert hr ct
        unfold onSide
        cases m.direction <;> simp only [Option.getD_some] <;> intro h1 h2 <;> simp at h1 <;> omega
      · intro hl
        exfalso
        rcases hl with hl | hl | hl
        · simp [pullTarget] at hl
        · rw [hl] at hmv; cases hmv
        · simp [pullTarget, hh] at hl
      · rw [moving_rest hmv]; simp [pullTarget]
      · intro hq; exact absurd hh hq
    · exact ⟨hm, a, b, c', d, e, g⟩
  · exact ⟨hm, a, b, c', d, e, g⟩

theorem MoveInProgress.held {m} (h : MoveInProgress m) : m.heldPhase = none := by
  cases hq : m.heldPhase with
  | none => rfl
  | some q => have := h.2.holds (by simp [hq]); have h1 := h.1; rw [this] at h1; cases h1

theorem MoveInProgress.same {m x : Motion} (h : MoveInProgress m) (hm : isMoving x.phase = true)
    (h1 : x.position = m.position) (h2 : x.pendingLocate = m.pendingLocate)
    (h3 : x.target = m.target) (h4 : x.direction = m.direction) (h5 : x.looping = m.looping)
    (h7 : x.heldPhase = m.heldPhase) (h8 : x.start = m.start) : MoveInProgress x := by
  have hh := h.held
  obtain ⟨t, ht⟩ := h.target
  obtain ⟨hm0, a, b, c', d, e, g⟩ := h
  refine ⟨hm, ?_, ?_, ?_, ?_, ?_, ?_⟩
  · rw [h1]; exact a
  · rw [h2]; exact b
  · rw [h3, h4, h1]; exact c'
  · rw [h3, h4, h5, h7, h8, hh]
    intro hl
    rcases hl with hl | hl | hl
    · exact d (.inl hl)
    · rw [hl] at hm; cases hm
    · cases hl
  · rw [moving_rest hm, h3, ht]; simp
  · rw [h7, hh]; simp

theorem decel_run {m} (h : MoveInProgress m) : MoveInProgress (decelStep m) := by
  unfold decelStep
  split
  · exact h
  · split
    · exact h
    · rename_i x hx
      split
      · refine h.same ?_ rfl rfl rfl rfl rfl rfl rfl
        unfold decelTable at hx
        split at hx <;> first | cases hx
        all_goals rfl
      · exact h

theorem stage_run {m} (h : MoveInProgress m) : MoveInProgress (stageStep m) := by
  unfold stageStep
  split
  · split
    · refine h.same ?_ rfl rfl rfl rfl rfl rfl rfl
      rename_i hs _
      show isMoving (nextStage m) = true
      unfold nextStage
      cases hp : m.phase <;> cases m.continuous <;> simp_all [isStage, isMoving]
    · exact h.same h.1 rfl rfl rfl rfl rfl rfl rfl
  · exact h

theorem advance_run {m} (h : MoveInProgress m) : MoveInProgress (advanceStep m) := by
  obtain ⟨t, ht⟩ := h.target
  have hh := h.held
  obtain ⟨hm0, a, b, c', d, e, g⟩ := h
  have ct := c' t ht
  unfold advanceStep
  have hr : remaining m = max t m.position - min t m.position := by simp [remaining, ht]
  dsimp only
  split
  · rename_i hd
    rw [hd] at ct
    simp only [onSide] at ct
    refine ⟨hm0, ?_, b, ?_, d, e, g⟩
    · dsimp only; omega
    · intro t' ht'; dsimp only at ht'; rw [ht] at ht'; cases ht'
      refine ⟨ct.1, ?_⟩
      dsimp only; rw [hd]; simp only [onSide]; omega
  · rename_i hd
    rw [hd] at ct
    simp only [onSide] at ct
    refine ⟨hm0, ?_, b, ?_, d, e, g⟩
    · dsimp only; omega
    · intro t' ht'; dsimp only at ht'; rw [ht] at ht'; cases ht'
      refine ⟨ct.1, ?_⟩
      dsimp only; rw [hd]; simp only [onSide]; omega

theorem arrive_law {m} (h : MoveInProgress m) : MotionLaw (arriveMotion m) := by
  obtain ⟨t, ht⟩ := h.target
  have hh := h.held
  obtain ⟨hm0, a, b, c', d, e, g⟩ := h
  unfold arriveMotion
  split
  · rename_i hc
    refine ⟨a, b, c', ?_, ?_, ?_⟩
    · intro _; exact d (.inl hc.1)
    · simp [resting, ht]
    · simp [hh]
  · refine ⟨a, b, c', ?_, ?_, ?_⟩
    · intro hl; rcases hl with hl | hl | hl
      · exact d (.inl hl)
      · cases hl
      · exact d (.inr (.inr hl))
    · simp [resting, ht]
    · simp [hh]

theorem preroll_law {m} (h : MotionLaw m) (hp : m.phase = .preroll) : MotionLaw (prerollMotion m) := by
  obtain ⟨a, b, c', d, e, g⟩ := h
  have hh : m.heldPhase = none := by
    cases hq : m.heldPhase with
    | none => rfl
    | some q => have := g (by simp [hq]); rw [this] at hp; cases hp
  have ht : m.target ≠ none := by intro h; have := e.2 h; simp [resting, hp] at this
  unfold prerollMotion
  split
  · refine ⟨a, b, c', ?_, ?_, ?_⟩
    · intro hl; rcases hl with hl | hl | hl
      · exact d (.inl hl)
      · cases hl
      · exact d (.inr (.inr hl))
    · simp [resting, ht]
    · simp [hh]
  · exact ⟨a, b, c', d, e, g⟩

theorem postroll_law {m} (h : MotionLaw m) (hp : m.phase = .postroll) : MotionLaw (postrollMotion m) := by
  obtain ⟨a, b, c', d, e, g⟩ := h
  have hh : m.heldPhase = none := by
    cases hq : m.heldPhase with
    | none => rfl
    | some q => have := g (by simp [hq]); rw [this] at hp; cases hp
  have ht : m.target ≠ none := by intro h; have := e.2 h; simp [resting, hp] at this
  unfold postrollMotion
  split
  · exact ⟨a, b, c', d, e, g⟩
  · unfold loopMotion
    have hl := d (.inr (.inl hp))
    refine ⟨?_, b, ?_, ?_, ?_, ?_⟩
    · dsimp only
      cases hs : m.start with
      | none => exact a
      | some st =>
        cases ht' : m.target with
        | none => exact absurd ht' ht
        | some t => exact (hl t st ht' hs).1
    · intro t ht'; refine ⟨(c' t ht').1, ?_⟩
      dsimp only
      cases hs : m.start with
      | none => exact (c' t ht').2
      | some st => exact (hl t st ht' hs).2
    · intro _; exact hl
    · have : m.target ≠ none := ht
      simp only [resting]
      split <;> simp [this]
    · simp [hh]

theorem boundary_law {s c m} (h : MotionLaw m) : MotionLaw (boundaryMotion s c m).1 := by
  unfold boundaryMotion
  have hx := jog_law (locate_law h)
  generalize applyJog (applyLocate m) = x at hx
  have : MotionLaw (phaseStep s c x).1 := by
    unfold phaseStep
    split
    · rename_i hm
      have hr : MoveInProgress (moveMotion s c x) := stage_run (advance_run (decel_run (search_run ⟨hm, hx⟩)))
      dsimp only
      split
      · exact arrive_law hr
      · exact hr.2
    · split
      · exact preroll_law hx ‹_›
      · exact postroll_law hx ‹_›
      · exact hx
  exact this.same rfl rfl rfl rfl rfl rfl rfl rfl

theorem stopDistance_moving {m d} (h : stopDistance m = some d) : isMoving m.phase = true := by
  unfold stopDistance at h
  cases hp : m.phase <;> simp_all [isMoving]

theorem stop_law {m} (h : MotionLaw m) : MotionLaw (stopMotion m).1 := by
  unfold stopMotion
  split
  · rename_i d hd
    have hm := stopDistance_moving hd
    have hr : MoveInProgress m := ⟨hm, h⟩
    obtain ⟨t, ht⟩ := hr.target
    have hh := hr.held
    obtain ⟨a, b, c', dd, e, g⟩ := h
    have ct := c' t ht
    dsimp only
    have hmv : isMoving (if m.phase = .continuous then Phase.cruise else m.phase) = true := by
      split
      · rfl
      · exact hm
    refine ⟨a, b, ?_, ?_, ?_, ?_⟩
    · intro t' ht'
      simp at ht'
      subst ht'
      simp only [nearerTarget, ht]
      show _ ∧ onSide m.direction m.position _
      revert ct
      unfold stopPoint onSide gapBetween roundUp256
      cases m.direction <;> dsimp only <;> intro ct <;> split <;> omega
    · intro hl
      exfalso
      rcases hl with hl | hl | hl
      · cases hl
      · dsimp only at hl; rw [hl] at hmv; cases hmv
      · dsimp only at hl; rw [hh] at hl; cases hl
    · have := moving_rest (m := { m with phase := if m.phase = .continuous then Phase.cruise else m.phase }) hmv
      simp only [resting] at this ⊢
      rw [this]; simp
    · intro hq; exact absurd hh hq
  · split
    · refine ⟨h.position, h.locate, ?_, ?_, ?_, ?_⟩ <;> simp [resting]
    · split
      · exact h
      · obtain ⟨a, b, c', dd, e, g⟩ := h
        refine ⟨a, b, c', ?_, e, g⟩
        intro hl; rcases hl with hl | hl
        · cases hl
        · exact dd (.inr hl)

theorem hold_law {m} (h : MotionLaw m) : MotionLaw (holdMotion m).1 := by
  unfold holdMotion
  split
  · exact h
  · rename_i hp
    obtain ⟨a, b, c', dd, e, g⟩ := h
    have hh : m.heldPhase = none := by
      cases hq : m.heldPhase with
      | none => rfl
      | some q => exact absurd (g (by simp [hq])) hp
    refine ⟨a, b, c', ?_, ?_, ?_⟩
    · intro hl; rcases hl with hl | hl | hl
      · exact dd (.inl hl)
      · cases hl
      · exact dd (.inr (.inl (by simpa using hl)))
    · rw [← e]; simp [resting, hp]
    · simp

theorem release_law {m} (h : MotionLaw m) : MotionLaw (releaseMotion m).1 := by
  unfold releaseMotion
  split
  · rename_i hp
    obtain ⟨a, b, c', dd, e, g⟩ := h
    refine ⟨a, b, c', ?_, ?_, ?_⟩
    · intro hl; rcases hl with hl | hl | hl
      · exact dd (.inl hl)
      · refine dd (.inr (.inr ?_))
        dsimp only at hl
        cases hq : m.heldPhase with
        | none => rw [hq] at hl; cases hl
        | some q => rw [hq] at hl; simp at hl; rw [hl]
      · cases hl
    · rw [← e]
      cases hq : m.heldPhase with
      | none => simp [resting, hp, hq]
      | some q => cases q <;> simp [resting, hp, hq]
    · simp
  · exact h

theorem resetMotion_law {m} (h : MotionLaw m) : MotionLaw (resetMotion m) := by
  refine ⟨h.position, ?_, ?_, ?_, ?_, ?_⟩ <;> simp [resetMotion, resting]

theorem motionAt_law {s} (h : ShuttleLaw s) (v) : MotionLaw (motionAt s v) := by
  unfold motionAt
  rw [List.getD_eq_getElem?_getD]
  cases hx : s.sh[v]? with
  | none => exact motionLaw_reset
  | some m => exact h.motions m (List.mem_of_getElem? hx)

/-- the two parts apart: motions as they were -/
theorem ShuttleLaw.keep {s t : State} (h : ShuttleLaw s) (k : t.sh = s.sh) (n : NumberLaw t) :
    ShuttleLaw t := ⟨by rw [k]; exact h.motions, n⟩

theorem setMotion_law {s v x} (h : ShuttleLaw s) (hx : MotionLaw x) : ShuttleLaw (setMotion v x s) := by
  refine ⟨?_, h.numbers.of_eq rfl rfl rfl⟩
  intro m hm
  rcases List.mem_or_eq_of_mem_set hm with hm | rfl
  · exact h.motions m hm
  · exact hx

theorem motionAct_law {f v s} (h : ShuttleLaw s) (hf : ∀ m, MotionLaw m → MotionLaw (f m).1) :
    ShuttleLaw (motionAct f v s).1 := by
  unfold motionAct; split
  · exact h
  · exact setMotion_law h (hf _ (motionAt_law h v))

theorem profile_law {v p s} (h : ShuttleLaw s) : ShuttleLaw (shuttleProfileAct v p s).1 := by
  unfold shuttleProfileAct; split
  · exact h
  · exact setMotion_law h ((motionAt_law h v).same rfl rfl rfl rfl rfl rfl rfl rfl)

theorem goAct_law {v n d s} (h : ShuttleLaw s) : ShuttleLaw (shuttleGoAct v n d s).1 := by
  unfold shuttleGoAct; split
  · exact h
  · split
    · exact h
    · exact setMotion_law h (go_law _ _ (motionAt_law h v))

theorem createReport_shuttle {b s} (h : ShuttleLaw s) : ShuttleLaw (createReport b s) := h.keep (by simp)
    (create_numbers _ h.numbers)

theorem shuttleStep_shuttle {v s} (h : ShuttleLaw s) : ShuttleLaw (shuttleStep v s) := by
  unfold shuttleStep; dsimp only
  have := setMotion_law (v := v) h (boundary_law (s := s) (c := (viewAt s v).current.camera) (motionAt_law h v))
  split
  · exact this
  · exact createReport_shuttle this

theorem viewRead_shuttle {v t r c b w s} (h : ShuttleLaw s) : ShuttleLaw (viewRead v t r c b w s) := by
  unfold viewRead; dsimp only
  have key : ∀ u, ShuttleLaw u → ShuttleLaw (serveRead v (latchRead (viewAt (setView v { viewAt u v with lastRow := some r } u) v) w t r c b) (setView v { viewAt u v with lastRow := some r } u)) := by
    intro u hu; exact hu.keep (by simp) (hu.numbers.of_eq (by simp) (by simp) (by simp))
  split
  · apply key
    unfold takeBoundary
    have h2 : ShuttleLaw (mixStep v (beginFrame v w.height s)) := h.keep (by simp) (h.numbers.of_eq (by simp) (by simp) (by simp))
    have h3 := shuttleStep_shuttle (v := v) h2
    exact h3.keep (by simp) (h3.numbers.of_eq (by simp) (by simp) (by simp))
  · exact key _ h

theorem doAction_shuttle {a v s} (h : ShuttleLaw s) : ShuttleLaw (doAction a v s).1 := by
  have hs : ∀ {x}, MotionLaw x → ShuttleLaw (setMotion v x s) := fun hx => setMotion_law h hx
  have hm := motionAt_law h v
  have hl : ∀ {o}, (∀ f, o = some f → f < 4294967296) → ShuttleLaw (locatePress o v s).1 := by
    intro o ho
    unfold locatePress; split
    · exact h
    · exact hs (locateMotion_law hm (ho _ rfl))
  unfold doAction; split
  · exact h
  · exact h.keep (by simp) (h.numbers.of_eq (by simp) (by simp) (by simp))
  · exact hs (go_law _ _ hm)
  · exact hs (go_law _ _ hm)
  · exact hs (stop_law hm)
  · unfold holdToggle; dsimp only; split
    · exact hs (release_law hm)
    · exact hs (hold_law hm)
  · exact hl fun f hf => nextFault_numbers h.numbers hf
  · exact hl fun f hf => previousFault_numbers h.numbers hf
  · exact h.keep (by simp [ackHere]) (ackHere_numbers _ h.numbers)
  · exact h.keep (by simp) (h.numbers.of_eq (by simp) (by simp) (by simp))
  · exact h.keep (by simp) (h.numbers.of_eq (by simp) (by simp) (by simp))

theorem compareSample_shuttle {p s} (h : ShuttleLaw s) : ShuttleLaw (compareSample p s) := by
  have hp : ∀ x, ShuttleLaw (s.withPu x) := fun x => h.keep rfl (h.numbers.of_eq rfl rfl rfl)
  have hr : ∀ d u, ShuttleLaw u → ShuttleLaw (routeDetent d u) := by
    intro d u hu; unfold routeDetent; split
    · exact createReport_shuttle hu
    · exact createReport_shuttle (setMotion_law hu (jogdetent_law _ (motionAt_law hu _)))
  unfold compareSample; split
  · exact hp _
  · split
    · exact h
    · split
      · unfold jogStep; split
        · exact hr _ _ (hp _)
        · exact hp _
      · exact hp _

theorem jogSample_shuttle {p s} (h : ShuttleLaw s) : ShuttleLaw (jogSample p s) := by
  unfold jogSample; split
  · exact compareSample_shuttle (h.keep rfl (h.numbers.of_eq rfl rfl rfl))
  · exact h

end Sys2Proof.Machine
end

