-- ==== Sys2Proof/Laws/Specs.lean ====
section
/-! SUPPORT. What the shared operations answer, once each: tests as propositions, searches by their least or greatest
answer, boundaries and records by their tables. -/

namespace Sys2Proof.Machine

/-- A debounce that has run out (R61, R159). -/
theorem changeDue_iff (s : State) (p : Option Nat) : changeDue s p = true ↔ ∃ c, p = some c ∧ s.pu.debounce ≤ (2 ^ 32 + s.time - c) % 2 ^ 32 := by
  unfold changeDue elapsed
  cases p <;> simp

/-- A tapped request (R1). -/
theorem isTapped_iff (req : Request) : isTapped req = true ↔ (req.burst = .incr ∧ req.size.val = 5 ∧ req.addr.toNat % 32 = 0 ∧ req.exclusive = false) := by
  unfold isTapped transferBytes
  rw [decide_eq_true_eq]
  have : 2 ^ req.size.val = 32 ↔ req.size.val = 5 := by
    constructor
    · intro h; exact Nat.pow_right_injective (le_refl 2) (show 2 ^ req.size.val = 2 ^ 5 from h)
    · intro h; rw [h]; rfl
  rw [this]

theorem overlapsAny_iff (w : Span) (ws : List Span) : overlapsAny w ws = true ↔ ∃ x ∈ ws, w.overlaps x = true := by
  unfold overlapsAny; rw [List.any_eq_true]

/-- The running streams that a request touches (R4). -/
theorem mem_streamsTouched (s : State) (req : Request) (i : Nat) :
    i ∈ streamsTouched s req ↔ ∃ e, i < s.su.table.length ∧ streamAt s i = some e ∧
      (requestSpan req).overlaps { base := e.base, size := e.length } = true := by
  unfold streamsTouched
  rw [List.mem_filter, List.mem_range]
  constructor
  · rintro ⟨h, h2⟩
    cases he : streamAt s i with
    | none => rw [he] at h2; simp at h2
    | some e => rw [he] at h2; exact ⟨e, h, rfl, h2⟩
  · rintro ⟨e, h, he, h2⟩; refine ⟨h, ?_⟩; rw [he]; exact h2

/-- What an untapped request does to the owners of the windows it touches (R4). -/
theorem untappedEffect_spec (s : State) (req : Request) :
    (isTapped req = true → untappedEffect req s = s) ∧
    (¬isTapped req = true → (∃ w ∈ poolWindows s, (requestSpan req).overlaps w = true) → untappedEffect req s = (untappedStreams req s).withFiu { (untappedStreams req s).fiu with stray := min (2 ^ 32 - 1) ((untappedStreams req s).fiu.stray + 1) }) ∧
    (¬isTapped req = true → (¬∃ w ∈ poolWindows s, (requestSpan req).overlaps w = true) → untappedEffect req s = untappedStreams req s) := by
  unfold untappedEffect touchesPool
  refine ⟨fun h => if_pos h, fun h h2 => ?_, fun h h2 => ?_⟩
  · rw [if_neg h]; dsimp only; rw [if_pos ((overlapsAny_iff _ _).2 h2)]; rfl
  · rw [if_neg h]; dsimp only; rw [if_neg (fun h' => h2 ((overlapsAny_iff _ _).1 h'))]

/-- All beats of a read in one row of a view window (R3). -/
def LiesInOneRow (req : Request) (w : ViewWindow) : Prop := w.base ≤ req.addr.toNat ∧ req.addr.toNat + 32 * (req.len.val + 1) ≤ w.base + w.stride * w.height ∧
      (req.addr.toNat - w.base) / w.stride = (req.addr.toNat + 32 * (req.len.val + 1 - 1) - w.base) / w.stride

/-- The test of R3 for one view. -/
def takesRow (req : Request) : (Nat × ViewWindow) → Bool := fun x =>
    liesIn req (viewSpan x.2) &&
      (beatAddress req 0 - x.2.base) / x.2.stride == (beatAddress req (beatCount req - 1) - x.2.base) / x.2.stride

theorem takesRow_iff (req : Request) (x : Nat × ViewWindow) : takesRow req x = true ↔ LiesInOneRow req x.2 := by
  unfold takesRow LiesInOneRow liesIn viewSpan beatAddress beatCount
  simp [and_assoc]

theorem servedBy_eq (s : State) (req : Request) : servedBy s req = (([0, 1] : List Nat).filterMap (fun v => (viewAt s v).window.map (fun w => (v, w)))).find? (takesRow req) := rfl

theorem servedBy_none (s : State) (req : Request) (h : ∀ v w, v < 2 → (viewAt s v).window = some w → ¬LiesInOneRow req w)
    : servedBy s req = none := by
  rw [servedBy_eq, List.find?_eq_none]
  intro x hx
  rw [List.mem_filterMap] at hx
  obtain ⟨v, hv, hx⟩ := hx
  rw [Option.map_eq_some_iff] at hx
  obtain ⟨w, hw, rfl⟩ := hx
  rw [takesRow_iff]
  exact h v w (by simp at hv; omega) hw

/-- The view that answers a read (R3). -/
theorem servedBy_some (s : State) (req : Request) (v : Nat) (w : ViewWindow) (h2 : v < 2)
    (hw : (viewAt s v).window = some w) (hp : LiesInOneRow req w)
    (hl : ∀ v' w', v' < v → (viewAt s v').window = some w' → ¬LiesInOneRow req w') : servedBy s req = some (v, w) := by
  rw [servedBy_eq]
  have e : (List.filterMap (fun v => Option.map (fun w => (v, w)) (viewAt s v).window) ([0, 1] : List Nat)) = ((viewAt s 0).window.map (fun w => (0, w))).toList ++ ((viewAt s 1).window.map (fun w => (1, w))).toList := by
    cases h0 : (viewAt s 0).window <;> cases h1 : (viewAt s 1).window <;> simp [h0, h1]
  rw [e]
  have hv : v = 0 ∨ v = 1 := by omega
  rcases hv with rfl | rfl
  · rw [hw]; simp [(takesRow_iff req (0, w)).2 hp]
  · rw [hw]
    cases h0 : (viewAt s 0).window with
    | none => simp [(takesRow_iff req (1, w)).2 hp]
    | some w0 =>
      have : takesRow req (0, w0) = false := by
        have := hl 0 w0 (by omega) h0
        rw [Bool.eq_false_iff]; intro h; exact this ((takesRow_iff req (0, w0)).1 h)
      simp [this, (takesRow_iff req (1, w)).2 hp]

/-- Strobes that are the first n bytes of a beat (R36, Table 3-3). -/
theorem strobeRun_iff (st : Strobes) (n : Nat) : strobeRun st = some n ↔ (1 ≤ n ∧ n ≤ 32 ∧ st.toNat = 2 ^ n - 1) := by
  unfold strobeRun
  rw [Option.map_eq_some_iff]
  constructor
  · rintro ⟨k, hk, rfl⟩
    rw [List.find?_range_eq_some] at hk
    obtain ⟨h1, h2, -⟩ := hk
    simp at h1 h2
    refine ⟨by omega, by omega, ?_⟩
    omega
  · rintro ⟨h1, h2, h3⟩
    refine ⟨n - 1, ?_, by omega⟩
    rw [List.find?_range_eq_some]
    have hp : 0 < 2 ^ n := Nat.two_pow_pos n
    refine ⟨?_, by simp; omega, ?_⟩
    · simp; rw [show n - 1 + 1 = n by omega]; omega
    · intro j hj
      simp
      rw [h3]
      have : 2 ^ (j + 1) < 2 ^ n := Nat.pow_lt_pow_right (by omega) (by omega)
      omega

theorem strobe_bit (st : Strobes) (n i : Nat) (h : 1 ≤ n ∧ n ≤ 32 ∧ st.toNat = 2 ^ n - 1) : st.getLsbD i = decide (i < n)
    := by
  rw [BitVec.getLsbD, h.2.2, Nat.testBit_two_pow_sub_one]

theorem greatest_fold (l : List Nat) (m n : Nat) (h : ∀ x ∈ l, x ≤ n) (hm : m ≤ n) (hn : n = m ∨ n ∈ l) :
    l.foldl (fun m x => some (match m with | none => x | some y => max x y)) (some m) = some n := by
  induction l generalizing m with
  | nil => simp at hn; rw [hn]; rfl
  | cons a l ih =>
    rw [List.foldl_cons]
    have ha := h a (by simp)
    show l.foldl _ (some (max a m)) = some n
    refine ih _ (fun x hx => h x (by simp [hx])) (by omega) ?_
    rcases hn with rfl | hn
    · left; omega
    · rw [List.mem_cons] at hn
      rcases hn with rfl | hn
      · left; omega
      · exact .inr hn

/-- The greatest of a list of frame numbers (Table 7-3). -/
theorem greatestOf_spec (l : List Nat) (n : Nat) (h : ∀ x ∈ l, x ≤ n) (hn : n ∈ l) : greatestOf l = some n := by
  unfold greatestOf
  cases l with
  | nil => simp at hn
  | cons a l =>
    rw [List.foldl_cons]
    rw [List.mem_cons] at hn
    exact greatest_fold l a n (fun x hx => h x (by simp [hx])) (h a (by simp)) hn

theorem least_fold (l : List Nat) (m n : Nat) (h : ∀ x ∈ l, n ≤ x) (hm : n ≤ m) (hn : n = m ∨ n ∈ l) :
    l.foldl (fun m x => some (match m with | none => x | some y => min x y)) (some m) = some n := by
  induction l generalizing m with
  | nil => simp at hn; rw [hn]; rfl
  | cons a l ih =>
    rw [List.foldl_cons]
    have ha := h a (by simp)
    show l.foldl _ (some (min a m)) = some n
    refine ih _ (fun x hx => h x (by simp [hx])) (by omega) ?_
    rcases hn with rfl | hn
    · left; omega
    · rw [List.mem_cons] at hn
      rcases hn with rfl | hn
      · left; omega
      · exact .inr hn

/-- The least of a list of frame numbers (Table 7-3). -/
theorem leastOf_spec (l : List Nat) (n : Nat) (h : ∀ x ∈ l, n ≤ x) (hn : n ∈ l) : leastOf l = some n := by
  unfold leastOf
  cases l with
  | nil => simp at hn
  | cons a l =>
    rw [List.foldl_cons]
    rw [List.mem_cons] at hn
    exact least_fold l a n (fun x hx => h x (by simp [hx])) (h a (by simp)) hn

/-- The frames with a NEW fault of a camera (R109). -/
theorem mem_newFaultFrames (s : State) (c f : Nat) : f ∈ (newFaultFrames s c).map (fun x => x.2)
    ↔ ∃ r ∈ s.fl.records, ∃ tc, r.acked = false ∧ r.camera = some c ∧ r.frame = some (f, tc) := by
  unfold newFaultFrames
  simp only [List.mem_map, List.mem_filterMap]
  constructor
  · rintro ⟨y, ⟨r, hr, h⟩, rfl⟩
    split at h
    · rename_i hh
      simp at hh h
      obtain ⟨a, ⟨b, h1⟩, rfl⟩ := h
      exact ⟨r, hr, b, hh.1, hh.2, h1⟩
    · cases h
  · rintro ⟨r, hr, tc, h1, h2, h3⟩
    exact ⟨(severityOf r.kind, f), ⟨r, hr, by simp [h1, h2, h3]⟩, rfl⟩

/-- Some clip of a card session (R50). -/
theorem sessionSet_any_iff (s : State) (k : Nat) (f : Nat → Bool) (P : Nat → Clip → Prop)
    (hP : ∀ i c, clipAt s i = some c → (f i = true ↔ P i c)) :
   (sessionSet s k).any f = true ↔ ∃ i c, (clipAt s i = some c ∧ c.slot = k ∧ c.session = (cardSlotAt s k).session) ∧ P i c := by
  rw [List.any_eq_true]
  unfold sessionSet inSession
  constructor
  · rintro ⟨i, hi, hf⟩
    rw [List.mem_filter, List.mem_range] at hi
    cases hc : clipAt s i with
    | none => rw [hc] at hi; simp at hi
    | some c =>
      rw [hc] at hi; simp at hi
      exact ⟨i, c, ⟨hc, hi.2.1, hi.2.2⟩, (hP i c hc).1 hf⟩
  · rintro ⟨i, c, ⟨h2, h3, h4⟩, h5⟩
    have h1 := clipAt_lt h2
    refine ⟨i, ?_, (hP i c h2).2 h5⟩
    rw [List.mem_filter, List.mem_range, h2]; simp [h1, h3, h4]

/-- A running SOURCE stream of a clip. -/
theorem sourceRunning_iff (s : State) (i : Nat) : sourceRunning s i = true ↔ ∃ j e, streamAt s j = some e ∧ e.clip = i ∧ e.role = .source := by
  unfold sourceRunning; rw [List.any_eq_true]
  constructor
  · rintro ⟨o, ho, h⟩
    obtain ⟨j, hj⟩ := List.mem_iff_getElem?.1 ho
    cases o with
    | none => simp at h
    | some e => simp at h; exact ⟨j, e, by simp [streamAt, hj], h.1, h.2⟩
  · rintro ⟨j, e, h1, h2, h3⟩
    refine ⟨some e, ?_, by simp [h2, h3]⟩
    unfold streamAt at h1
    rw [List.mem_iff_getElem?]; refine ⟨j, ?_⟩
    rw [List.getD_eq_getElem?_getD] at h1
    cases hx : s.su.table[j]? with
    | none => rw [hx] at h1; cases h1
    | some o => rw [hx] at h1; simpa using h1

/-- The bands that a boundary keeps (R135). -/
theorem keptBands_spec (h : Nat) (l : List Band) : l.length ≤ 2 → keptBands h l = (match l with
      | [] => []
      | [b] => if b.first ≤ b.last ∧ b.last < h then [b] else []
      | b :: c :: _ => if b.first ≤ b.last ∧ b.last < h then (if b.last < c.first ∧ c.first ≤ c.last ∧ c.last < h then [b, c] else [b]) else []) := by
  intro hl
  unfold keptBands
  match l, hl with
  | [], _ => rfl
  | [b], _ => simp
  | [b, c], _ =>
    dsimp only
    by_cases h1 : b.first ≤ b.last ∧ b.last < h
    · rw [if_pos h1, if_pos h1]
      by_cases h2 : b.last < c.first ∧ c.first ≤ c.last ∧ c.last < h
      · rw [if_pos h2]; simp [h2]
      · rw [if_neg h2]; simp; intro h3 h4; by_contra h5; exact h2 ⟨h3, h4, by omega⟩
    · rw [if_neg h1, if_neg h1]

/-- The overlay strips that a boundary keeps (R135). -/
theorem keptStrips_spec (h : Nat) (y : Settings) : keptStrips h y = (if y.strip1.count = 0 then (if 0 < y.strip2.count ∧ 0 ≤ y.strip2.start ∧ y.strip2.start + y.strip2.count ≤ h then [y.strip2] else [])
      else if y.strip1.start + y.strip1.count ≤ h then y.strip1 :: (if 0 < y.strip2.count ∧ y.strip1.start + y.strip1.count ≤ y.strip2.start ∧ y.strip2.start + y.strip2.count ≤ h then [y.strip2] else [])
      else []) := by
  have key : ∀ a, [y.strip2].filter (secondStripFits h a) = (if 0 < y.strip2.count ∧ a ≤ y.strip2.start ∧ y.strip2.start + y.strip2.count ≤ h then [y.strip2] else []) := by
    intro a
    by_cases hc : 0 < y.strip2.count ∧ a ≤ y.strip2.start ∧ y.strip2.start + y.strip2.count ≤ h
    · rw [if_pos hc]; rw [List.filter_cons_of_pos (by unfold secondStripFits; rw [decide_eq_true_eq]; exact hc)]; rfl
    · rw [if_neg hc]; rw [List.filter_cons_of_neg (by unfold secondStripFits; rw [decide_eq_true_eq]; exact hc)]; rfl
  unfold keptStrips; simp only [key]

/-- The look mix at a boundary (Table 9-3). -/
theorem stepMix_spec (x : Mix) (p q : Nat) : stepMix x p q = (match x.b with
      | none => if p = x.a then x else if q = 0 then { a := p, b := none, m := 0 } else { a := x.a, b := some p, m := 0 }
      | some b =>
        if p = b then (if 256 ≤ x.m + q then { a := b, b := none, m := 0 } else { x with m := x.m + q })
        else
          if p = (if 128 ≤ x.m then b else x.a) then { a := (if 128 ≤ x.m then b else x.a), b := none, m := 0 } else if q = 0 then { a := p, b := none, m := 0 } else { a := (if 128 ≤ x.m then b else x.a), b := some p, m := 0 }) := by
  unfold stepMix
  cases hb : x.b with
  | none => rfl
  | some b =>
    dsimp only
    by_cases h : p = b
    · rw [if_pos h, if_pos h]
      by_cases h2 : 256 ≤ x.m + q
      · rw [if_pos h2, if_pos (by omega)]
      · rw [if_neg h2, if_neg (by omega), show min 256 (x.m + q) = x.m + q by omega, ← hb]
    · rw [if_neg h, if_neg h]

/-- The COMPLETE slots of a camera with their frame numbers (R134). -/
theorem mem_completeSlots (s : State) (c : Nat) (x : Nat × Nat) :
    x ∈ completeSlots s c ↔ x.1 < s.fiu.slots.length ∧ (frameSlotAt s x.1).state = .complete ∧ (frameSlotAt s x.1).camera = c ∧ (frameSlotAt s x.1).frame = x.2 := by
  unfold completeSlots
  rw [List.mem_filterMap]
  constructor
  · rintro ⟨k, hk, h⟩
    rw [List.mem_range] at hk
    split at h
    · rename_i hc; cases h; exact ⟨hk, hc.1, hc.2, rfl⟩
    · cases h
  · rintro ⟨h1, h2, h3, h4⟩
    exact ⟨x.1, by rw [List.mem_range]; exact h1, by rw [if_pos ⟨h2, h3⟩, h4]⟩

theorem completeSlots_sorted (s : State) (c : Nat) : (completeSlots s c).Pairwise (fun a b => a.1 < b.1) := by
  unfold completeSlots
  rw [List.pairwise_filterMap]
  refine List.pairwise_lt_range.imp ?_
  intro a b hab x hx y hy
  split at hx <;> cases hx
  split at hy <;> cases hy
  exact hab

theorem exactSlot_none (s : State) (c n : Nat) (h : ¬∃ k, (k < s.fiu.slots.length ∧ (frameSlotAt s k).state = .complete ∧ (frameSlotAt s k).camera = c) ∧ (frameSlotAt s k).frame = n) : exactSlot s c n = none := by
  unfold exactSlot
  rw [List.find?_eq_none.2, Option.map_none]
  intro x hx hn
  rw [mem_completeSlots] at hx
  exact h ⟨x.1, ⟨hx.1, hx.2.1, hx.2.2.1⟩, hx.2.2.2.trans (by simpa using hn)⟩

/-- The lowest slot of the frame itself (R134). -/
theorem exactSlot_some (s : State) (c n k : Nat) (h : (k < s.fiu.slots.length ∧ (frameSlotAt s k).state = .complete ∧ (frameSlotAt s k).camera = c)) (hn : (frameSlotAt s k).frame = n)
    (hl : ∀ j, j < k → (j < s.fiu.slots.length ∧ (frameSlotAt s j).state = .complete ∧ (frameSlotAt s j).camera = c) → (frameSlotAt s j).frame ≠ n) : exactSlot s c n = some k := by
  have hm : (k, n) ∈ completeSlots s c := by rw [mem_completeSlots]; exact ⟨h.1, h.2.1, h.2.2, hn⟩
  obtain ⟨a, b, hab⟩ := List.append_of_mem hm
  unfold exactSlot
  have hs := completeSlots_sorted s c
  have hmem := mem_completeSlots s c
  rw [hab] at hs
  rw [hab, List.find?_append, List.find?_eq_none.2, Option.none_or, List.find?_cons_of_pos (a := (k, n)) (by simp)]
  · rfl
  · intro x hx hxn
    have h1 : x.1 < k := (List.pairwise_append.1 hs).2.2 x hx (k, n) (by simp)
    have := (hmem x).1 (by rw [hab]; simp [hx])
    exact hl x.1 h1 ⟨this.1, this.2.1, this.2.2.1⟩ (this.2.2.2.trans (by simpa using hxn))

/-- A COMPLETE slot of a camera. -/
abbrev HoldsFrame (s : State) (c k : Nat) : Prop := k < s.fiu.slots.length ∧ (frameSlotAt s k).state = .complete ∧ (frameSlotAt s k).camera = c

theorem lowerSlot_none (s : State) (c n : Nat) (h : ¬∃ k, HoldsFrame s c k ∧ (frameSlotAt s k).frame < n) :
    lowerSlot s c n = none := by
  unfold lowerSlot
  have : ((completeSlots s c).map (fun x => x.2)).filter (fun f => decide (f < n)) = [] := by
    rw [List.filter_eq_nil_iff]
    intro f hf hfn
    rw [List.mem_map] at hf
    obtain ⟨x, hx, rfl⟩ := hf
    rw [mem_completeSlots] at hx
    exact h ⟨x.1, ⟨hx.1, hx.2.1, hx.2.2.1⟩, by rw [hx.2.2.2]; simpa using hfn⟩
  rw [this]; rfl

/-- The slot of the greatest frame below (R134). -/
theorem lowerSlot_some (s : State) (c n k : Nat) (h : HoldsFrame s c k) (hk : (frameSlotAt s k).frame < n)
    (hg : ∀ j, HoldsFrame s c j → (frameSlotAt s j).frame < n → (frameSlotAt s j).frame ≤ (frameSlotAt s k).frame)
    (hl : ∀ j, j < k → HoldsFrame s c j → (frameSlotAt s j).frame ≠ (frameSlotAt s k).frame) :
    lowerSlot s c n = some k := by
  unfold lowerSlot
  rw [greatestOf_spec _ (frameSlotAt s k).frame]
  · exact exactSlot_some s c _ k h rfl hl
  · intro f hf
    rw [List.mem_filter, List.mem_map, decide_eq_true_eq] at hf
    obtain ⟨⟨x, hx, rfl⟩, hf⟩ := hf
    rw [mem_completeSlots] at hx
    rw [← hx.2.2.2] at hf ⊢
    exact hg x.1 ⟨hx.1, hx.2.1, hx.2.2.1⟩ hf
  · rw [List.mem_filter, List.mem_map, decide_eq_true_eq]
    exact ⟨⟨(k, _), (mem_completeSlots s c (k, _)).2 ⟨h.1, h.2.1, h.2.2, rfl⟩, rfl⟩, hk⟩

theorem mem_viewColumns (r : ServedRead) (j : Nat) : j ∈ viewColumns r ↔ r.column ≤ j ∧ j < r.column + 8 * r.beats ∧ j < r.width := by
  unfold viewColumns
  rw [List.mem_filter, List.mem_map, decide_eq_true_eq]
  constructor
  · rintro ⟨⟨i, hi, rfl⟩, h⟩; rw [List.mem_range] at hi; omega
  · rintro ⟨h1, h2, h3⟩; exact ⟨⟨j - r.column, by rw [List.mem_range]; omega, by omega⟩, h3⟩

/-- The source columns a read needs inside the pinned frame (R137). -/
theorem mem_insideColumns (r : ServedRead) (p : Pin) (c : Nat) :
    c ∈ insideColumns r p ↔ (sourceRow r < p.height ∧ ∃ j, r.column ≤ j ∧ j < r.column + 8 * r.beats ∧ j < r.width ∧ c = sourceColumn r j ∧ c < p.width) := by
  unfold insideColumns
  split
  · rename_i h
    rw [List.mem_filter, List.mem_map, decide_eq_true_eq]
    constructor
    · rintro ⟨⟨i, hi, rfl⟩, hx⟩; rw [mem_viewColumns] at hi; exact ⟨h, i, hi.1, hi.2.1, hi.2.2, rfl, hx⟩
    · rintro ⟨-, i, h1, h2, h3, rfl, h4⟩; exact ⟨⟨i, (mem_viewColumns r i).2 ⟨h1, h2, h3⟩, rfl⟩, h4⟩
  · rename_i h; simp; intro h'; exact absurd h' h

/-- A floored quotient clamped to 0-65535 (R120, R122). -/
theorem clampInt_spec (a q : Int) (ha : 0 < a) (v : Nat) (hv : v = (clampInt 0 65535 (q / a)).toNat) :
   v ≤ 65535 ∧ (q < 0 → v = 0) ∧ (0 ≤ q → q < 65536 * a → a * (v : Int) ≤ q ∧ q < a * ((v : Int) + 1)) ∧ (65536 * a ≤ q → v = 65535) := by
  unfold clampInt at hv
  have hd := Int.mul_ediv_add_emod q a
  have hm := Int.emod_nonneg q ha.ne'
  have hl := Int.emod_lt_of_pos q ha
  refine ⟨by omega, fun h => ?_, fun h h2 => ?_, fun h => ?_⟩
  · have : q / a < 0 := Int.ediv_neg_of_neg_of_pos h ha
    omega
  · have h0 : 0 ≤ q / a := Int.ediv_nonneg h ha.le
    have h1 : q / a < 65536 := Int.ediv_lt_of_lt_mul ha h2
    have : (v : Int) = q / a := by omega
    rw [this]; constructor
    · linarith
    · rw [mul_add, mul_one]; linarith
  · have : 65536 ≤ q / a := Int.le_ediv_of_mul_le ha h
    omega

/-- A curve segment (R121). -/
theorem stageCurve_spec (points : List Nat) (i f p q : Nat) (hp : points[i]? = some p) (hq : points[i + 1]? = some q)
    (hf : f < 2048) :
    let v := stageCurve points (2048 * i + f)
    let n := ((q : Int) - (p : Int)) * (f : Int) + 1024
    min p q ≤ v ∧ v ≤ max p q ∧ 2048 * ((v : Int) - p) ≤ n ∧ n < 2048 * ((v : Int) - p + 1) ∧ (f = 0 → v = p) := by
  intro v n
  have e1 : (2048 * i + f) / 2048 = i := by omega
  have e2 : (2048 * i + f) % 2048 = f := by omega
  have hv : v = ((p : Int) + n / 2048).toNat := by
    show stageCurve _ _ = _
    unfold stageCurve; dsimp only; rw [e1, e2]; simp [List.getD, hp, hq, n]
  have hb : (q ≥ p → 0 ≤ n ∧ n < 2048 * ((q:Int) - p + 1)) ∧ (q < p → 2048 * ((q : Int) - p) ≤ n ∧ n ≤ 1024) := by
    constructor
    · intro h
      have h1 : (0 : Int) ≤ (q : Int) - p := by omega
      have h2 : ((q : Int) - p) * f ≤ ((q : Int) - p) * 2047 := mul_le_mul_of_nonneg_left (by omega) h1
      have h3 : 0 ≤ ((q : Int) - p) * f := mul_nonneg h1 (by omega)
      constructor <;> (show _; simp only [n]; linarith)
    · intro h
      have h1 : (q : Int) - p ≤ 0 := by omega
      have h2 : ((q : Int) - p) * 2047 ≤ ((q : Int) - p) * f := mul_le_mul_of_nonpos_left (by omega) h1
      have h3 : ((q : Int) - p) * f ≤ 0 := mul_nonpos_of_nonpos_of_nonneg h1 (by omega)
      constructor <;> (show _; simp only [n]; linarith)
  have h0 : f = 0 → n = 1024 := by rintro rfl; simp [n]
  clear_value n
  rcases Nat.lt_or_ge q p with h | h
  · have := hb.2 h
    refine ⟨by omega, by omega, by omega, by omega, fun hf0 => by have := h0 hf0; omega⟩
  · have := hb.1 h
    refine ⟨by omega, by omega, by omega, by omega, fun hf0 => by have := h0 hf0; omega⟩

/-- The output stage (R123). -/
theorem stageOutput_spec (v : Nat) (h : v ≤ 65535) : stageOutput v ≤ 1023 ∧ 65535 * stageOutput v ≤ v * 1023 + 32767 ∧ v * 1023 + 32767 < 65535 * (stageOutput v + 1) ∧ (v = 65535 → stageOutput v = 1023) := by
  unfold stageOutput
  refine ⟨by omega, by omega, by omega, by omega⟩

/-- One of the 32-bit words packed into an answer (R137). -/
theorem packedWord_at (f : Nat → Nat) (hf : ∀ k, f k < 2 ^ 32) (n : Nat) :
    ∀ k < n, ((List.range n).foldl (fun acc k => acc + f k * 2 ^ (32 * k)) 0) / 2 ^ (32 * k) % 2 ^ 32 = f k := by
  have hlt : ∀ n, (List.range n).foldl (fun acc k => acc + f k * 2 ^ (32 * k)) 0 < 2 ^ (32 * n) := by
    intro n
    induction n with
    | zero => simp
    | succ n ih =>
      rw [List.range_succ, List.foldl_append, List.foldl_cons, List.foldl_nil]
      have : 2 ^ (32 * (n + 1)) = 2 ^ 32 * 2 ^ (32 * n) := by rw [← pow_add]; congr 1; omega
      have h := hf n
      rw [this]
      have h2 : (f n + 1) * 2 ^ (32 * n) ≤ 2 ^ 32 * 2 ^ (32 * n) := Nat.mul_le_mul_right _ h
      rw [add_mul, one_mul] at h2
      omega
  induction n with
  | zero => intro k hk; omega
  | succ n ih =>
    intro k hk
    rw [List.range_succ, List.foldl_append, List.foldl_cons, List.foldl_nil]
    rcases Nat.lt_or_ge k n with h | h
    · have e : f n * 2 ^ (32 * n) = 2 ^ (32 * k) * (2 ^ 32 * (f n * 2 ^ (32 * (n - k - 1)))) := by
        have : 2 ^ (32 * n) = 2 ^ (32 * k) * (2 ^ 32 * 2 ^ (32 * (n - k - 1))) := by rw [← pow_add, ← pow_add]; congr 1; omega
        rw [this]; ring
      rw [e, Nat.add_mul_div_left _ _ (by positivity), Nat.add_mul_mod_self_left]
      exact ih k h
    · have : k = n := by omega
      subst this
      rw [Nat.add_mul_div_right _ _ (by positivity), Nat.div_eq_of_lt (hlt k), Nat.zero_add, Nat.mod_eq_of_lt (hf k)]

/-- Packed fields with their byte offsets: offset, width, value. -/
def fieldOffsets : Nat → List (Nat × Nat) → List (Nat × Nat × Nat)
  | _, [] => []
  | o, (w, v) :: l => (o, w, v) :: fieldOffsets (o + w) l

/-- Every packed field stands at its offset (Section 12.1). -/
theorem fieldOffsets_hold (l : List (Nat × Nat)) (o N : Nat) (h : N / 256 ^ o = packFields l) :
    ∀ x ∈ fieldOffsets o l, N / 256 ^ x.1 % 256 ^ x.2.1 = x.2.2 % 256 ^ x.2.1 := by
  induction l generalizing o with
  | nil => intro x hx; simp [fieldOffsets] at hx
  | cons f l ih =>
    intro x hx
    obtain ⟨w, v⟩ := f
    simp only [fieldOffsets, List.mem_cons] at hx
    rcases hx with rfl | hx
    · dsimp only; rw [h]; simp only [packFields]; rw [Nat.add_mul_mod_self_left, Nat.mod_mod]
    · refine ih (o + w) ?_ x hx
      rw [pow_add, ← Nat.div_div_eq_div_mul, h]; simp only [packFields]
      rw [Nat.add_mul_div_left _ _ (by positivity), Nat.div_eq_of_lt (Nat.mod_lt _ (by positivity)), Nat.zero_add]

/-- The two beats of a report write hold its record. -/
theorem reportBeats_record (r : ReadyReport) : (reportFirst r).toNat + 2 ^ 256 * (reportSecond r).toNat = reportRecord r % 2 ^ 512 := by
  unfold reportFirst reportSecond
  rw [BitVec.toNat_ofNat, BitVec.toNat_ofNat, Nat.shiftRight_eq_div_pow]
  rw [show (2:ℕ) ^ 512 = 2 ^ 256 * 2 ^ 256 by rw [← pow_add], Nat.mod_mul]

theorem beatField_eq (d : BeatData) (byte bits : Nat) : beatField d byte bits = d.toNat / 2 ^ (8 * byte) % 2 ^ bits := by
  unfold beatField; rw [Nat.shiftRight_eq_div_pow]

/-- Reports created join the reports on their way. -/
theorem Rep.onWay {s u : State} (h : Rep s u) : ∃ l, reportsOnWay u = reportsOnWay s ++ l ∧ ∀ x ∈ l, x.body.isCompletion = false := by
  induction h with
  | refl => exact ⟨[], by simp, by simp⟩
  | @create t b hb _ ih =>
    obtain ⟨l, e, hl⟩ := ih
    by_cases hq : 32 ≤ t.cir.queue.length
    · exact ⟨l, by unfold createReport; rw [if_pos hq, ← e]; rfl, hl⟩
    · refine ⟨l ++ [{ time := t.time, body := b }], by rw [reportsOnWay_createReport b t (by omega), e, List.append_assoc], ?_⟩
      intro x hx; rw [List.mem_append, List.mem_singleton] at hx
      rcases hx with hx | rfl
      · exact hl x hx
      · exact hb
  | other _ hc hb _ _ ih =>
    obtain ⟨l, e, hl⟩ := ih
    exact ⟨l, by unfold reportsOnWay at *; rw [hc, hb]; exact e, hl⟩

theorem Rep.expected {s u : State} (h : Rep s u) : u.cir.expected = s.cir.expected := by
  induction h with
  | refl => rfl
  | create b _ _ ih => simpa using ih
  | other _ hc _ _ _ ih => rw [hc, ih]

theorem setView_setView (s : State) (v : Nat) (x y : View) : setView v y (setView v x s) = setView v y s := by
  unfold setView State.withVe; simp

theorem SameButReports.withBook {X T : State} (h : SameButReports X T) (f : List BookEntry → List BookEntry) :
    SameButReports (X.withTu { X.tu with book := f X.tu.book }) (T.withTu { T.tu with book := f T.tu.book }) := by
  unfold SameButReports at *
  rw [← h]
  rfl

/-- The write data that can be sent when a forwarded write is in front (R5). -/
theorem dataReady_forwarded {s : State} {tag : Nat} {e : BookEntry} (n : Nat) (rest : List DataWrite)
    (h : s.tu.book.find? (fun e => e.tag == tag) = some e) :
    dataReady s ({ write := .forwarded tag, sent := n } :: rest) =
      if e.writeBeats.length < e.req.len.val + 1 then
        (e.writeBeats.drop n, { write := .forwarded tag, sent := e.writeBeats.length } :: rest)
      else (e.writeBeats.drop n ++ (dataReady s rest).1, (dataReady s rest).2) := by
  have hd : dataOf s (.forwarded tag) = (e.writeBeats, beatCount e.req) := by
    unfold dataOf entryOf; dsimp only; rw [h]
  simp only [dataReady, hd]
  rfl

/-- A view set after what was told. -/
theorem told_setView {s t B : State} {l : List ReportBody} (h : Told s t l B) (_hB : B.ve.length = s.ve.length) (v : Nat)
    (Y : View) :
    Told s (setView v Y t) l (setView v Y B) := by
  refine h.after rfl rfl ?_
  have := h.effect.withVe (B.ve.set v Y)
  unfold setView
  rw [h.effect.fields.2.2.2.2.2.2.2.1]
  exact this

theorem told_viewAt {s t B : State} {l : List ReportBody} (h : Told s t l B) (v : Nat) : viewAt t v = viewAt B v := by
  unfold viewAt; rw [h.effect.fields.2.2.2.2.2.2.2.1]

/-- A VIEW report after what was told. -/
theorem told_reportView {s t B : State} {l : List ReportBody} (h : Told s t l B) (ht : B.time = s.time) (v : Nat)
    (k : ViewKind) (d : Nat) :
    Told s (reportView v k d t) (l ++ [.view v k (viewAt B v).frameCount (viewAt B v).pin d]) B := by
  unfold reportView
  rw [told_viewAt h]
  exact (h.trans (told_one (x := t) _ rfl rfl rfl rfl) ht).seen h.effect

end Sys2Proof.Machine
end

