-- ==== Sys2Proof/Laws/Tables.lean ====
section
/-! SUPPORT. The sizes of the tables: what keeps `TableLaw`, operation by operation. -/

namespace Sys2Proof.Machine

theorem TableLaw.same {s t : State} (h : TableLaw s) (k : SameUnits s t) : TableLaw t := by
  obtain ⟨h1, h2, h3, h4, h5, h6, h7, h8, h9, h10, h11, h12, h13, h14⟩ := h
  obtain ⟨k1, k2, k3, k4, k5, k6, k7, k8, k9, k10, k11⟩ := k
  constructor <;> simp only [*]

theorem create_table (b : ReportBody) {u : State} (h : TableLaw u) : TableLaw (createReport b u)
    := h.same (createReport_sameUnits b u)

theorem foldl_table {α : Type} {f : State → α → State} {t : State} {l : List α}
    (hf : ∀ t a, TableLaw t → TableLaw (f t a)) (h : TableLaw t) : TableLaw (l.foldl f t) := by
  induction l generalizing t with
  | nil => exact h
  | cons a l ih => exact ih (hf _ _ h)

theorem setClip_table (i : Nat) (e : Option Clip) {u : State} (hr : TableLaw u) : TableLaw (setClip i e u) := by
  obtain ⟨h1, h2, h3, h4, h5, h6, h7, h8, h9, h10, h11, h12, h13, h14⟩ := hr
  constructor <;> first | assumption | simpa [setClip]

theorem setCardSlot_table (k : Nat) (c : CardSlot) {u : State} (hr : TableLaw u) : TableLaw (setCardSlot k c u) := by
  obtain ⟨h1, h2, h3, h4, h5, h6, h7, h8, h9, h10, h11, h12, h13, h14⟩ := hr
  constructor <;> first | assumption | simpa [setCardSlot]

theorem setStream_table (i : Nat) (e : Option Stream) {u : State} (hr : TableLaw u) : TableLaw (setStream i e u) := by
  obtain ⟨h1, h2, h3, h4, h5, h6, h7, h8, h9, h10, h11, h12, h13, h14⟩ := hr
  constructor <;> first | assumption | simpa [setStream]

theorem setFrameSlot_table (k : Nat) (f : FrameSlot) {u : State} (hr : TableLaw u) : TableLaw (setFrameSlot k f u) := by
  obtain ⟨h1, h2, h3, h4, h5, h6, h7, h8, h9, h10, h11, h12, h13, h14⟩ := hr
  constructor <;> first | assumption | simpa [setFrameSlot]

theorem setCamera_table (c : Nat) (x : Camera) {u : State} (hr : TableLaw u) : TableLaw (setCamera c x u) := by
  obtain ⟨h1, h2, h3, h4, h5, h6, h7, h8, h9, h10, h11, h12, h13, h14⟩ := hr
  constructor <;> first | assumption | simpa [setCamera]

theorem setPair_table (p : Nat) (x : StereoPair) {u : State} (hr : TableLaw u) : TableLaw (setPair p x u) := by
  obtain ⟨h1, h2, h3, h4, h5, h6, h7, h8, h9, h10, h11, h12, h13, h14⟩ := hr
  constructor <;> first | assumption | simpa [setPair]

theorem setLookSlot_table (k : Nat) (x : LookSlot) {u : State} (hr : TableLaw u) : TableLaw (setLookSlot k x u) := by
  obtain ⟨h1, h2, h3, h4, h5, h6, h7, h8, h9, h10, h11, h12, h13, h14⟩ := hr
  constructor <;> first | assumption | simpa [setLookSlot]

theorem setView_table (v : Nat) (x : View) {u : State} (hr : TableLaw u) : TableLaw (setView v x u) := by
  obtain ⟨h1, h2, h3, h4, h5, h6, h7, h8, h9, h10, h11, h12, h13, h14⟩ := hr
  constructor <;> first | assumption | simpa [setView]

theorem setMotion_table (v : Nat) (x : Motion) {u : State} (hr : TableLaw u) : TableLaw (setMotion v x u) := by
  obtain ⟨h1, h2, h3, h4, h5, h6, h7, h8, h9, h10, h11, h12, h13, h14⟩ := hr
  constructor <;> first | assumption | simpa [setMotion]

theorem setKey_table (k : Nat) (x : Key) {u : State} (hr : TableLaw u) : TableLaw (setKey k x u) := by
  obtain ⟨h1, h2, h3, h4, h5, h6, h7, h8, h9, h10, h11, h12, h13, h14⟩ := hr
  constructor <;> first | assumption | simpa [setKey]

theorem advanceSequence_table  {u : State} (hr : TableLaw u) : TableLaw (advanceSequence u) := by
  obtain ⟨h1, h2, h3, h4, h5, h6, h7, h8, h9, h10, h11, h12, h13, h14⟩ := hr
  constructor <;> assumption

theorem chooseOrder_table {α : Type} (l : List α) {u : State} (hr : TableLaw u) : TableLaw (chooseOrder l u).2 := by
  exact hr.same (chooseOrder_sameUnits _ u)

theorem changeLamp_table (k : Nat) (new : Lamp) {u : State} (hr : TableLaw u) : TableLaw (changeLamp k new u) := by
  unfold changeLamp
  try dsimp only [refuse]
  all_goals apply_rules [hr, setCardSlot_table, create_table _]

theorem computeLamp_table (k : Nat) {u : State} (hr : TableLaw u) : TableLaw (computeLamp k u) := by
  unfold computeLamp
  try dsimp only [refuse]
  repeat' split
  all_goals apply_rules [hr, changeLamp_table]

theorem computeClipLamp_table (i : Nat) {u : State} (hr : TableLaw u) : TableLaw (computeClipLamp i u) := by
  unfold computeClipLamp
  try dsimp only [refuse]
  repeat' split
  all_goals apply_rules [hr, computeLamp_table]

theorem computeLamps_table (ks : List Nat) {u : State} (hr : TableLaw u) : TableLaw (computeLamps ks u) := by
  unfold computeLamps
  try dsimp only [refuse]
  all_goals apply_rules [hr, computeLamp_table, foldl_table]
  all_goals (intro _ _ hq; apply_rules [hq, computeLamp_table, foldl_table])

theorem takeFaultId_table  {u : State} (hr : TableLaw u) : TableLaw (takeFaultId u) := by
  obtain ⟨h1, h2, h3, h4, h5, h6, h7, h8, h9, h10, h11, h12, h13, h14⟩ := hr
  constructor <;> assumption

theorem countFault_table (f : Finding) {u : State} (hr : TableLaw u) : TableLaw (countFault f u) := by
  unfold countFault
  try dsimp only [refuse]
  repeat' split
  all_goals apply_rules [hr, setClip_table]

theorem storeFault_table (r : FaultRecord) {u : State} (hr : TableLaw u) : TableLaw (storeFault r u) := by
  obtain ⟨h1, h2, h3, h4, h5, h6, h7, h8, h9, h10, h11, h12, h13, h14⟩ := hr
  constructor <;> try assumption
  show (listFault r u.fl).1.records.length ≤ 256
  unfold listFault
  split
  · simp; omega
  · split
    · rename_i i hi
      have := (List.findIdx?_eq_some_iff_getElem.1 hi).1
      simp [List.length_eraseIdx, this]; omega
    · exact h9

theorem reportFault_table (f : Finding) {u : State} (hr : TableLaw u) : TableLaw (reportFault f u) := by
  unfold reportFault
  try dsimp only [refuse]
  all_goals apply_rules [hr, takeFaultId_table, countFault_table, storeFault_table, create_table _]

theorem raiseFault_table (b : Bool) (f : Finding) {u : State} (hr : TableLaw u) : TableLaw (raiseFault b f u) := by
  unfold raiseFault
  try dsimp only [refuse]
  repeat' split
  all_goals apply_rules [hr, computeClipLamp_table, reportFault_table]

theorem subtractCrit_table (c : Option Nat) {u : State} (hr : TableLaw u) : TableLaw (subtractCrit c u) := by
  unfold subtractCrit
  try dsimp only [refuse]
  repeat' split
  all_goals apply_rules [hr, setClip_table]

theorem ackRecords_table (p : FaultRecord → Bool) {u : State} (hr : TableLaw u) : TableLaw (ackRecords p u) := by
  obtain ⟨h1, h2, h3, h4, h5, h6, h7, h8, h9, h10, h11, h12, h13, h14⟩ := hr
  constructor <;> first | assumption | simpa [ackRecords]

theorem faultAckAct_table (id : Nat) {u : State} (hr : TableLaw u) : TableLaw (faultAckAct id u).1 := by
  unfold faultAckAct
  try dsimp only [refuse]
  repeat' split
  all_goals apply_rules [hr, computeClipLamp_table, subtractCrit_table, ackRecords_table]

theorem clipFaultsAckAct_table (c : Nat) {u : State} (hr : TableLaw u) : TableLaw (clipFaultsAckAct c u).1 := by
  unfold clipFaultsAckAct
  try dsimp only [refuse]
  repeat' split
  all_goals apply_rules [hr, setClip_table, computeClipLamp_table, ackRecords_table]

theorem ackFrame_table (c n : Nat) {u : State} (hr : TableLaw u) : TableLaw (ackFrame c n u).1 := by
  unfold ackFrame
  try dsimp only [refuse]
  all_goals apply_rules [hr, computeLamps_table, subtractCrit_table, ackRecords_table, foldl_table]
  all_goals (intro _ _ hq; apply_rules [hq, computeLamps_table, subtractCrit_table, ackRecords_table, foldl_table])

theorem markRetired_table (c : Nat) {u : State} (hr : TableLaw u) : TableLaw (markRetired c u) := by
  obtain ⟨h1, h2, h3, h4, h5, h6, h7, h8, h9, h10, h11, h12, h13, h14⟩ := hr
  constructor <;> first | assumption | simpa [markRetired]

theorem reportClip_table (i : Nat) (o : Option ClipState) (c : ClipCause) {u : State} (hr : TableLaw u) :
    TableLaw (reportClip i o c u) := by
  unfold reportClip
  try dsimp only [refuse]
  repeat' split
  all_goals apply_rules [hr, create_table _]

theorem countFrame_table (c : Option Nat) (l : Nat) {u : State} (hr : TableLaw u) : TableLaw (countFrame c l u) := by
  unfold countFrame
  try dsimp only [refuse]
  repeat' split
  all_goals apply_rules [hr, setClip_table]

theorem sourceOpened_table (i : Nat) {u : State} (hr : TableLaw u) : TableLaw (sourceOpened i u) := by
  unfold sourceOpened
  try dsimp only [refuse]
  repeat' split
  all_goals apply_rules [hr, setClip_table, computeClipLamp_table, reportClip_table]

theorem destOpened_table (i d : Nat) {u : State} (hr : TableLaw u) : TableLaw (destOpened i d u) := by
  unfold destOpened
  try dsimp only [refuse]
  repeat' split
  all_goals apply_rules [hr, setClip_table, reportClip_table]

theorem raiseMismatches_table (i : Nat) (ds : List Nat) {u : State} (hr : TableLaw u) : TableLaw (raiseMismatches i ds u)
    := by
  unfold raiseMismatches
  try dsimp only [refuse]
  all_goals apply_rules [hr, raiseFault_table, foldl_table]
  all_goals (intro _ _ hq; apply_rules [hq, raiseFault_table, foldl_table])

theorem verifyIfEnough_table (i : Nat) {u : State} (hr : TableLaw u) : TableLaw (verifyIfEnough i u) := by
  unfold verifyIfEnough
  try dsimp only [refuse]
  repeat' split
  all_goals apply_rules [hr, setClip_table, reportClip_table]

theorem sourceGood_table (i : Nat) (fp : Fingerprint) {u : State} (hr : TableLaw u) : TableLaw (sourceGood i fp u) := by
  unfold sourceGood
  try dsimp only [refuse]
  repeat' split
  all_goals apply_rules [hr, setClip_table, computeClipLamp_table, reportClip_table, raiseMismatches_table, verifyIfEnough_table]

theorem sourceFailed_table (i k : Nat) (p : Option Nat) {u : State} (hr : TableLaw u) : TableLaw (sourceFailed i k p u)
    := by
  unfold sourceFailed
  try dsimp only [refuse]
  repeat' split
  · exact hr
  · refine computeClipLamp_table _ (raiseFault_table _ _ (reportClip_table _ _ _ (setClip_table _ _ hr)))
  · refine raiseFault_table _ _ (raiseFault_table _ _ (reportClip_table _ _ _ (setClip_table _ _ hr)))

theorem compareDest_table (i : Nat) (c : Clip) (d : Nat) (fp : Fingerprint) {u : State} (hr : TableLaw u) :
    TableLaw (compareDest i c d fp u) := by
  unfold compareDest
  try dsimp only [refuse]
  repeat' split
  all_goals apply_rules [hr, setClip_table, computeClipLamp_table, raiseFault_table, reportClip_table]

theorem destGood_table (i d : Nat) (fp : Fingerprint) {u : State} (hr : TableLaw u) : TableLaw (destGood i d fp u) := by
  unfold destGood
  try dsimp only [refuse]
  repeat' split
  all_goals apply_rules [hr, setClip_table, reportClip_table, compareDest_table]

theorem destFailed_table (i d : Nat) {u : State} (hr : TableLaw u) : TableLaw (destFailed i d u) := by
  unfold destFailed
  try dsimp only [refuse]
  repeat' split
  all_goals apply_rules [hr, setClip_table, reportClip_table]

theorem clipOpenAct_table (label slot camera required : Nat) {u : State} (hr : TableLaw u) :
    TableLaw (clipOpenAct label slot camera required u).1 := by
  unfold clipOpenAct
  try dsimp only [refuse]
  repeat' split
  all_goals apply_rules [hr, setClip_table, computeLamp_table, reportClip_table]

theorem forgetClip_table (i : Nat) {u : State} (hr : TableLaw u) : TableLaw (forgetClip i u) := by
  obtain ⟨h1, h2, h3, h4, h5, h6, h7, h8, h9, h10, h11, h12, h13, h14⟩ := hr
  constructor <;> assumption

theorem retireClip_table (i : Nat) (c : Clip) {u : State} (hr : TableLaw u) : TableLaw (retireClip i c u) := by
  unfold retireClip
  try dsimp only [refuse]
  all_goals apply_rules [hr, setClip_table, computeLamp_table, markRetired_table, forgetClip_table, create_table _]

theorem clipRetireAct_table (i : Nat) {u : State} (hr : TableLaw u) : TableLaw (clipRetireAct i u).1 := by
  unfold clipRetireAct
  try dsimp only [refuse]
  repeat' split
  all_goals apply_rules [hr, retireClip_table]

theorem handToClip_table (id : Nat) (e : Stream) (o : StreamOutcome) (p : Option Nat) {u : State} (hr : TableLaw u) :
    TableLaw (handToClip id e o p u) := by
  unfold handToClip
  try dsimp only [refuse]
  repeat' split
  all_goals apply_rules [hr, sourceGood_table, sourceFailed_table, destGood_table, destFailed_table]

theorem keepNote_table (id : Nat) (e : Stream) (o : StreamOutcome) {u : State} (hr : TableLaw u) :
    TableLaw (keepNote id e o u) := by
  unfold keepNote
  obtain ⟨h1, h2, h3, h4, h5, h6, h7, h8, h9, h10, h11, h12, h13, h14⟩ := hr
  split <;> constructor <;> assumption

theorem endStream_table (id : Nat) (o : StreamOutcome) (a p : Option Nat) {u : State} (hr : TableLaw u) :
    TableLaw (endStream id o a p u) := by
  unfold endStream
  try dsimp only [refuse]
  repeat' split
  all_goals apply_rules [hr, setStream_table, handToClip_table, keepNote_table, create_table _]

theorem streamBeat_table (id a : Nat) (d : BeatData) (st : Strobes) (m : List Mark) {u : State} (hr : TableLaw u) :
    TableLaw (streamBeat id a d st m u).1 := by
  unfold streamBeat
  try dsimp only [refuse]
  repeat' split
  all_goals apply_rules [hr, setStream_table, endStream_table]

theorem untappedStreams_table (r : Request) {u : State} (hr : TableLaw u) : TableLaw (untappedStreams r u) := by
  unfold untappedStreams
  try dsimp only [refuse]
  all_goals apply_rules [hr, chooseOrder_table, endStream_table, foldl_table]
  all_goals (intro _ _ hq; apply_rules [hq, chooseOrder_table, endStream_table, foldl_table])

theorem noteResponse_table (n : Nat) (ok : Bool) {u : State} (hr : TableLaw u) : TableLaw (noteResponse n ok u) := by
  unfold noteResponse
  split
  · exact hr
  · dsimp only
    have h : ∀ x, TableLaw (u.withSu { u.su with closing := x }) := by
      intro x
      obtain ⟨h1, h2, h3, h4, h5, h6, h7, h8, h9, h10, h11, h12, h13, h14⟩ := hr
      constructor <;> assumption
    split <;> apply_rules [h, raiseFault_table]

theorem streamResponse_table (n : Nat) (ok : Bool) {u : State} (hr : TableLaw u) : TableLaw (streamResponse n ok u) := by
  unfold streamResponse
  try dsimp only [refuse]
  repeat' split
  all_goals apply_rules [hr, setStream_table, endStream_table, noteResponse_table]

theorem openStream_table (id : Nat) (e : Stream) {u : State} (hr : TableLaw u) : TableLaw (openStream id e u) := by
  unfold openStream
  dsimp only
  have h : TableLaw ((setStream id (some e) u).withSu { (setStream id (some e) u).su with openSerial := wrap32 (setStream id (some e) u).su.openSerial 1 }) := by
    obtain ⟨h1, h2, h3, h4, h5, h6, h7, h8, h9, h10, h11, h12, h13, h14⟩ := setStream_table id (some e) hr
    constructor <;> assumption
  split <;> apply_rules [h, sourceOpened_table, destOpened_table]

theorem streamOpenAct_table (c r d b l x : Nat) {u : State} (hr : TableLaw u) :
    TableLaw (streamOpenAct c r d b l x u).1 := by
  unfold streamOpenAct
  try dsimp only [refuse]
  repeat' split
  all_goals apply_rules [hr, openStream_table]

theorem streamCloseAct_table (i n : Nat) {u : State} (hr : TableLaw u) : TableLaw (streamCloseAct i n u).1 := by
  unfold streamCloseAct
  try dsimp only [refuse]
  repeat' split
  all_goals apply_rules [hr, endStream_table]

theorem streamAbortAct_table (i : Nat) {u : State} (hr : TableLaw u) : TableLaw (streamAbortAct i u).1 := by
  unfold streamAbortAct
  try dsimp only [refuse]
  repeat' split
  all_goals apply_rules [hr, endStream_table]

theorem cardDetChange_table (k : Nat) (b : Bool) {u : State} (hr : TableLaw u) : TableLaw (cardDetChange k b u) := by
  obtain ⟨h1, h2, h3, h4, h5, h6, h7, h8, h9, h10, h11, h12, h13, h14⟩ := hr
  constructor <;> first | assumption | simpa [cardDetChange, setCardSlot]

theorem cardInsertion_table (k : Nat) {u : State} (hr : TableLaw u) : TableLaw (cardInsertion k u) := by
  unfold cardInsertion
  try dsimp only [refuse]
  repeat' split
  all_goals apply_rules [hr, setCardSlot_table, computeLamp_table]

theorem pullSources_table (k : Nat) {u : State} (hr : TableLaw u) : TableLaw (pullSources k u) := by
  unfold pullSources
  try dsimp only [refuse]
  all_goals apply_rules [hr, endStream_table, foldl_table]
  all_goals (intro _ _ hq; apply_rules [hq, endStream_table, foldl_table])

theorem cardRemoval_table (k : Nat) {u : State} (hr : TableLaw u) : TableLaw (cardRemoval k u) := by
  unfold cardRemoval
  try dsimp only [refuse]
  repeat' split
  all_goals apply_rules [hr, setCardSlot_table, computeLamp_table, pullSources_table]

theorem timeBaseTick_table  {u : State} (hr : TableLaw u) : TableLaw (timeBaseTick u) := by
  obtain ⟨h1, h2, h3, h4, h5, h6, h7, h8, h9, h10, h11, h12, h13, h14⟩ := hr
  constructor <;> assumption

theorem raiseFrame_table (k : FaultKind) (f : FrameSlot) (d : Nat) {u : State} (hr : TableLaw u) :
    TableLaw (raiseFrame k f d u) := by
  unfold raiseFrame
  try dsimp only [refuse]
  all_goals apply_rules [hr, raiseFault_table]

theorem checkInvalid_table (f : FrameSlot) (b : Nat) {u : State} (hr : TableLaw u) : TableLaw (checkInvalid f b u) := by
  unfold checkInvalid
  try dsimp only [refuse]
  repeat' split
  all_goals apply_rules [hr, raiseFrame_table]

theorem checkNumber_table (f : FrameSlot) (l : Nat) {u : State} (hr : TableLaw u) : TableLaw (checkNumber f l u) := by
  unfold checkNumber
  try dsimp only [refuse]
  repeat' split
  all_goals apply_rules [hr, raiseFrame_table]

theorem checkTimecode_table (f : FrameSlot) (b l c : Nat) {u : State} (hr : TableLaw u) :
    TableLaw (checkTimecode f b l c u) := by
  unfold checkTimecode
  try dsimp only [refuse]
  repeat' split
  all_goals apply_rules [hr, raiseFrame_table]

theorem checkFrozen_table (f : FrameSlot) (l g : Nat) {u : State} (hr : TableLaw u) : TableLaw (checkFrozen f l g u) := by
  unfold checkFrozen
  try dsimp only [refuse]
  repeat' split
  all_goals apply_rules [hr, raiseFrame_table]

theorem checkHistory_table (f : FrameSlot) (c : Camera) {u : State} (hr : TableLaw u) : TableLaw (checkHistory f c u) := by
  unfold checkHistory
  try dsimp only [refuse]
  repeat' split
  all_goals apply_rules [hr, checkNumber_table, checkTimecode_table, checkFrozen_table]

theorem checkExposure_table (f : FrameSlot) (q : Nat) {u : State} (hr : TableLaw u) : TableLaw (checkExposure f q u) := by
  unfold checkExposure
  try dsimp only [refuse]
  repeat' split
  all_goals apply_rules [hr, setCamera_table, raiseFrame_table]

theorem trackCandidates_table (f : FrameSlot) {u : State} (hr : TableLaw u) : TableLaw (trackCandidates f u) := by
  have hc : ∀ (l : List (Nat × Nat)) (a : List TrackerEntry × Bool), a.1.length ≤ 32 → (l.foldl (trackCandidate f.camera) a).1.length ≤ 32 := by
    intro l
    induction l with
    | nil => intro a h; exact h
    | cons p l ih =>
      intro a h
      apply ih
      unfold trackCandidate
      split
      · simpa using h
      · split
        · simp; omega
        · exact h
  have h8 := hr.tracker
  have key : (if f.candidatesOver then (f.candidates.foldl (trackCandidate f.camera) (u.ctu.tracker, false)).1
      else (f.candidates.foldl (trackCandidate f.camera) (u.ctu.tracker, false)).1.filterMap (missEntry f.camera f.candidates)).length ≤ 32 := by
    split
    · exact hc _ _ h8
    · exact Nat.le_trans (List.length_filterMap_le _ _) (hc _ _ h8)
  unfold trackCandidates
  dsimp only
  have h : TableLaw (u.withCtu { u.ctu with tracker := (if f.candidatesOver then (f.candidates.foldl (trackCandidate f.camera) (u.ctu.tracker, false)).1
      else (f.candidates.foldl (trackCandidate f.camera) (u.ctu.tracker, false)).1.filterMap (missEntry f.camera f.candidates)) }) := by
    obtain ⟨h1, h2, h3, h4, h5, h6, h7, h8, h9, h10, h11, h12, h13, h14⟩ := hr
    constructor <;> first | assumption
  split
  · exact setCamera_table _ _ h
  · exact h

theorem checkStuck_table (f : FrameSlot) (p : Nat × Nat) {u : State} (hr : TableLaw u) : TableLaw (checkStuck f p u) := by
  obtain ⟨h1, h2, h3, h4, h5, h6, h7, h8, h9, h10, h11, h12, h13, h14⟩ := hr
  have hr : TableLaw u := ⟨h1, h2, h3, h4, h5, h6, h7, h8, h9, h10, h11, h12, h13, h14⟩
  unfold checkStuck
  split
  · exact hr
  · split
    · apply raiseFault_table
      constructor <;> first | assumption | (simp; assumption)
    · exact hr

theorem trackerSteps_table (f : FrameSlot) {u : State} (hr : TableLaw u) : TableLaw (trackerSteps f u) := by
  unfold trackerSteps
  try dsimp only [refuse]
  all_goals apply_rules [hr, trackCandidates_table, checkStuck_table, foldl_table]
  all_goals (intro _ _ hq; apply_rules [hq, trackCandidates_table, checkStuck_table, foldl_table])

theorem raiseUnpaired_table (k : Nat) (p : StereoPair) (h : HeldRecord) {u : State} (hr : TableLaw u) :
    TableLaw (raiseUnpaired k p h u) := by
  unfold raiseUnpaired
  try dsimp only [refuse]
  all_goals apply_rules [hr, raiseFault_table]

theorem setQueue_table (k : Nat) (q : List HeldRecord) {u : State} (hr : TableLaw u) : TableLaw (setQueue k q u) := by
  obtain ⟨h1, h2, h3, h4, h5, h6, h7, h8, h9, h10, h11, h12, h13, h14⟩ := hr
  constructor <;> first | assumption | simpa [setQueue, setPair]

theorem holdFrame_table (k : Nat) (p : StereoPair) (h : HeldRecord) {u : State} (hr : TableLaw u) :
    TableLaw (holdFrame k p h u) := by
  unfold holdFrame
  try dsimp only [refuse]
  repeat' split
  all_goals apply_rules [hr, raiseUnpaired_table, setQueue_table]

theorem checkExposurePair_table (f : FrameSlot) (p : StereoPair) (h : HeldRecord) (m : Nat) {u : State} (hr : TableLaw u)
    : TableLaw (checkExposurePair f p h m u) := by
  unfold checkExposurePair
  try dsimp only [refuse]
  repeat' split
  all_goals apply_rules [hr, raiseFrame_table]

theorem pairFrame_table (k : Nat) (p : StereoPair) (f : FrameSlot) (h : HeldRecord) (l : Nat) {u : State}
    (hr : TableLaw u) : TableLaw (pairFrame k p f h l u) := by
  unfold pairFrame
  try dsimp only [refuse]
  repeat' split
  all_goals apply_rules [hr, raiseUnpaired_table, setQueue_table, checkExposurePair_table, foldl_table]
  all_goals (intro _ _ hq; apply_rules [hq, raiseUnpaired_table, setQueue_table, checkExposurePair_table, foldl_table])

theorem stereoStep_table (f : FrameSlot) (c : Camera) (m : Nat) {u : State} (hr : TableLaw u) :
    TableLaw (stereoStep f c m u) := by
  unfold stereoStep
  try dsimp only [refuse]
  repeat' split
  all_goals apply_rules [hr, holdFrame_table, pairFrame_table]

theorem rememberFrame_table (f : FrameSlot) (b : Nat) {u : State} (hr : TableLaw u) : TableLaw (rememberFrame f b u) := by
  obtain ⟨h1, h2, h3, h4, h5, h6, h7, h8, h9, h10, h11, h12, h13, h14⟩ := hr
  constructor <;> first | assumption | simpa [rememberFrame, setCamera]

theorem trackFrame_table (f : FrameSlot) (q m : Nat) {u : State} (hr : TableLaw u) : TableLaw (trackFrame f q m u) := by
  unfold trackFrame
  try dsimp only [refuse]
  all_goals apply_rules [hr, checkInvalid_table, checkHistory_table, checkExposure_table, trackerSteps_table, stereoStep_table, rememberFrame_table]

theorem cameraSetAct_table (a b c d e f g : Nat) (h : Bool) {u : State} (hr : TableLaw u) :
    TableLaw (cameraSetAct a b c d e f g h u).1 := by
  unfold cameraSetAct
  try dsimp only [refuse]
  repeat' split
  all_goals apply_rules [hr, setCamera_table]

theorem pairSetAct_table (a b c d : Nat) {u : State} (hr : TableLaw u) : TableLaw (pairSetAct a b c d u).1 := by
  unfold pairSetAct
  try dsimp only [refuse]
  repeat' split
  all_goals apply_rules [hr, setPair_table]

theorem zonesSetAct_table (z : List Zone) (hz6 : z.length = 6) {u : State} (hr : TableLaw u) :
    TableLaw (zonesSetAct z u).1 := by
  unfold zonesSetAct
  dsimp only [refuse]
  split
  · rename_i hz
    obtain ⟨h1, h2, h3, h4, h5, h6, h7, h8, h9, h10, h11, h12, h13, h14⟩ := hr
    constructor <;> first | assumption
  · exact hr

theorem trackerClearAct_table  {u : State} (hr : TableLaw u) : TableLaw (trackerClearAct u).1 := by
  obtain ⟨h1, h2, h3, h4, h5, h6, h7, h8, h9, h10, h11, h12, h13, h14⟩ := hr
  constructor <;> first | assumption | simp [trackerClearAct]

theorem startLoad_table (k a n : Nat) {u : State} (hr : TableLaw u) : TableLaw (startLoad k a n u) := by
  obtain ⟨h1, h2, h3, h4, h5, h6, h7, h8, h9, h10, h11, h12, h13, h14⟩ := hr
  constructor <;> first | assumption | simpa [startLoad, setLookSlot]

theorem endLoad_table (k : Nat) (x : LookSlot) {u : State} (hr : TableLaw u) : TableLaw (endLoad k x u) := by
  unfold endLoad
  try dsimp only [refuse]
  repeat' split
  all_goals apply_rules [hr, setLookSlot_table, create_table _]

theorem stageBeat_table (k : Nat) (d : BeatData) (r : Resp) {u : State} (hr : TableLaw u) : TableLaw (stageBeat k d r u)
    := by
  unfold stageBeat
  try dsimp only [refuse]
  repeat' split
  all_goals apply_rules [hr, setLookSlot_table, endLoad_table]

theorem shuttleProfileAct_table (v : Nat) (p : Profile) {u : State} (hr : TableLaw u) :
    TableLaw (shuttleProfileAct v p u).1 := by
  unfold shuttleProfileAct
  try dsimp only [refuse]
  repeat' split
  all_goals apply_rules [hr, setMotion_table]

theorem shuttleGoAct_table (v n : Nat) (d : Option Direction) {u : State} (hr : TableLaw u) :
    TableLaw (shuttleGoAct v n d u).1 := by
  unfold shuttleGoAct
  try dsimp only [refuse]
  repeat' split
  all_goals apply_rules [hr, setMotion_table]

theorem motionAct_table (f : Motion → Motion × Nat) (v : Nat) {u : State} (hr : TableLaw u) :
    TableLaw (motionAct f v u).1 := by
  unfold motionAct
  try dsimp only [refuse]
  repeat' split
  all_goals apply_rules [hr, setMotion_table]

theorem viewWindowSetAct_table (v b w h : Nat) {u : State} (hr : TableLaw u) : TableLaw (viewWindowSetAct v b w h u).1 := by
  unfold viewWindowSetAct
  try dsimp only [refuse]
  repeat' split
  all_goals apply_rules [hr, setView_table]

theorem setPending_table (v : Nat) (x : Settings) {u : State} (hr : TableLaw u) : TableLaw (setPending v x u) := by
  obtain ⟨h1, h2, h3, h4, h5, h6, h7, h8, h9, h10, h11, h12, h13, h14⟩ := hr
  constructor <;> first | assumption | simpa [setPending, setView]

theorem viewOnAct_table (v : Nat) {u : State} (hr : TableLaw u) : TableLaw (viewOnAct v u).1 := by
  unfold viewOnAct
  try dsimp only [refuse]
  repeat' split
  all_goals apply_rules [hr, setPending_table]

theorem viewOffAct_table (v : Nat) {u : State} (hr : TableLaw u) : TableLaw (viewOffAct v u).1 := by
  unfold viewOffAct
  try dsimp only [refuse]
  repeat' split
  all_goals apply_rules [hr, setPending_table]

theorem zonesSwitchAct_table (x : Bool) (v : Nat) {u : State} (hr : TableLaw u) : TableLaw (zonesSwitchAct x v u).1 := by
  unfold zonesSwitchAct
  try dsimp only [refuse]
  repeat' split
  all_goals apply_rules [hr, setPending_table]

theorem viewSourceAct_table (v c : Nat) {u : State} (hr : TableLaw u) : TableLaw (viewSourceAct v c u).1 := by
  unfold viewSourceAct
  try dsimp only [refuse]
  repeat' split
  all_goals apply_rules [hr, setPending_table]

theorem viewGeometryAct_table (v a b d : Nat) (h g : Bool) {u : State} (hr : TableLaw u) :
    TableLaw (viewGeometryAct v a b d h g u).1 := by
  unfold viewGeometryAct
  try dsimp only [refuse]
  repeat' split
  all_goals apply_rules [hr, setPending_table]

theorem lookSelectAct_table (v k r : Nat) {u : State} (hr : TableLaw u) : TableLaw (lookSelectAct v k r u).1 := by
  unfold lookSelectAct
  try dsimp only [refuse]
  repeat' split
  all_goals apply_rules [hr, setPending_table]

theorem bandsSetAct_table (v : Nat) (b : Option (List Band)) (m : Nat) {u : State} (hr : TableLaw u) :
    TableLaw (bandsSetAct v b m u).1 := by
  unfold bandsSetAct
  try dsimp only [refuse]
  repeat' split
  all_goals apply_rules [hr, setView_table]

theorem overlaySetAct_table (v a b : Nat) (x y : Strip) {u : State} (hr : TableLaw u) :
    TableLaw (overlaySetAct v a b x y u).1 := by
  unfold overlaySetAct
  try dsimp only [refuse]
  repeat' split
  all_goals apply_rules [hr, setView_table]

theorem clipMarkSetAct_table (v : Nat) (b : Bool) (c : Rgb Nat) {u : State} (hr : TableLaw u) :
    TableLaw (clipMarkSetAct v b c u).1 := by
  unfold clipMarkSetAct
  try dsimp only [refuse]
  repeat' split
  all_goals apply_rules [hr, setPending_table]

theorem reportView_table (v : Nat) (k : ViewKind) (d : Nat) {u : State} (hr : TableLaw u) : TableLaw (reportView v k d u)
    := by
  unfold reportView
  try dsimp only [refuse]
  all_goals apply_rules [hr, create_table _]

theorem validateBands_table (v h : Nat) {u : State} (hr : TableLaw u) : TableLaw (validateBands v h u) := by
  unfold validateBands
  try dsimp only [refuse]
  repeat' split
  all_goals apply_rules [hr, setView_table, reportView_table]

theorem validateStrips_table (v h : Nat) {u : State} (hr : TableLaw u) : TableLaw (validateStrips v h u) := by
  unfold validateStrips
  try dsimp only [refuse]
  repeat' split
  all_goals apply_rules [hr, setView_table, reportView_table]

theorem beginFrame_table (v h : Nat) {u : State} (hr : TableLaw u) : TableLaw (beginFrame v h u) := by
  unfold beginFrame
  try dsimp only [refuse]
  all_goals apply_rules [hr, setView_table, validateBands_table, validateStrips_table]

theorem mixStep_table (v : Nat) {u : State} (hr : TableLaw u) : TableLaw (mixStep v u) := by
  unfold mixStep
  try dsimp only [refuse]
  repeat' split
  all_goals apply_rules [hr, setView_table]

theorem shuttleStep_table (v : Nat) {u : State} (hr : TableLaw u) : TableLaw (shuttleStep v u) := by
  unfold shuttleStep
  try dsimp only [refuse]
  repeat' split
  all_goals apply_rules [hr, setMotion_table, reportView_table]

theorem pinStep_table (v h : Nat) {u : State} (hr : TableLaw u) : TableLaw (pinStep v h u) := by
  obtain ⟨h1, h2, h3, h4, h5, h6, h7, h8, h9, h10, h11, h12, h13, h14⟩ := hr
  constructor <;> first | assumption | simpa [pinStep, setView]

theorem takeBoundary_table (v h : Nat) {u : State} (hr : TableLaw u) : TableLaw (takeBoundary v h u) := by
  exact pinStep_table v h (shuttleStep_table v (mixStep_table v (beginFrame_table v h hr)))

theorem setAnswer_table (t : Nat) (a : UpAnswer) {u : State} (hr : TableLaw u) : TableLaw (setAnswer t a u) := by
  obtain ⟨h1, h2, h3, h4, h5, h6, h7, h8, h9, h10, h11, h12, h13, h14⟩ := hr
  constructor <;> assumption

theorem serveRead_table (v : Nat) (r : ServedRead) {u : State} (hr : TableLaw u) : TableLaw (serveRead v r u) := by
  unfold serveRead
  dsimp only
  split
  · exact setAnswer_table _ _ hr
  · exact (setView_table v _ hr).same (by constructor <;> rfl)

theorem viewRead_table (v t r c b : Nat) (w : ViewWindow) {u : State} (hr : TableLaw u) :
    TableLaw (viewRead v t r c b w u) := by
  unfold viewRead
  dsimp only
  apply serveRead_table
  apply setView_table
  split
  · exact takeBoundary_table _ _ hr
  · exact hr

theorem fetchFault_table (v : Nat) (r : ServedRead) {u : State} (hr : TableLaw u) : TableLaw (fetchFault v r u) := by
  unfold fetchFault
  try dsimp only [refuse]
  repeat' split
  all_goals apply_rules [hr, setView_table, create_table _]

theorem returnBeats_table (v i : Nat) (b : List ReadBeat) (r : ServedRead) {u : State} (hr : TableLaw u) :
    TableLaw (returnBeats v i b r u) := by
  unfold returnBeats
  dsimp only
  have key : TableLaw (if fetchFailed r = false ∧ fetchFailed { r with reads := r.reads.modify i (appendBeats b) } = true
      then fetchFault v r u else u) := by
    split
    · exact fetchFault_table _ _ hr
    · exact hr
  split
  · exact setAnswer_table _ _ (setView_table _ _ key)
  · exact setView_table _ _ key

theorem viewFetchReturn_table (t i : Nat) (b : List ReadBeat) {u : State} (hr : TableLaw u) :
    TableLaw (viewFetchReturn t i b u) := by
  unfold viewFetchReturn
  try dsimp only [refuse]
  repeat' split
  all_goals apply_rules [hr, returnBeats_table]

theorem noticeView_table (k v : Nat) {u : State} (hr : TableLaw u) : TableLaw (noticeView k v u) := by
  unfold noticeView
  try dsimp only [refuse]
  repeat' split
  all_goals apply_rules [hr, setView_table, create_table _]

theorem noticeViews_table (k : Nat) {u : State} (hr : TableLaw u) : TableLaw (noticeViews k u) := by
  unfold noticeViews
  try dsimp only [refuse]
  all_goals apply_rules [hr, chooseOrder_table, noticeView_table, foldl_table]
  all_goals (intro _ _ hq; apply_rules [hq, chooseOrder_table, noticeView_table, foldl_table])

theorem poolSetAct_table (b c n : Nat) {u : State} (hr : TableLaw u) : TableLaw (poolSetAct b c n u).1 := by
  obtain ⟨h1, h2, h3, h4, h5, h6, h7, h8, h9, h10, h11, h12, h13, h14⟩ := hr
  unfold poolSetAct
  dsimp only [refuse]
  split
  · constructor <;> assumption
  · split
    · constructor <;> assumption
    · split
      · constructor <;> assumption
      · constructor <;> first | assumption | simp [placedPool]

theorem countStray_table  {u : State} (hr : TableLaw u) : TableLaw (countStray u) := by
  obtain ⟨h1, h2, h3, h4, h5, h6, h7, h8, h9, h10, h11, h12, h13, h14⟩ := hr
  constructor <;> assumption

theorem abandonFrame_table (k : Nat) {u : State} (hr : TableLaw u) : TableLaw (abandonFrame k u) := by
  unfold abandonFrame
  try dsimp only [refuse]
  repeat' split
  all_goals apply_rules [hr, raiseFrame_table]

theorem settleHeader_table (k e : Nat) (f : FrameSlot) {u : State} (hr : TableLaw u) : TableLaw (settleHeader k e f u) := by
  unfold settleHeader
  try dsimp only [refuse]
  repeat' split
  all_goals apply_rules [hr, setFrameSlot_table, raiseFault_table, raiseFrame_table]

theorem takeHeader_table (k : Nat) (d : BeatData) {u : State} (hr : TableLaw u) : TableLaw (takeHeader k d u) := by
  unfold takeHeader
  try dsimp only [refuse]
  all_goals apply_rules [hr, noticeViews_table, abandonFrame_table, settleHeader_table]

theorem spoilHeader_table (k : Nat) {u : State} (hr : TableLaw u) : TableLaw (spoilHeader k u) := by
  unfold spoilHeader
  try dsimp only [refuse]
  repeat' split
  all_goals apply_rules [hr, setFrameSlot_table, raiseFault_table, raiseFrame_table, noticeViews_table]

theorem headerBeat_table (r : Request) (b : List WriteBeat) (i k o : Nat) {u : State} (hr : TableLaw u) :
    TableLaw (headerBeat r b i k o u).1 := by
  unfold headerBeat
  split
  · exact hr
  · split
    · exact takeHeader_table _ _ hr
    · exact spoilHeader_table _ hr

theorem reportFrame_table (k : Nat) (f : FrameSlot) {u : State} (hr : TableLaw u) : TableLaw (reportFrame k f u) := by
  unfold reportFrame
  try dsimp only [refuse]
  repeat' split
  all_goals apply_rules [hr, create_table _]

theorem endFrame_table (k : Nat) (f : FrameSlot) {u : State} (hr : TableLaw u) : TableLaw (endFrame k f u) := by
  unfold endFrame
  try dsimp only [refuse]
  all_goals apply_rules [hr, setFrameSlot_table, countFrame_table, trackFrame_table, reportFrame_table]

theorem overwriteFrame_table (k : Nat) {u : State} (hr : TableLaw u) : TableLaw (overwriteFrame k u) := by
  unfold overwriteFrame
  try dsimp only [refuse]
  all_goals apply_rules [hr, setFrameSlot_table, raiseFrame_table]

theorem bodyBeat_table (r : Request) (i k o : Nat) (d : BeatData) (st : Strobes) {u : State} (hr : TableLaw u) :
    TableLaw (bodyBeat r i k o d st u).1 := by
  unfold bodyBeat
  try dsimp only [refuse]
  repeat' split
  all_goals apply_rules [hr, setFrameSlot_table, countStray_table, endFrame_table, overwriteFrame_table]

theorem poolBeat_table (r : Request) (b : List WriteBeat) (i : Nat) (d : BeatData) (st : Strobes) (p : Pool) {u : State}
    (hr : TableLaw u) : TableLaw (poolBeat r b i d st p u).1 := by
  unfold poolBeat
  try dsimp only [refuse]
  repeat' split
  all_goals apply_rules [hr, headerBeat_table, bodyBeat_table]

theorem frameResponse_table (a k g : Nat) (ok : Bool) {u : State} (hr : TableLaw u) : TableLaw (frameResponse a k g ok u)
    := by
  unfold frameResponse
  try dsimp only [refuse]
  repeat' split
  all_goals apply_rules [hr, setFrameSlot_table, raiseFrame_table]

theorem lookNext_table (v : Nat) {u : State} (hr : TableLaw u) : TableLaw (lookNext v u).1 := by
  unfold lookNext
  try dsimp only [refuse]
  repeat' split
  all_goals apply_rules [hr, setPending_table]

theorem zonesToggle_table (v : Nat) {u : State} (hr : TableLaw u) : TableLaw (zonesToggle v u).1 := by
  obtain ⟨h1, h2, h3, h4, h5, h6, h7, h8, h9, h10, h11, h12, h13, h14⟩ := hr
  constructor <;> first | assumption | simpa [zonesToggle, setPending, setView]

theorem bandsToggle_table (v : Nat) {u : State} (hr : TableLaw u) : TableLaw (bandsToggle v u).1 := by
  obtain ⟨h1, h2, h3, h4, h5, h6, h7, h8, h9, h10, h11, h12, h13, h14⟩ := hr
  constructor <;> first | assumption | simpa [bandsToggle, setPending, setView]

theorem shuttlePress_table (d : Direction) (v : Nat) {u : State} (hr : TableLaw u) : TableLaw (shuttlePress d v u).1 := by
  obtain ⟨h1, h2, h3, h4, h5, h6, h7, h8, h9, h10, h11, h12, h13, h14⟩ := hr
  constructor <;> first | assumption | simpa [shuttlePress, setMotion]

theorem stopPress_table (v : Nat) {u : State} (hr : TableLaw u) : TableLaw (stopPress v u).1 := by
  obtain ⟨h1, h2, h3, h4, h5, h6, h7, h8, h9, h10, h11, h12, h13, h14⟩ := hr
  constructor <;> first | assumption | simpa [stopPress, setMotion]

theorem holdToggle_table (v : Nat) {u : State} (hr : TableLaw u) : TableLaw (holdToggle v u).1 := by
  unfold holdToggle
  try dsimp only [refuse]
  repeat' split
  all_goals apply_rules [hr, setMotion_table]

theorem locatePress_table (f : Option Nat) (v : Nat) {u : State} (hr : TableLaw u) : TableLaw (locatePress f v u).1 := by
  unfold locatePress
  try dsimp only [refuse]
  repeat' split
  all_goals apply_rules [hr, setMotion_table]

theorem ackHere_table (v : Nat) {u : State} (hr : TableLaw u) : TableLaw (ackHere v u).1 := by
  unfold ackHere
  try dsimp only [refuse]
  all_goals apply_rules [hr, ackFrame_table]

theorem doAction_table (a : PanelAction) (v : Nat) {u : State} (hr : TableLaw u) : TableLaw (doAction a v u).1 := by
  unfold doAction
  try dsimp only [refuse]
  repeat' split
  all_goals apply_rules [hr, lookNext_table, zonesToggle_table, bandsToggle_table, shuttlePress_table, stopPress_table, holdToggle_table, locatePress_table, ackHere_table]

theorem actAndReport_table (k : Nat) (e : PanelEvent) (h : Option Nat) {u : State} (hr : TableLaw u) :
    TableLaw (actAndReport k e h u) := by
  exact create_table _ (doAction_table _ _ hr)

theorem keyChange_table (k : Nat) (b : Bool) {u : State} (hr : TableLaw u) : TableLaw (keyChange k b u) := by
  obtain ⟨h1, h2, h3, h4, h5, h6, h7, h8, h9, h10, h11, h12, h13, h14⟩ := hr
  constructor <;> first | assumption | simpa [keyChange, setKey]

theorem keyPress_table (k : Nat) {u : State} (hr : TableLaw u) : TableLaw (keyPress k u) := by
  unfold keyPress
  try dsimp only [refuse]
  repeat' split
  all_goals apply_rules [hr, setKey_table, actAndReport_table]

theorem keyRelease_table (k : Nat) {u : State} (hr : TableLaw u) : TableLaw (keyRelease k u) := by
  unfold keyRelease
  try dsimp only [refuse]
  repeat' split
  all_goals apply_rules [hr, setKey_table, create_table _]

theorem keyRepeat_table (k : Nat) {u : State} (hr : TableLaw u) : TableLaw (keyRepeat k u) := by
  unfold keyRepeat
  try dsimp only [refuse]
  repeat' split
  all_goals apply_rules [hr, setKey_table, actAndReport_table]

theorem panelTimingAct_table (a b c : Nat) {u : State} (hr : TableLaw u) : TableLaw (panelTimingAct a b c u).1 := by
  obtain ⟨h1, h2, h3, h4, h5, h6, h7, h8, h9, h10, h11, h12, h13, h14⟩ := hr
  constructor <;> assumption

theorem panelBindAct_table (k : Nat) (a : Option PanelAction) (v r : Nat) {u : State} (hr : TableLaw u) :
    TableLaw (panelBindAct k a v r u).1 := by
  obtain ⟨h1, h2, h3, h4, h5, h6, h7, h8, h9, h10, h11, h12, h13, h14⟩ := hr
  unfold panelBindAct
  dsimp only [refuse]
  (repeat' split) <;> constructor <;> first | assumption | (simp; assumption)

theorem routeDetent_table (d : Direction) {u : State} (hr : TableLaw u) : TableLaw (routeDetent d u) := by
  unfold routeDetent
  try dsimp only [refuse]
  repeat' split
  all_goals apply_rules [hr, setMotion_table, create_table _]

theorem jogStep_table (d : Direction) (p : Bool × Bool) {u : State} (hr : TableLaw u) : TableLaw (jogStep d p u) := by
  have h : ∀ a b c, TableLaw (u.withPu { u.pu with jogLast := a, jogSteps := b, jogDirection := c }) := by
    intro a b c
    obtain ⟨h1, h2, h3, h4, h5, h6, h7, h8, h9, h10, h11, h12, h13, h14⟩ := hr
    constructor <;> assumption
  unfold jogStep
  split <;> apply_rules [h, routeDetent_table]

theorem compareSample_table (p : Bool × Bool) {u : State} (hr : TableLaw u) : TableLaw (compareSample p u) := by
  have h : ∀ a b c, TableLaw (u.withPu { u.pu with jogLast := a, jogSteps := b, jogDirection := c }) := by
    intro a b c
    obtain ⟨h1, h2, h3, h4, h5, h6, h7, h8, h9, h10, h11, h12, h13, h14⟩ := hr
    constructor <;> assumption
  unfold compareSample
  (repeat' split) <;> apply_rules [h, hr, jogStep_table]

theorem jogSample_table (p : Bool × Bool) {u : State} (hr : TableLaw u) : TableLaw (jogSample p u) := by
  unfold jogSample
  split
  · refine compareSample_table p ?_
    obtain ⟨h1, h2, h3, h4, h5, h6, h7, h8, h9, h10, h11, h12, h13, h14⟩ := hr
    constructor <;> assumption
  · exact hr

theorem forgetSent_table (i : Nat) {u : State} (hr : TableLaw u) : TableLaw (forgetSent i u) := by
  obtain ⟨h1, h2, h3, h4, h5, h6, h7, h8, h9, h10, h11, h12, h13, h14⟩ := hr
  constructor <;> assumption

theorem resetUnits_table  {u : State} (hr : TableLaw u) : TableLaw (resetUnits u) := by
  obtain ⟨h1, h2, h3, h4, h5, h6, h7, h8, h9, h10, h11, h12, h13, h14⟩ := hr
  constructor <;> first | assumption | (simp [resetUnits, resetStreams, resetClips, resetFrames, resetTracks]; try assumption)

theorem engineResetAct_table  {u : State} (hr : TableLaw u) : TableLaw (engineResetAct u).1 := by
  unfold engineResetAct
  dsimp only
  exact computeLamps_table _ (resetUnits_table hr)

end Sys2Proof.Machine
end

