-- ==== Sys2Proof/Laws/Tags.lean ====
section
/-! SUPPORT. The next order-book tag (R7): the streams that end at a request's arrival (R4) give none. -/

namespace Sys2Proof.Machine

@[simp] theorem computeLamp_nextTag (k : Nat) (s : State) : (computeLamp k s).tu.nextTag = s.tu.nextTag := by
  unfold computeLamp changeLamp; split
  · simp [setCardSlot]
  · rfl

@[simp] theorem computeClipLamp_nextTag (k : Nat) (s : State) : (computeClipLamp k s).tu.nextTag = s.tu.nextTag := by
  unfold computeClipLamp; split <;> simp

@[simp] theorem countFault_nextTag (f : Finding) (s : State) : (countFault f s).tu.nextTag = s.tu.nextTag := by
  unfold countFault; split
  · rfl
  · split <;> rfl

@[simp] theorem raiseFault_nextTag (b : Bool) (f : Finding) (s : State) : (raiseFault b f s).tu.nextTag = s.tu.nextTag := by
  have h : (reportFault f s).tu.nextTag = s.tu.nextTag := by simp [reportFault, storeFault, takeFaultId]
  unfold raiseFault; dsimp only; split
  · exact h
  · split
    · simpa using h
    · exact h

@[simp] theorem reportClip_nextTag (i : Nat) (o : Option ClipState) (c : ClipCause) (s : State) : (reportClip i o c s).tu.nextTag = s.tu.nextTag := by
  unfold reportClip; split <;> simp

@[simp] theorem setClip_nextTag (i : Nat) (c : Option Clip) (s : State) : (setClip i c s).tu.nextTag = s.tu.nextTag := rfl

@[simp] theorem raiseMismatches_nextTag (i : Nat) (ds : List Nat) (s : State) : (raiseMismatches i ds s).tu.nextTag = s.tu.nextTag := by
  unfold raiseMismatches
  exact foldl_keeps (·.tu.nextTag) _ (fun _ _ => by simp) _ _

@[simp] theorem verifyIfEnough_nextTag (i : Nat) (s : State) : (verifyIfEnough i s).tu.nextTag = s.tu.nextTag := by
  unfold verifyIfEnough; split
  · rfl
  · split <;> simp

@[simp] theorem sourceGood_nextTag (i : Nat) (p : Fingerprint) (s : State) : (sourceGood i p s).tu.nextTag = s.tu.nextTag := by
  unfold sourceGood; split <;> simp

@[simp] theorem sourceFailed_nextTag (i j : Nat) (p : Option Nat) (s : State) : (sourceFailed i j p s).tu.nextTag = s.tu.nextTag := by
  unfold sourceFailed; split
  · rfl
  · dsimp only; split <;> simp

@[simp] theorem destGood_nextTag (i d : Nat) (p : Fingerprint) (s : State) : (destGood i d p s).tu.nextTag = s.tu.nextTag := by
  have h : ∀ c, (compareDest i c d p s).tu.nextTag = s.tu.nextTag := by
    intro c; unfold compareDest; dsimp only; split
    · simp
    · split <;> simp
  unfold destGood; split
  · rfl
  · split <;> simp [h]

@[simp] theorem destFailed_nextTag (i d : Nat) (s : State) : (destFailed i d s).tu.nextTag = s.tu.nextTag := by
  unfold destFailed; split <;> simp

@[simp] theorem endStream_nextTag (i : Nat) (o : StreamOutcome) (a p : Option Nat) (s : State) : (endStream i o a p s).tu.nextTag = s.tu.nextTag := by
  unfold endStream; split
  · rfl
  · unfold keepNote handToClip
    split
    · split <;> simp [setStream]
    · split <;> simp [setStream]

@[simp] theorem untappedStreams_nextTag (r : Request) (s : State) :
    (untappedStreams r s).tu.nextTag = s.tu.nextTag := by
  unfold untappedStreams; dsimp only
  exact (foldl_keeps (·.tu.nextTag) _ (fun _ _ => by simp) _ _).trans (by unfold chooseOrder; split; rfl; split <;> rfl)

end Sys2Proof.Machine
end

