-- ==== Sys2Proof/Laws/Track.lean ====
section
/-! SUPPORT. The pixel tracker: what keeps `TrackLaw` (R92, R93), operation by operation. -/

namespace Sys2Proof.Machine

/-- `TrackLaw` of a list of tracker entries. -/
def TrackerOk (l : List TrackerEntry) : Prop :=
  l.length ≤ 32 ∧ l.Pairwise (fun a b => ¬(a.camera = b.camera ∧ a.x = b.x ∧ a.y = b.y)) ∧ ∀ e ∈ l, 1 ≤ e.hits ∧ e.hits ≤ 255 ∧ e.misses ≤ 2

theorem trackLaw_iff (s) : TrackLaw s ↔ TrackerOk s.ctu.tracker := ⟨fun h => ⟨h.1, h.2, h.3⟩, fun h => ⟨h.1, h.2.1, h.2.2⟩⟩

theorem TrackerOk.map {l} (h : TrackerOk l) (f : TrackerEntry → TrackerEntry)
    (hk : ∀ e, (f e).camera = e.camera ∧ (f e).x = e.x ∧ (f e).y = e.y)
   (hr : ∀ e, (1 ≤ e.hits ∧ e.hits ≤ 255 ∧ e.misses ≤ 2) → (1 ≤ (f e).hits ∧ (f e).hits ≤ 255 ∧ (f e).misses ≤ 2)) : TrackerOk (l.map f) := by
  refine ⟨by simpa using h.1, ?_, ?_⟩
  · rw [List.pairwise_map]
    refine h.2.1.imp ?_
    intro a b hab; rw [(hk a).1, (hk a).2.1, (hk a).2.2, (hk b).1, (hk b).2.1, (hk b).2.2]; exact hab
  · intro e he
    obtain ⟨a, ha, rfl⟩ := List.mem_map.1 he
    exact hr a (h.2.2 a ha)

theorem TrackerOk.cand (c) (acc : List TrackerEntry × Bool) (p) (h : TrackerOk acc.1) :
    TrackerOk (trackCandidate c acc p).1 := by
  unfold trackCandidate
  split
  · apply h.map
    · intro e; split <;> simp
    · intro e he; split
      · simp [satAdd]
      · exact he
  · rename_i hn
    split
    · refine ⟨by simp; omega, ?_, ?_⟩
      · rw [List.pairwise_append]
        refine ⟨h.2.1, List.pairwise_singleton _ _, ?_⟩
        intro a ha b hb
        simp at hb; subst hb
        simp only [List.any_eq_true, not_exists, not_and, entryAt] at hn
        have := hn a ha
        simpa [and_assoc] using this
      · intro e he
        rw [List.mem_append] at he
        rcases he with he | he
        · exact h.2.2 e he
        · simp at he; subst he; simp
    · exact h

theorem TrackerOk.cands (c : Nat) (l : List (Nat × Nat)) (acc : List TrackerEntry × Bool) (h : TrackerOk acc.1) :
    TrackerOk (l.foldl (trackCandidate c) acc).1 := by
  induction l generalizing acc with
  | nil => exact h
  | cons p l ih => exact ih _ (h.cand c acc p)

theorem TrackerOk.miss (c cs) {l} (h : TrackerOk l) : TrackerOk (l.filterMap (missEntry c cs)) := by
  have key : ∀ e e', missEntry c cs e = some e' → e'.camera = e.camera ∧ e'.x = e.x ∧ e'.y = e.y ∧ e'.hits = e.hits ∧ (e.misses ≤ 2 → e'.misses ≤ 2) := by
    intro e e' he
    unfold missEntry at he
    split at he
    · split at he
      · cases he; simp; omega
      · cases he
    · cases he; simp
  refine ⟨Nat.le_trans (List.length_filterMap_le _ _) h.1, ?_, ?_⟩
  · rw [List.pairwise_filterMap]
    refine h.2.1.imp ?_
    intro a b hab a' ha' b' hb'
    obtain ⟨k1,k2,k3,-⟩ := key a a' ha'
    obtain ⟨l1,l2,l3,-⟩ := key b b' hb'
    rw [k1,k2,k3,l1,l2,l3]; exact hab
  · intro e he
    obtain ⟨a, ha, hb⟩ := List.mem_filterMap.1 he
    obtain ⟨k1,k2,k3,k4,k5⟩ := key a e hb
    have := h.2.2 a ha
    omega

/-- `TrackLaw` of a state, as the law of its list. -/
abbrev StateTrackerOk (s : State) := TrackerOk s.ctu.tracker

theorem setCamera_tracker (c x s) : (setCamera c x s).ctu.tracker = s.ctu.tracker := rfl

theorem setPair_tracker (c x s) : (setPair c x s).ctu.tracker = s.ctu.tracker := rfl

theorem setQueue_tracker (c x s) : (setQueue c x s).ctu.tracker = s.ctu.tracker := rfl

theorem trackCandidates_tracker (f s) (h : StateTrackerOk s) : StateTrackerOk (trackCandidates f s) := by
  have key : TrackerOk (if f.candidatesOver then (f.candidates.foldl (trackCandidate f.camera) (s.ctu.tracker, false)).1
      else (f.candidates.foldl (trackCandidate f.camera) (s.ctu.tracker, false)).1.filterMap (missEntry f.camera f.candidates)) := by
    split
    · exact TrackerOk.cands _ _ _ h
    · exact (TrackerOk.cands _ _ _ h).miss _ _
  unfold trackCandidates StateTrackerOk
  dsimp only
  split
  · rw [setCamera_tracker]; exact key
  · exact key

theorem checkStuck_tracker (f p s) (h : StateTrackerOk s) : StateTrackerOk (checkStuck f p s) := by
  unfold checkStuck; split
  · exact h
  · split
    · unfold StateTrackerOk
      simp only [raiseFault_frame, State.withCtu_ctu]
      apply h.map
      · intro e; split <;> simp
      · intro e he; split <;> exact he
    · exact h

theorem trackerSteps_tracker (f s) (h : StateTrackerOk s) : StateTrackerOk (trackerSteps f s) := by
  unfold trackerSteps
  have := trackCandidates_tracker f s h
  generalize trackCandidates f s = t at *
  generalize f.candidates = l
  induction l generalizing t with
  | nil => exact this
  | cons a l ih => exact ih _ (checkStuck_tracker _ _ _ this)

theorem checkExposure_tracker (f q s) : (checkExposure f q s).ctu.tracker = s.ctu.tracker := by
  unfold checkExposure; dsimp only; repeat' split
  all_goals simp [setCamera_tracker]

theorem holdFrame_tracker (k p h s) : (holdFrame k p h s).ctu.tracker = s.ctu.tracker := by
  unfold holdFrame; repeat' split
  all_goals simp [setQueue_tracker]

theorem pairFrame_tracker (k p f h l s) : (pairFrame k p f h l s).ctu.tracker = s.ctu.tracker := by
  have : ∀ (x : List HeldRecord) (t : State), (x.foldl (fun x r => raiseUnpaired k p r x) t).ctu = t.ctu := by
    intro x
    induction x with
    | nil => intro t; rfl
    | cons a x ih => intro t; simp [ih]
  unfold pairFrame; dsimp only; split
  · simp [setQueue_tracker, this]
  · split
    · simp [setQueue_tracker, this]
    · simp [setQueue_tracker, this]

theorem stereoStep_tracker (f c m s) : (stereoStep f c m s).ctu.tracker = s.ctu.tracker := by
  unfold stereoStep; dsimp only; repeat' split
  all_goals first | rfl | simp [holdFrame_tracker, pairFrame_tracker]

theorem endFrame_tracker (k f s) (h : StateTrackerOk s) : StateTrackerOk (endFrame k f s) := by
  unfold endFrame trackFrame rememberFrame; dsimp only
  unfold StateTrackerOk; rw [setCamera_tracker, stereoStep_tracker]
  apply trackerSteps_tracker
  unfold StateTrackerOk; rw [checkExposure_tracker]
  simpa using h

theorem poolBeat_tracker (r b i d st p s) (h : StateTrackerOk s) : StateTrackerOk (poolBeat r b i d st p s).1 := by
  unfold poolBeat; dsimp only; split
  · unfold headerBeat; repeat' split
    all_goals simpa [StateTrackerOk] using h
  · unfold bodyBeat; dsimp only; repeat' split
    · exact h
    · simpa [StateTrackerOk, overwriteFrame] using h
    · exact endFrame_tracker _ _ _ h
    · exact h

theorem TL_nil : TrackerOk [] := by refine ⟨?_, ?_, ?_⟩ <;> simp

end Sys2Proof.Machine
end

