-- ==== Sys2Proof/Laws/Windows.lean ====
section
/-! SUPPORT. The window set: what keeps `WindowLaw` (R14), operation by operation. -/

namespace Sys2Proof.Machine

/-- The window set of t is that of s, but for stream windows that have left it. -/
structure WindowsWithin (s t : State) : Prop where
  cp : t.tu.cpBase = s.tu.cpBase
  pool : t.fiu.pool = s.fiu.pool
  view : ∀ v, (viewAt t v).window = (viewAt s v).window
  streams : (streamWindows t).Sublist (streamWindows s)

theorem WindowsWithin.refl (s) : WindowsWithin s s := ⟨rfl, rfl, fun _ => rfl, List.Sublist.refl _⟩

theorem WindowsWithin.trans {s t u} (h : WindowsWithin s t) (k : WindowsWithin t u) : WindowsWithin s u :=
  ⟨k.cp.trans h.cp, k.pool.trans h.pool, fun v => (k.view v).trans (h.view v), k.streams.trans h.streams⟩

theorem WindowsWithin.law {s t} (h : WindowsWithin s t) (k : WindowLaw s) : WindowLaw t := by
  unfold WindowLaw windowSet at *
  refine List.Pairwise.sublist ?_ k
  have hc : controlPage t = controlPage s := by simp [controlPage, h.cp]
  have hp : poolWindows t = poolWindows s := by simp [poolWindows, h.pool]
  have hv : ∀ v, viewWindows t v = viewWindows s v := fun v => by simp [viewWindows, h.view v]
  rw [hc, hp, hv, hv]
  exact (List.Sublist.append (List.Sublist.refl _) h.streams).cons_cons _

theorem WindowsWithin.of {s t} (hc : t.tu.cpBase = s.tu.cpBase) (hf : t.fiu.pool = s.fiu.pool) (hv : t.ve = s.ve)
    (hs : t.su.table = s.su.table) : WindowsWithin s t :=
  ⟨hc, hf, fun v => by simp [viewAt, hv], by simp [streamWindows, hs]⟩

theorem WindowsWithin.create (b) {s t} (h : WindowsWithin s t) : WindowsWithin s (createReport b t)
    := h.trans (.of (by simp) (by simp) (by simp) (by simp))

theorem viewAt_setView (v x s w) : viewAt (setView v x s) w = if w = v ∧ v < s.ve.length then x else viewAt s w := by
  unfold viewAt setView
  simp only [State.withVe_ve, List.getD_eq_getElem?_getD, List.getElem?_set]
  by_cases h : v = w
  · subst h
    by_cases hv : v < s.ve.length
    · simp [hv]
    · simp [hv]
  · simp [h, Ne.symm h]

theorem WindowsWithin.setView {s t : State} (v x) (h : WindowsWithin s t) (hx : x.window = (viewAt t v).window := by rfl)
    : WindowsWithin s (setView v x t) := by
  refine h.trans ⟨rfl, rfl, fun w => ?_, List.Sublist.refl _⟩
  rw [viewAt_setView]; split
  · rename_i e; rw [hx, e.1]
  · rfl

theorem streamWindows_none (i s) : (streamWindows (setStream i none s)).Sublist (streamWindows s) := by
  unfold streamWindows setStream
  simp only [State.withSu_su]
  generalize s.su.table = l
  induction l generalizing i with
  | nil => simp
  | cons a l ih =>
    cases i with
    | zero => simp only [List.set_cons_zero, List.filterMap_cons, Option.map_none]; split <;> simp [List.Sublist.refl]
    | succ i => simp only [List.set_cons_succ, List.filterMap_cons]; split
                · exact ih i
                · exact (ih i).cons_cons _

theorem streamWindows_set (i e e' s) (h : streamAt s i = some e) (hs : streamSpan e' = streamSpan e) :
    streamWindows (setStream i (some e') s) = streamWindows s := by
  unfold streamWindows setStream streamAt at *
  simp only [State.withSu_su]
  generalize s.su.table = l at *
  induction l generalizing i with
  | nil => simp
  | cons a l ih =>
    cases i with
    | zero => simp only [List.set_cons_zero, List.filterMap_cons, Option.map_some]; simp at h; subst h; simp [hs]
    | succ i => simp only [List.set_cons_succ, List.filterMap_cons]; rw [ih i (by simpa using h)]

theorem WindowsWithin.setStream {s t : State} (i e e') (h : WindowsWithin s t) (he : streamAt t i = some e)
    (hs : streamSpan e' = streamSpan e := by rfl) : WindowsWithin s (setStream i (some e') t) :=
  h.trans ⟨rfl, rfl, fun _ => rfl, by rw [streamWindows_set _ _ _ _ he hs]; ⟩

theorem handToClip_windows (i e o p) {s t} (h : WindowsWithin s t) : WindowsWithin s (handToClip i e o p t)
    := h.trans (.of (by simp) (by simp) (by simp) (by simp))

theorem endStream_windows (i o a p) {s t} (h : WindowsWithin s t) : WindowsWithin s (endStream i o a p t) := by
  unfold endStream
  split
  · exact h
  · have h1 : WindowsWithin s (Machine.setStream i none t) := h.trans ⟨rfl, rfl, fun _ => rfl, streamWindows_none _ _⟩
    have h2 := handToClip_windows i ‹Stream› o p (h1.create (streamEndReport i ‹Stream› o a))
    unfold keepNote
    split
    · exact h2.trans (.of rfl rfl rfl rfl)
    · exact h2

theorem streamBeat_windows (i a d st m) {s t} (h : WindowsWithin s t) : WindowsWithin s (streamBeat i a d st m t).1 := by
  unfold streamBeat
  split
  · exact h
  · split
    · exact endStream_windows _ _ _ _ h
    · dsimp only
      split
      · exact endStream_windows _ _ _ _ (h.setStream _ _ _ ‹_›)
      · exact h.setStream _ _ _ ‹_›

theorem noteResponse_windows (n ok) {s t} (h : WindowsWithin s t) : WindowsWithin s (noteResponse n ok t) := by
  unfold noteResponse; split
  · exact h
  · dsimp only; split
    · exact h.trans (.of (by simp) (by simp) (by simp) (by simp))
    · exact h.trans (.of rfl rfl rfl rfl)

theorem streamResponse_windows (n ok) {s t} (h : WindowsWithin s t) : WindowsWithin s (streamResponse n ok t) := by
  unfold streamResponse; split
  · exact noteResponse_windows _ _ h
  · split
    · exact h
    · dsimp only; split
      · exact h.setStream _ _ _ ‹_›
      · exact endStream_windows _ _ _ _ (h.setStream _ _ _ ‹_›)

theorem cardRemoval_windows (k) {s t} (h : WindowsWithin s t) : WindowsWithin s (cardRemoval k t) := by
  unfold cardRemoval; dsimp only; split
  · have : WindowsWithin s (pullSources k t) := by
      unfold pullSources
      generalize sessionSources t k = l
      clear * - h
      induction l generalizing t with
      | nil => exact h
      | cons a l ih => exact ih (endStream_windows _ _ _ _ h)
    exact this.trans (.of (by simp) (by simp) (by simp) (by simp))
  · exact h

theorem noticeViews_windows (k) {s t} (h : WindowsWithin s t) : WindowsWithin s (noticeViews k t) := by
  unfold noticeViews
  have h0 : WindowsWithin s (chooseOrder (viewsPinning t k) t).2 := h.trans (.of (by simp) (by simp) (by simp) (by simp))
  dsimp only
  generalize (chooseOrder (viewsPinning t k) t).2 = u at *
  generalize (chooseOrder (viewsPinning t k) t).1 = l
  induction l generalizing u with
  | nil => exact h0
  | cons a l ih =>
    apply ih
    unfold noticeView
    dsimp only
    split
    · exact h0
    · split
      · apply WindowsWithin.create
        exact h0.setView _ _
      · exact h0

theorem setFrame_pool (k f s) : (setFrameSlot k f s).fiu.pool = s.fiu.pool := rfl

theorem settleHeader_windows (k y f) {s t} (h : WindowsWithin s t) : WindowsWithin s (settleHeader k y f t) := by
  unfold settleHeader; split
  · exact h.trans (.of (by simp) (by simp [setFrame_pool]) (by simp) (by simp))
  · dsimp only; split
    · exact h.trans (.of (by simp) (by simp [setFrame_pool]) (by simp) (by simp))
    · exact h.trans (.of (by simp) (by simp [setFrame_pool]) (by simp) (by simp))

theorem takeHeader_windows (k d) {s t} (h : WindowsWithin s t) : WindowsWithin s (takeHeader k d t) := by
  unfold takeHeader
  exact noticeViews_windows _ (settleHeader_windows _ _ _ (h.trans (.of (by simp) (by simp) (by simp) (by simp))))

theorem spoilHeader_windows (k) {s t} (h : WindowsWithin s t) : WindowsWithin s (spoilHeader k t) := by
  unfold spoilHeader; dsimp only
  apply noticeViews_windows
  split <;> exact h.trans (.of (by simp) (by simp [setFrame_pool]) (by simp) (by simp))

theorem endFrame_windows (k f) {s t} (h : WindowsWithin s t) : WindowsWithin s (endFrame k f t) := by
  unfold endFrame; dsimp only
  exact h.trans (.of (by simp) (by simp [setFrame_pool]) (by simp) (by simp))

theorem poolBeat_windows (r b i d st p) {s t} (h : WindowsWithin s t) : WindowsWithin s (poolBeat r b i d st p t).1 := by
  unfold poolBeat; dsimp only; split
  · unfold headerBeat; split
    · exact h
    · split
      · exact takeHeader_windows _ _ h
      · exact spoilHeader_windows _ h
  · unfold bodyBeat; dsimp only; split
    · exact h.trans (.of rfl rfl rfl rfl)
    · split
      · exact h.trans (.of (by simp [overwriteFrame]) (by simp [overwriteFrame, setFrame_pool]) (by simp [overwriteFrame]) (by simp [overwriteFrame]))
      · dsimp only; split
        · exact endFrame_windows _ _ h
        · exact h.trans (.of rfl rfl rfl rfl)

theorem setPending_windows (v x) {s t} (h : WindowsWithin s t) : WindowsWithin s (setPending v x t) := h.setView _ _

theorem validateBands_windows (v n) {s t} (h : WindowsWithin s t) : WindowsWithin s (validateBands v n t) := by
  unfold validateBands reportView; dsimp only; split
  · exact h.setView _ _
  · split
    · exact h
    · exact (h.setView _ _).create _

theorem validateStrips_windows (v n) {s t} (h : WindowsWithin s t) : WindowsWithin s (validateStrips v n t) := by
  unfold validateStrips reportView; dsimp only; split
  · exact h.setView _ _
  · split
    · exact h
    · exact (h.setView _ _).create _

theorem takeBoundary_windows (v n) {s t} (h : WindowsWithin s t) : WindowsWithin s (takeBoundary v n t) := by
  unfold takeBoundary
  have h1 : WindowsWithin s (beginFrame v n t) := validateStrips_windows _ _ (validateBands_windows _ _ (h.setView _ _))
  have h2 : WindowsWithin s (mixStep v (beginFrame v n t)) := by
    generalize beginFrame v n t = u at *
    unfold mixStep; dsimp only; split <;> exact h1.setView _ _
  have h3 : WindowsWithin s (shuttleStep v (mixStep v (beginFrame v n t))) := by
    generalize mixStep v (beginFrame v n t) = u at *
    exact h2.trans (.of (by simp) (by simp) (by simp) (by simp))
  exact h3.setView _ _

theorem serveRead_windows (v r) {s t} (h : WindowsWithin s t) : WindowsWithin s (serveRead v r t) := by
  unfold serveRead; dsimp only; split
  · exact h.trans (.of rfl rfl rfl rfl)
  · exact (h.setView v _).trans (.of rfl rfl rfl rfl)

theorem viewRead_windows (v n r c b w) {s t} (h : WindowsWithin s t) : WindowsWithin s (viewRead v n r c b w t) := by
  unfold viewRead; dsimp only
  apply serveRead_windows
  split
  · exact (takeBoundary_windows _ _ h).setView _ _
  · exact h.setView _ _

theorem viewFetchReturn_windows (n i b) {s t} (h : WindowsWithin s t) : WindowsWithin s (viewFetchReturn n i b t) := by
  unfold viewFetchReturn; split
  · exact h
  · split
    · exact h
    · split
      · unfold returnBeats; dsimp only
        rename_i v _ _ r _ _
        have hf : WindowsWithin s (if fetchFailed r = false ∧ fetchFailed { r with reads := r.reads.modify i (appendBeats b) } = true
      then fetchFault v r t else t) := by
          split
          · unfold fetchFault; dsimp only; split
            · exact h.setView _ _
            · exact (h.setView v _).create _
          · exact h
        split
        · exact WindowsWithin.trans (hf.setView _ _) (.of rfl rfl rfl rfl)
        · exact hf.setView _ _
      · exact h

theorem doAction_windows (a v) {s t} (h : WindowsWithin s t) : WindowsWithin s (doAction a v t).1 := by
  unfold doAction; split
  · exact h
  · unfold lookNext; split
    · exact h
    · exact setPending_windows _ _ h
  · exact h.trans (.of (by simp) (by simp) (by simp) (by simp))
  · exact h.trans (.of (by simp) (by simp) (by simp) (by simp))
  · exact h.trans (.of (by simp) (by simp) (by simp) (by simp))
  · exact h.trans (.of (by simp) (by simp) (by simp) (by simp))
  · exact h.trans (.of (by simp) (by simp) (by simp) (by simp))
  · exact h.trans (.of (by simp) (by simp) (by simp) (by simp))
  · exact h.trans (.of (by simp) (by simp) (by simp) (by simp))
  · exact setPending_windows _ _ h
  · exact setPending_windows _ _ h

theorem act_windows (k e x) {s t} (h : WindowsWithin s t) : WindowsWithin s (actAndReport k e x t)
    := (doAction_windows _ _ h).create _

theorem overlapsAny_false {w ws} (h : overlapsAny w ws = false) : ∀ x ∈ ws, w.overlaps x = false := by
  unfold overlapsAny at h; rw [List.any_eq_false] at h; intro x hx; simpa using h x hx

theorem overlaps_comm (a b : Span) : a.overlaps b = b.overlaps a := by
  unfold Span.overlaps; congr 1; simp only [eq_iff_iff]; constructor <;> (rintro ⟨a,b,c,d⟩; exact ⟨b,a,d,c⟩)

theorem streamWindows_perm (i e s) (h : s.su.table[i]? = some none) :
    (streamWindows (setStream i (some e) s)).Perm (streamSpan e :: streamWindows s) := by
  unfold streamWindows setStream
  simp only [State.withSu_su]
  generalize s.su.table = l at *
  induction l generalizing i with
  | nil => simp at h
  | cons a l ih =>
    cases i with
    | zero => simp at h; subst h; simp [List.filterMap_cons]
    | succ i =>
      simp at h
      simp only [List.set_cons_succ, List.filterMap_cons]
      have := ih i h
      split
      · exact this
      · exact (this.cons _).trans (List.Perm.swap _ _ _)

theorem ctOpened_windows (e : Stream) {s t} (h : WindowsWithin s t) :
    WindowsWithin s (match e.role with | .source => sourceOpened e.clip t | .dest d => destOpened e.clip d t) := by
  split <;> exact h.trans (.of (by simp) (by simp) (by simp) (by simp))

/-- A new pool overlaps no window that stays (R13, R67). -/
theorem poolSetAct_windows {s : State} (b c n : Nat) (h : WindowLaw s) : WindowLaw (poolSetAct b c n s).1 := by
  unfold poolSetAct; dsimp only [refuse]; split
  · exact h
  · split
    · exact h
    · split
      · exact h
      · rename_i ho
        have ho := overlapsAny_false (by simpa using ho)
        unfold WindowLaw windowSet at *
        have e : poolWindows (s.withFiu (placedPool { base := b, count := c, size := n } s.fiu)) = [poolSpan { base := b, count := c, size := n }] := rfl
        rw [e]
        change List.Pairwise _ (controlPage s :: ([poolSpan { base := b, count := c, size := n }] ++ viewWindows s 0 ++ viewWindows s 1 ++ streamWindows s))
        simp only [List.pairwise_cons, List.pairwise_append, List.mem_cons, List.mem_append, List.mem_singleton, List.append_assoc, List.cons_append, List.nil_append] at *
        grind [overlaps_comm]

/-- A new view window overlaps no other window (R13, R129). -/
theorem viewWindowSetAct_windows {s : State} (v b w n : Nat) (h : WindowLaw s) :
    WindowLaw (viewWindowSetAct v b w n s).1 := by
  unfold viewWindowSetAct; dsimp only [refuse]; split
  · exact h
  · split
    · exact h
    · split
      · exact h
      · rename_i ha _ ho
        have ho := overlapsAny_false (by simpa using ho)
        have hv : v ≤ 1 := by simp [viewWindowArguments] at ha; omega
        have key : ∀ u, u = (setView v { viewAt s v with
          window := some { base := b, width := w, height := n, stride := viewStride w }
          lastRow := none } s) → WindowLaw u := by
          intro u hu
          by_cases hl : v < s.ve.length
          · have e1 : viewWindows u v = [{ base := b, size := viewStride w * n }] := by
              subst hu; simp [viewWindows, viewAt_setView, hl, viewSpan]
            have e2 : viewWindows u (1 - v) = viewWindows s (1 - v) := by
              subst hu; simp [viewWindows, viewAt_setView]; rw [if_neg]; omega
            have e3 : controlPage u = controlPage s := by subst hu; rfl
            have e4 : poolWindows u = poolWindows s := by subst hu; rfl
            have e5 : streamWindows u = streamWindows s := by subst hu; rfl
            unfold WindowLaw windowSet at *
            rw [e3, e4, e5]
            obtain rfl | rfl : v = 0 ∨ v = 1 := by omega
            · rw [e1]; simp only [Nat.sub_zero] at e2 ho; rw [e2]
              simp only [List.pairwise_cons, List.pairwise_append, List.mem_cons, List.mem_append, List.mem_singleton, List.append_assoc, List.cons_append, List.nil_append] at *
              grind [overlaps_comm]
            · rw [e1]; simp only [Nat.sub_self] at e2 ho; rw [e2]
              simp only [List.pairwise_cons, List.pairwise_append, List.mem_cons, List.mem_append, List.mem_singleton, List.append_assoc, List.cons_append, List.nil_append] at *
              grind [overlaps_comm]
          · subst hu
            have : setView v { viewAt s v with
          window := some { base := b, width := w, height := n, stride := viewStride w }
          lastRow := none } s = s := by unfold setView; rw [List.set_eq_of_length_le (by omega)]; rfl
            rw [this]; exact h
        exact key _ rfl

/-- A new stream's window overlaps no window (R13, R32). -/
theorem streamOpenAct_windows {s : State} (c r d b l x : Nat) (h : WindowLaw s) :
    WindowLaw (streamOpenAct c r d b l x s).1 := by
  unfold streamOpenAct; dsimp only [refuse]
  split
  · exact h
  · split
    · exact h
    · split
      · exact h
      · split
        · exact h
        · rename_i id hid
          split
          · exact h
          · split
            · exact h
            · rename_i ho
              have ho := overlapsAny_false (by simpa using ho)
              unfold openStream
              dsimp only
              refine (ctOpened_windows _ (.refl _)).law ?_
              have hid' : s.su.table[id]? = some none := by
                unfold freeStream at hid
                obtain ⟨h1, h2, -⟩ := List.findIdx?_eq_some_iff_getElem.1 hid
                rw [List.getElem?_eq_getElem h1]
                simpa using h2
              generalize hE : openedStream s c _ b l x = E
              have hsp : streamSpan E = { base := b, size := l } := by subst hE; rfl
              have hp := streamWindows_perm id E s hid'
              rw [hsp] at hp
              unfold WindowLaw windowSet at *
              change List.Pairwise _ (controlPage s :: (poolWindows s ++ viewWindows s 0 ++ viewWindows s 1 ++ streamWindows (setStream id (some E) s)))
              have hq : (controlPage s :: (poolWindows s ++ viewWindows s 0 ++ viewWindows s 1 ++ streamWindows (setStream id (some E) s))).Perm ({ base := b, size := l } :: (controlPage s :: (poolWindows s ++ viewWindows s 0 ++ viewWindows s 1 ++ streamWindows s))) := by
                refine ((List.Perm.append_left _ hp).cons _).trans ?_
                refine (List.Perm.cons _ (List.perm_middle)).trans ?_
                exact List.Perm.swap _ _ _
              rw [hq.pairwise_iff (by intro a b; simp [overlaps_comm])]
              refine List.Pairwise.cons ?_ h
              intro y hy; apply ho y; simpa using hy

/-- ENGINE_RESET only takes windows out of the set (R29). -/
theorem engineResetAct_windows {s : State} (h : WindowLaw s) : WindowLaw (engineResetAct s).1 := by
  refine WindowsWithin.law (s := s) ⟨by simp [engineResetAct, resetUnits], ?_, ?_, ?_⟩ h
  · simp [engineResetAct, resetUnits, resetFrames]
  · intro v
    unfold viewAt
    simp only [engineResetAct, resetUnits, computeLamps_frame]
    simp only [State.withSh_ve, State.withVe_ve, List.getD_eq_getElem?_getD, List.getElem?_map]
    cases s.ve[v]? <;> simp [resetView]
  · have : streamWindows (engineResetAct s).1 = [] := by
      simp [engineResetAct, resetUnits, streamWindows, resetStreams, List.filterMap_map]
    rw [this]; exact List.nil_sublist _

end Sys2Proof.Machine
end

