-- ==== Sys2Proof/Tests/Slice0.lean ====
section
/-! SUPPORT. Tests: the checks of WellFormed, records written out from Table 12-2, the spec's worked examples, and for each
statement that has hypotheses a concrete state and operands that meet them, clause by clause. Numbers stand in the spec. -/

set_option Elab.async false

namespace Sys2Proof.Tests

open Sys2Proof.Machine

/-! ### Helpers -/

/-- The state that a command leaves. -/
def after (c : Instr) (s : State) : State :=
  match exec c s with
  | .next t => t
  | .fault _ => s
  | .refused _ => s

/-- The answer of the last report on its way, when it is a COMPLETION. -/
def lastAnswer (s : State) : Option Answer :=
  match (reportsOnWay s).getLast? with
  | some { time := _, body := .completion _ _ a } => some a
  | _ => none

/-- How a command at a state is answered. -/
def answer (c : Instr) (s : State) : Option Answer :=
  lastAnswer (after c s)

/-- The bodies of the reports on their way. -/
def bodies (s : State) : List ReportBody :=
  (reportsOnWay s).map (fun r => r.body)

/-- The kinds and details of the faults in the list. -/
def faults (s : State) : List (FaultKind × Nat) :=
  s.fl.records.map (fun r => (r.kind, r.detail))

/-- A request of n + 1 full beats from an address. -/
def burst (a : Addr) (n : Fin 16) : Request :=
  { id := 3, addr := a, len := n, size := 5, burst := .incr, exclusive := false }

/-- A beat of data with all its strobes set. -/
def fullBeat (d : BeatData) : WriteBeat :=
  { data := d, strobes := BitVec.allOnes 32 }

/-- An OPEN clip of card slot 8 with label 7 and one required copy. -/
def openClip : Clip :=
  { state := .opened, label := 7, slot := 8, session := 0, camera := 2, required := 1, source := none,
    dests := List.replicate 4 Dest.empty, matchCount := 0, frames := 0, critOpen := 0, warnCount := 0 }

/-- A SOURCE stream of clip 0 with a window of 4096 bytes at 2^33. -/
def sourceStream : Stream :=
  { serial := 5, clip := 0, role := .source, base := 2 ^ 33, length := 4096, next := 2 ^ 33, bytes := 0, expected := 0,
    tailSeen := false, a := 1, b := 0, outstanding := 0 }

/-- Reset with clip 0 open and its source running as stream 0. -/
def ingesting : State :=
  setStream 0 (some sourceStream) (setClip 0 (some openClip) State.reset)

/-- Reset with a pool of two slots of 8192 bytes at 2^34. -/
def pooled : State :=
  State.reset.withFiu { pool := some { base := 2 ^ 34, count := 2, size := 8192 }, serial := 1,
                        slots := List.replicate 2 FrameSlot.empty, stray := 0 }

/-- A view window of 16 by 16 pixels at 2^35. -/
def smallWindow : ViewWindow :=
  { base := 2 ^ 35, width := 16, height := 16, stride := 64 }

/-- Reset with that window as view 0's. -/
def viewing : State :=
  setView 0 { View.reset with window := some smallWindow } State.reset

/-- A fault record of camera 2 at frame 9. -/
def record (id : Nat) (kind : FaultKind) : FaultRecord :=
  { id := id, kind := kind, camera := some 2, clip := some 0, retired := false,
    frame := some (9, { hh := 0, mm := 0, ss := 0, ff := 0 }), position := none, detail := 1, acked := false }

/-! ### Well-formed commands -/

theorem test_request_past_the_space_is_ill_formed :
    (Instr.readRequest (burst 0xFFFFFFFFE0 1)).wellFormed = false ∧
      (Instr.writeRequestAddress (burst 0xFFFFFFFFE0 1)).wellFormed = false ∧
      (Instr.readRequest (burst 0xFFFFFFFFE0 0)).wellFormed = true := by
  decide +kernel

theorem test_read_data_of_no_beat_or_seventeen_is_ill_formed :
    (Instr.forwardedReadData 3 []).wellFormed = false ∧
      (Instr.forwardedReadData 3 (List.replicate 17 { data := 0, resp := .okay })).wellFormed = false ∧
      (Instr.forwardedReadData 3 (List.replicate 16 { data := 0, resp := .okay })).wellFormed = true := by
  decide +kernel

theorem test_tenth_own_read_is_ill_formed :
    (Instr.viewFetchReturn 0 9 [{ data := 0, resp := .okay }]).wellFormed = false ∧
      (Instr.viewFetchReturn 0 8 [{ data := 0, resp := .okay }]).wellFormed = true := by
  decide +kernel

theorem test_unknown_command_with_a_code_of_the_table_is_ill_formed :
    (Instr.unknownCommand 0x91).wellFormed = false ∧ (Instr.unknownCommand 0x92).wellFormed = true := by
  decide +kernel

/-! ### Records written out from Table 12-2, byte 0 last -/

theorem test_decode_pool_set :
    decodeRecord 0x0000000000000000000000000000_0000000000200000_0064_0000002400000000_0000_0001_00000001 =
      .poolSet 0x2400000000 100 0x200000 := by
  decide +kernel

theorem test_decode_stream_open :
    decodeRecord 0x000000001068_0000000000001000_0000000240000000_FF_00_02_0000_0010_00000002 =
      .streamOpen 2 0 255 0x240000000 4096 4200 := by
  decide +kernel

theorem test_decode_clip_open :
    decodeRecord 0x02_03_02_0000ABCD_0000_0020_00000003 = .clipOpen 0xABCD 2 3 2 := by
  decide +kernel

theorem test_decode_camera_set :
    decodeRecord 0x01_03_0014_0064_18_9C40_EA60_05_0000_0030_00000004 = .cameraSet 5 60000 40000 24 100 20 3 1 := by
  decide +kernel

theorem test_decode_fault_ack : decodeRecord 0x00000102_0000_0040_00000005 = .faultAck 258 := by
  decide +kernel

theorem test_decode_look_load :
    decodeRecord 0x0000000500000100_03_0000_0050_00000006 = .lookLoad 3 0x500000100 := by
  decide +kernel

theorem test_decode_bands_set :
    decodeRecord 0x01_FF_0013_000A_04_0009_0000_02_01_0000_0065_00000007 = .bandsSet 1 2 0 9 4 10 19 255 1 := by
  decide +kernel

theorem test_decode_shuttle_go : decodeRecord 0x01_00000014_00_0000_0071_00000008 = .shuttleGo 0 20 1 := by
  decide +kernel

theorem test_decode_panel_bind : decodeRecord 0x01_00_06_04_0000_0080_00000009 = .panelBind 4 6 0 1 := by
  decide +kernel

theorem test_decode_other_code : decodeRecord 0x05_FFFF_0092_00000009 = .unknownCommand 0x92 := by
  decide +kernel

/-! ### Worked examples of the spec -/

/-- Table 3-4 and cases 2 to 4 of Section 3.5.1. -/
theorem test_fingerprints_of_the_worked_files :
    [0x1, 0xFFFFFFFF, 0x10].foldl feedWord (1, 0) = (22, 30) ∧
      [0x1, 0xFFFFFFFF, 0x10, 0x7].foldl feedWord (1, 0) = (29, 59) ∧
      (beatWords 0x0700000001 0x1F 5).foldl feedWord (1, 0) = (9, 11) ∧ [0xFFFFFFFA].foldl feedWord (1, 0) = (0, 0) := by
  decide +kernel

/-- The first beat of case 1, taken by a stream with expected length 12, ends it GOOD with fingerprint 128849018902. -/
theorem test_stream_of_twelve_bytes_ends_good :
    (bodies (streamBeat 0 (2 ^ 33) 0x00000010FFFFFFFF00000001 0xFFF []
      (setStream 0 (some { sourceStream with expected := 12 }) ingesting)).1).head? =
      some (.streamEnd 0 0 .source .good true 12 12 (some 128849018902) none) := by
  decide +kernel

/-- Table 2-1: with expected 6, the four beats of request 1 are taken as TRACKER_CLEAR records; its second slot written in
part is ignored PARTIAL with the sequence seen. -/
theorem test_intake_of_the_worked_requests :
    let start := State.reset.withCir { Intake.reset with expected := 6 }
    let clear := fun (n : BitVec 256) => fullBeat (BitVec.ofNat 256 (2 ^ 32 * 0x33) + n)
    (ringBeat (burst 320 3) [clear 6, fullBeat 0, clear 7, fullBeat 0] 3 start).cir.expected = 8 ∧
      (ringBeat (burst 448 2) [clear 8, fullBeat 0, clear 9] 2 (start.withCir { start.cir with expected := 8 })).cir.queue
        = [{ time := 0, body := .ignored 8 .partly 9 9 }] := by
  decide +kernel

/-- Table 2-3, three of its rows: report A, the consumed count 40, the consumed count 90. -/
theorem test_report_ring_of_the_worked_sequence :
    let start := State.reset.withCir { Intake.reset with p := 62, w := 62 }
    let full := State.reset.withCir { Intake.reset with p := 63, w := 0, queue := [{ time := 0, body := .lamp 0 .off .red 0 }] }
    let last := State.reset.withCir { Intake.reset with p := 65, w := 2, c := 40 }
    let counts := fun (s : State) => (s.cir.p, s.cir.c, s.cir.w, s.cir.queue.length)
    counts (createReport (.lamp 0 .off .red 0) start) = (63, 0, 0, 0) ∧ counts (after (.consumedCountWrite 40) full) = (64, 40, 1, 0) ∧
      counts (after (.consumedCountWrite 30) last) = (65, 40, 2, 0) ∧ counts (after (.consumedCountWrite 90) last) = (65, 65, 2, 0) := by
  decide +kernel

/-- The slot and the camera of Section 5.7.1. -/
def measuring : State :=
  setFrameSlot 0 { FrameSlot.empty with state := .filling, camera := 2, width := 16, height := 16, stride := 128, expected := 64 }
    (setCamera 2 { Camera.reset with configured := true, clipLevel := 60000, hotLevel := 40000 } pooled)

/-- Table 5-5. -/
theorem test_measurement_of_one_beat :
    let d : BeatData := BitVec.ofNat 256 (50000 * (1 + 2 ^ 16 + 2 ^ 32) + 2 ^ 64 * (1000 + 2 ^ 16 * 2000 + 2 ^ 32 * 3000) +
      2 ^ 128 * (10000 * (1 + 2 ^ 16 + 2 ^ 32)) + 2 ^ 192 * (62000 + 100 * (2 ^ 16 + 2 ^ 32)))
    let f := frameSlotAt (bodyBeat (burst 0 15) 0 0 416 d (BitVec.allOnes 32) measuring).1 0
    f.zones = [1, 1, 1, 0, 1, 0] ∧ f.clipped = 1 ∧ f.lumaSum = 77450 ∧ f.candidates = [(4, 1)] ∧ f.signature = 2944993720 ∧
      f.counted = 1 := by
  decide +kernel

/-- Table 6-3: the count of its first frame, and the faults of its fourth, fifth and sixth. -/
theorem test_checks_of_the_worked_frames :
    let cam := { Camera.reset with configured := true, exposureHigh := 100, hysteresis := 20, firstFrame := false }
    let frame := fun (n ff signature : Nat) => { FrameSlot.empty with
      state := .complete, camera := 5, frame := n, signature := signature, timecode := { hh := 1, mm := 0, ss := 20, ff := ff } }
    let at_ := fun (n t signature : Nat) (w : Bool) => setCamera 5
      { cam with lastNumber := some n, lastCount := some t, lastSignature := some signature, warning := w } State.reset
    timecodeCount 24 (frame 480 0 1).timecode = 86880 ∧
      faults (trackFrame (frame 485 5 3) 70 0 (at_ 482 86882 2 true)) = [(.gap, 2)] ∧
      faults (trackFrame (frame 486 9 4) 101 0 (at_ 485 86885 3 false)) = [(.tcBreak, 86886), (.exposureClip, 101)] ∧
      faults (trackFrame (frame 486 9 4) 101 0 (at_ 486 86889 4 true)) = [(.duplicateNumber, 486)] := by
  decide +kernel

/-- Table 6-4, frames 3 and 4. -/
theorem test_tracker_of_the_worked_positions :
    let cam := { Camera.reset with persistence := 3 }
    let entry := fun (x y hits misses : Nat) (r : Bool) =>
      ({ camera := 4, x := x, y := y, hits := hits, misses := misses, reported := r } : TrackerEntry)
    let frame := fun (l : List (Nat × Nat)) => { FrameSlot.empty with camera := 4, candidates := l }
    let tracked := fun (l : List TrackerEntry) => setCamera 4 cam (State.reset.withCtu { CameraTrack.reset with tracker := l })
    let third := trackerSteps (frame [(100, 50), (900, 9)]) (tracked [entry 100 50 2 0 false, entry 700 20 1 1 false])
    let fourth := trackerSteps (frame []) (tracked [entry 100 50 3 0 true, entry 700 20 1 2 false, entry 900 9 1 0 false])
    third.ctu.tracker = [entry 100 50 3 0 true, entry 700 20 1 2 false, entry 900 9 1 0 false] ∧
      faults third = [(.stuckPixel, 3)] ∧
      fourth.ctu.tracker = [entry 100 50 3 1 true, entry 900 9 1 1 false] := by
  decide +kernel

/-- Table 6-5, frame ends 3 and 6. -/
theorem test_pairing_of_the_worked_frames :
    let held := fun (right : Bool) (t mean : Nat) =>
      ({ right := right, frame := 1, timecode := { hh := 23, mm := 59, ss := 59, ff := 22 }, count := t, mean := mean,
         clip := none, label := 0 } : HeldRecord)
    let cam := { Camera.reset with configured := true, firstFrame := false }
    let paired := fun (q : List HeldRecord) => setPair 0 { isSet := true, left := 0, right := 1, tolerance := 500, queue := q }
      (setCamera 0 cam (setCamera 1 cam State.reset))
    let third := stereoStep { FrameSlot.empty with camera := 1, timecode := { hh := 23, mm := 59, ss := 59, ff := 23 } } cam 20050
      (paired [held false 2073598 20000, held false 2073599 20100])
    let sixth := stereoStep { FrameSlot.empty with camera := 1, timecode := { hh := 0, mm := 0, ss := 0, ff := 1 } } cam 21800
      (paired [held false 1 21000])
    faults third = [(.stereoUnpaired, 0)] ∧ (pairAt third 0).queue = [] ∧ faults sixth = [(.stereoExposure, 1376277800)] := by
  decide +kernel

/-- Table 8-7 with the blend of R124, the paths of R125, and G of Table 8-8's stage 1. -/
theorem test_pixel_of_the_worked_case :
    let curve := (List.range 17).map (fun i => 2048 * i) ++ (List.range 16).map (fun i => 32768 + 1024 * (i + 1))
    let look : Look :=
      { lift := { r := -1000, g := 0, b := 500 }, gain := { r := 20480, g := 16384, b := 12288 }
        curve := { r := curve, g := curve, b := curve }
        matrix := { r := { r := 4506, g := -205, b := -205 }, g := { r := -205, g := 4506, b := -205 }
                    b := { r := -205, g := -205, b := 4506 } }
        curveBypass := false, matrixBypass := false }
    let x : Rgb Nat := { r := 40000, g := 30000, b := 20000 }
    graded look x = { r := 664, g := 471, b := 209 } ∧
      blend (graded look x) { r := 512, g := 512, b := 512 } 64 = { r := 626, g := 481, b := 285 } ∧
      outputs x = { r := 624, g := 468, b := 312 } ∧ zoneColour defaultZones x = { r := 0, g := 700, b := 0 } ∧
      stageLiftGain 65535 4095 65535 = 65535 ∧ stageLiftGain 2000 (-4096) 16384 = 0 := by
  decide +kernel

/-- Section 9.6.1: the source beats of the worked read, and its five own reads. -/
theorem test_translation_of_the_worked_read :
    let window : ViewWindow := { base := 2 ^ 36, width := 1920, height := 1080, stride := 7680 }
    let pin : Pin := { slot := 0, generation := 1, frame := 9, width := 4096, height := 2160, stride := 32768 }
    let set := { Settings.reset with on := true, x0 := 100, y0 := 40, decimation := 2, hFlip := true, overlayAddress := 4096,
                                     overlayStride := 7680, strip1 := { start := 0, count := 64 } }
    let copies : FrameCopies := { lookA := identityLook, lookB := none, bands := [], strips := [{ start := 0, count := 64 }],
                                  zones := defaultZones, clipLevel := 65535 }
    let s := setView 0 { View.reset with window := some window, current := set, pin := some pin, copies := some copies } pooled
    ((viewAt (viewRead 0 7 10 0 16 window s) 0).reads.map (fun r => r.reads.map (fun o => (o.addr, o.beats)))) =
      [[(2 ^ 34 + 1995808, 16), (2 ^ 34 + 1995808 + 512, 16), (2 ^ 34 + 1995808 + 1024, 16), (2 ^ 34 + 1995808 + 1536, 16),
        (4096 + 76800, 16)]] := by
  decide +kernel

/-- The profile of Section 10.5.1. -/
def workedMotion : Motion :=
  { Motion.reset with
    profile := { s0 := 64, s1 := 128, s2 := 256, s3 := 512, s4 := 1024, n := 2, preDwell := 0, postDwell := 63, stopOnFault := false }
    start := some 0, target := some 5120, looping := true }

/-- Table 10-3, boundaries 2, 9 and 11, and the first boundary of Table 10-4. -/
theorem test_boundaries_of_the_worked_move :
    let at_ := fun (p c : Nat) (phase : Phase) => { workedMotion with position := p, stageCounter := c, phase := phase }
    let after_ := fun (s : State) (m : Motion) => let r := boundaryMotion s 3 m
      (r.1.position, r.1.stageCounter, r.1.phase, r.1.displayed, r.2)
    let stops := { at_ 768 0 .accel3 with profile := { workedMotion.profile with stopOnFault := true }, displayed := 3 }
    let faulty := State.reset.withFl { FaultList.reset with records := [{ record 1 .frozenFrame with camera := some 3 }] }
    after_ State.reset (at_ 128 1 .accel1) = (256, 0, .accel2, 1, none) ∧
      after_ State.reset (at_ 3840 0 .cruise) = (4352, 1, .decel3, 17, none) ∧
      ((after_ State.reset (at_ 4864 0 .decel2)).1 = 5120 ∧ (after_ State.reset (at_ 4864 0 .decel2)).2.2 = (.arrived, 20, some 20)) ∧
      after_ faulty stops = (1280, 1, .accel3, 5, none) ∧ (boundaryMotion faulty 3 stops).1.target = some 2304 := by
  decide +kernel

/-- Table 1-6, sends 2 and 3: at run count 7 a forwarded request goes before the look fetch, at 8 the fetch goes. -/
theorem test_arbiter_of_the_worked_sequence :
    let entry : BookEntry := { tag := 0, dir := .read, req := burst 0 0, kind := .forwarded, writeBeats := [], readBeats := [],
                               marks := [], answer := none }
    let busy := fun (n : Nat) => State.reset.withTu { Transit.reset 0 with
      book := [entry], arrival := [.forwarded 0], background := [.lookFetch 3 4096], runCount := n, nextTag := 1 }
    (after .arbiterSend (busy 7)).tu.memOut = some (.forwarded .read (burst 0 0)) ∧ (after .arbiterSend (busy 7)).tu.runCount = 8 ∧
      (after .arbiterSend (busy 8)).tu.memOut = some (.lookFetch 4096) ∧ (after .arbiterSend (busy 8)).tu.runCount = 0 := by
  decide +kernel

/-- Table 4-5: the removal's reports, in order, and the lamp. -/
theorem test_card_pulled_during_ingest :
    let card : CardSlot := { detLow := false, present := true, session := 3, changePending := some 0, lamp := .amberFlash }
    let s := (setCardSlot 4 card (setStream 7 (some { sourceStream with clip := 9 })
      (setClip 9 (some { openClip with slot := 4, session := 3 }) State.reset))).withTime 5
    let t := after (.cardRemoval 4) s
    faults t = [(.sourceUnverifiable, 7), (.cardPulled, 4)] ∧ critOpenOf (some 9) t = 2 ∧ (cardSlotAt t 4).lamp = .off ∧
      (bodies t).getLast? = some (.lamp 4 .amberFlash .off 3) ∧ (bodies t).length = 5 := by
  decide +kernel

/-- Table 11-2: the press of key 4 at time 10005 locates frame 140. -/
theorem test_fault_next_of_the_worked_press :
    let key : Key := { low := true, pressed := false, changePending := some 10000, pressTime := none, repeatDue := none }
    let at_ := fun (id n : Nat) => { record id .gap with frame := some (n, { hh := 0, mm := 0, ss := 0, ff := 0 }) }
    let s := (((setMotion 0 { Motion.reset with displayed := 100, position := 25600 } (setView 0
        { View.reset with current := { Settings.reset with camera := 2 } } State.reset)).withFl
          { FaultList.reset with records := [at_ 1 300, at_ 2 160, at_ 3 140] }).withPu
        { Panel.reset with keys := Panel.reset.keys.set 4 key
                           bindings := Panel.reset.bindings.set 4 { action := .faultNext, view := 0, repeatOn := true } }).withTime 10005
    let t := after (.keyPress 4) s
    bodies t = [.panel 4 .down .faultNext (some 0) none (some 140) none] ∧ (motionAt t 0).pendingLocate = some 140 ∧
      (keyAt t 4).repeatDue = some 10505 := by
  decide +kernel

/-! ### Entries of the small states -/

theorem streams_of_reset (i : Nat) : streamAt State.reset i = none := by
  simp only [streamAt, State.reset, StreamUnit.reset, List.getD_eq_getElem?_getD, List.getElem?_replicate]
  split <;> rfl

theorem clips_of_reset (i : Nat) : clipAt State.reset i = none := by
  simp only [clipAt, State.reset, ClipTracker.reset, List.getD_eq_getElem?_getD, List.getElem?_replicate]
  split <;> rfl

theorem clips_of_ingesting (i : Nat) (c : Clip) (h : clipAt ingesting i = some c) : i = 0 ∧ c = openClip := by
  have e : clipAt ingesting i = clipAt (setClip 0 (some openClip) State.reset) i := clipAt_ct rfl i
  rw [e, clipAt_setClip] at h
  split at h
  · exact ⟨by omega, (Option.some.inj h).symm⟩
  · rw [clips_of_reset] at h; cases h

theorem streams_of_ingesting (i : Nat) (e : Stream) (h : streamAt ingesting i = some e) : i = 0 ∧ e = sourceStream := by
  rw [ingesting, streamAt_setStream] at h
  split at h
  · exact ⟨by omega, (Option.some.inj h).symm⟩
  · rw [show streamAt (setClip 0 (some openClip) State.reset) i = streamAt State.reset i from streamAt_su rfl i,
      streams_of_reset] at h
    cases h

/-! ### Witnesses: one step, the Transit Unit -/

theorem test_StepRunsTheFrontCommand_witness :
    State.reset.pending = [] ∧ step State.reset = .next State.reset ∧
      step (State.reset.withPending [.timeBaseTick]) =
        .next ((State.reset.withTime 1).withPu { Panel.reset with jogLast := some (true, true) }) :=
  ⟨rfl, rfl, rfl⟩

/-- An order-book entry of a forwarded request, with tag 0. -/
def entry (dir : Dir) (req : Request) : BookEntry :=
  { tag := 0, dir := dir, req := req, kind := .forwarded, writeBeats := [], readBeats := [], marks := [], answer := none }

/-- A full order book; a request in view 0's last row (tapped and whole), across two rows, exclusive in the view, exclusive
in the pool, exclusive outside all, and tapped outside all. -/
theorem test_RequestsAreForwardedOrAnswered_witness :
    let full := State.reset.withTu { Transit.reset 0 with book := List.replicate 64 (entry .read (burst 0 0)) }
    let whole := burst (2 ^ 35 + 960) 1
    let across := burst (2 ^ 35 + 32) 1
    let alone := fun (r : Request) => { r with exclusive := true }
    let inView := fun (req : Request) =>
      ∃ w ∈ viewWindows viewing 0 ++ viewWindows viewing 1, (requestSpan req).overlaps w = true
    let inPool := fun (s : State) (req : Request) => ∃ w ∈ poolWindows s, (requestSpan req).overlaps w = true
    let lies := fun (req : Request) (w : ViewWindow) => w.base ≤ req.addr.toNat ∧
      req.addr.toNat + 32 * (req.len.val + 1) ≤ w.base + w.stride * w.height ∧
      (req.addr.toNat - w.base) / w.stride = (req.addr.toNat + 32 * req.len.val - w.base) / w.stride
    64 ≤ full.tu.book.length ∧ ¬64 ≤ viewing.tu.book.length ∧ inView whole ∧ isTapped whole = true ∧
      (viewAt viewing 0).window = some smallWindow ∧ lies whole smallWindow ∧ inView across ∧
      (∀ v, v < 2 → ∀ w ∈ (viewAt viewing v).window, ¬lies across w) ∧ inView (alone whole) ∧ isTapped (alone whole) = false ∧
      ¬inPool State.reset (alone (burst 0 0)) ∧ inPool pooled (alone (burst (2 ^ 34 + 16352) 0)) ∧
      ¬inPool pooled (burst (2 ^ 34 + 16384) 0) := by
  decide +kernel

/-- View 0's window behind stream 0's and behind the pool: an untapped request with bytes in both is answered ERROR, ends the
stream (R37), and is counted as stray (R75). -/
theorem test_untapped_requests_over_a_view_and_another_window :
    let behind := fun (base : Nat) (s : State) => setView 0 { View.reset with window := some { smallWindow with base := base } } s
    let alone := fun (a : Addr) => { burst a 1 with exclusive := true }
    let stream := after (.readRequest (alone (2 ^ 33 + 4064))) (behind (2 ^ 33 + 4096) ingesting)
    let pool := after (.writeRequestAddress (alone (2 ^ 34 + 16352))) (behind (2 ^ 34 + 16384) pooled)
    (streamAt stream 0 = none ∧ stream.tu.arrival = []) ∧ pool.fiu.stray = 1 ∧ pool.tu.arrival = [] := by
  decide +kernel

/-- Reset with a write request from an address under way, its entry in the order book. -/
def writing (req : Request) (discard : Bool) : State :=
  State.reset.withTu { Transit.reset 0 with
    book := [entry .write req], inWrites := [{ tag := 0, req := req, discard := discard, arrived := 0 }], nextTag := 1 }

theorem test_WriteBeatsReachTheirOwners_witness :
    let holds := fun (s : State) => s.tu.book.find? (fun e => e.tag == 0) = some (entry .write (burst 4064 1))
    let odd := { burst 4064 1 with exclusive := true }
    let in_ := fun (a base size : Nat) => base ≤ a ∧ a < base + size
    State.reset.tu.inWrites = [] ∧ holds (writing (burst 4064 1) true) ∧ holds (writing (burst 4064 1) false) ∧
      isTapped (burst 4064 1) = true ∧
      ((writing odd false).tu.inWrites = [{ tag := 0, req := odd, discard := false, arrived := 0 }] ∧ isTapped odd = false) ∧
      in_ 4064 0 4096 ∧ in_ 4096 4096 4032 ∧ in_ 8096 4096 4032 ∧ in_ 8128 8128 64 ∧
      (¬in_ (2 ^ 34 + 8192 + 224) 0 8192 ∧ pooled.fiu.pool = some { base := 2 ^ 34, count := 2, size := 8192 } ∧
        in_ (2 ^ 34 + 8192 + 224) (2 ^ 34) (2 * 8192)) ∧
      (streamAt ingesting 0 = some sourceStream ∧ in_ (2 ^ 33 + 4064) sourceStream.base sourceStream.length ∧
        0 < ingesting.su.table.length ∧ ingesting.fiu.pool = none) := by
  decide +kernel

/-- A discarded write's beat whose entry has left the order book is counted, and a write in front of it is not touched. -/
theorem test_WriteBeatsReachTheirOwners_discarded_witness :
    let w : InWrite := { tag := 0, req := burst 4064 1, discard := true, arrived := 0 }
    let s := State.reset.withTu { Transit.reset 0 with inWrites := [w], nextTag := 1 }
    s.tu.inWrites = w :: [] ∧ w.discard = true ∧ s.tu.book = [] ∧
      (after (.writeBeat 0 0) s).tu.inWrites = [{ w with arrived := 1 }] ∧
      (after (.writeBeat 0 0) (after (.writeBeat 0 0) s)).tu.inWrites = [] := by
  decide +kernel

theorem test_WriteBeatsReachTheirOwners_nowhere_witness :
    ∀ k, ¬∃ e, streamAt State.reset k = some e := by
  intro k h; obtain ⟨e, h⟩ := h; rw [streams_of_reset] at h; cases h

/-- A report made ready. -/
def report : ReadyReport :=
  { sequence := 1, slot := 0, time := 0, dropped := 0, body := .lamp 0 .off .amber 1 }

/-- A view read in service with one source read of one beat sent and no data of it back. -/
def served : ServedRead :=
  { tag := 0, row := 0, column := 0, beats := 1, width := 16, height := 16, settings := { Settings.reset with on := true },
    mix := Mix.reset, pin := some { slot := 0, generation := 0, frame := 9, width := 16, height := 16, stride := 128 },
    copies := none, frameCount := 1, pinLost := false,
    reads := [{ overlay := false, addr := 2 ^ 34 + 256, beats := 1, data := [] }] }

theorem test_ArbiterSendsByTheRunCount_witness :
    let s := fun (b : List BackgroundItem) (a : List ArrivalItem) (n : Nat) =>
      (setView 0 { View.reset with reads := [served] } State.reset).withTu { Transit.reset 0 with
        book := [entry .write (burst 0 0)], background := b, arrival := a, runCount := n }
    (State.reset.tu.background = [] ∧ State.reset.tu.arrival = []) ∧
      ((s [.report report] [.forwarded 0] 8).tu.background = [.report report] ∧ 8 ≤ (s [] [] 8).tu.runCount) ∧
      ((s [.lookFetch 7 4096] [] 0).tu.background = [.lookFetch 7 4096] ∧ (s [.lookFetch 7 4096] [] 0).tu.arrival = []) ∧
      ((s [.report report] [.forwarded 0] 7).tu.runCount < 8 ∧
        (s [.report report] [.forwarded 0] 7).tu.book.find? (fun e => e.tag == 0) = some (entry .write (burst 0 0))) ∧
      ((s [] [.viewRead 0 0] 0).ve.flatMap (fun x => x.reads)).find? (fun r => r.tag == 0) = some served ∧
      served.reads[0]? = some { overlay := false, addr := 2 ^ 34 + 256, beats := 1, data := [] } := by
  decide +kernel

/-- A write of two beats sent with one of them arrived, and a report write behind it: the first beat goes to memory; the second
and the report's two follow when it arrives. -/
theorem test_write_data_goes_in_the_order_sent :
    let e := { entry .write (burst (2 ^ 36) 1) with writeBeats := [fullBeat 5] }
    let s := State.reset.withTu { Transit.reset 0 with
      book := [e], inWrites := [{ tag := 0, req := e.req, discard := false, arrived := 1 }], arrival := [.forwarded 0]
      background := [.report report], nextTag := 1 }
    let both := after .arbiterSend (after .arbiterSend s)
    let last : WriteBeat := { data := 6, strobes := 1 }
    let done := after (.writeBeat 6 1) both
    (after .arbiterSend s).tu.memData = [fullBeat 5] ∧
      (both.tu.memData = [fullBeat 5] ∧ both.tu.dataQueue.map (fun d => d.sent) = [1, 0]) ∧
      done.tu.memData = [last, fullBeat (reportFirst report), fullBeat (reportSecond report)] ∧ done.tu.dataQueue = [] := by
  decide +kernel

/-- Write data to send: none, an entry with beats still to arrive, one with all of them, and a report's. -/
theorem test_ArbiterSendsByTheRunCount_data_witness :
    let e := { entry .write (burst 0 1) with writeBeats := [fullBeat 5] }
    let s := fun (x : BookEntry) => State.reset.withTu { Transit.reset 0 with book := [x] }
    let l : List DataWrite := [{ write := .forwarded 0, sent := 0 }, { write := .report report, sent := 1 }]
    (s e).tu.book.find? (fun x => x.tag == 0) = some e ∧ e.writeBeats.length < e.req.len.val + 1 ∧
      dataReady (s e) l = ([fullBeat 5], [{ write := .forwarded 0, sent := 1 }, { write := .report report, sent := 1 }]) ∧
      dataReady (s { e with writeBeats := [fullBeat 5, fullBeat 6] }) l =
        ([fullBeat 5, fullBeat 6, fullBeat (reportSecond report)], []) := by
  decide +kernel

/-- Reset with the entry of a sent request. -/
def sent (dir : Dir) (inWrites : List InWrite) (answer : Option UpAnswer) : State :=
  State.reset.withTu { Transit.reset 0 with
    book := [{ entry dir (burst 0 1) with answer := answer }], inWrites := inWrites
    sentWrites := if dir = .write then [.report report, .forwarded 0] else [] }

/-- A sent write behind a report write, with its data all arrived or not; a sent read; a held and a missing answer; and
reset, where nothing is named. -/
theorem test_ResponsesReturnAndLeave_witness :
    let w : InWrite := { tag := 0, req := burst 0 1, discard := false, arrived := 1 }
    let ready : UpAnswer := .write .okay
    (State.reset.tu.sentWrites = [] ∧ State.reset.tu.book = []) ∧
      ((sent .write [] none).tu.sentWrites = [.report report] ++ .forwarded 0 :: [] ∧
        (sent .write [] none).tu.book.find? (fun e => e.tag == 0) = some (entry .write (burst 0 1)) ∧ (burst 0 1).id = 3 ∧
        (sent .write [] none).tu.inWrites = []) ∧
      (∃ x ∈ (sent .write [w] none).tu.inWrites, x.tag = 0) ∧
      ((sent .read [] none).tu.book = [] ++ entry .read (burst 0 1) :: [] ∧
        ArrivalItem.forwarded 0 ∉ (sent .read [] none).tu.arrival) ∧
      ((sent .write [] (some ready)).tu.book = [] ++ { entry .write (burst 0 1) with answer := some ready } :: []) := by
  decide +kernel

/-! ### Witnesses: reports and records -/

theorem test_RingSlotsAreJudgedAndRun_witness :
    (0 + 1 < (burst 4000 3).len.val + 1 ∧ 4000 + 32 * 2 + 32 ≥ 4096) ∧ (0 + 1 < (burst 0 1).len.val + 1 ∧ 0 + 32 < 4096) ∧
      ¬(1 + 1 < (burst 0 1).len.val + 1 ∧ 32 + 32 < 4096) ∧ ¬(0 + 1 < (burst 4064 1).len.val + 1 ∧ 4064 + 32 < 4096) := by
  decide +kernel

/-- A code of the table, one outside it, and a CLIP_RETIRE that is refused at reset with its one report created. -/
theorem test_RefusedRecordsChangeNothing_witness :
    (0x91 : BitVec 16).toNat ∈ codeTable ∧ (0x92 : BitVec 16).toNat ∉ codeTable ∧
      commandFields (.clipRetire 64) ≠ none ∧ exec (.clipRetire 64) State.reset = .next (after (.clipRetire 64) State.reset) ∧
      Room 1 State.reset ∧
      Created State.reset (after (.clipRetire 64) State.reset) ([] ++ [.completion 1 0x21 (.refused .badArgument 0)]) := by
  let r : ReadyReport :=
    { sequence := 1, slot := 0, time := 0, dropped := 0, body := .completion 1 0x21 (.refused .badArgument 0) }
  refine ⟨by decide, by decide, by decide, rfl, Nat.le_of_ble_eq_true rfl, ?_, Or.inr ⟨?_, ?_, ?_, ?_, ?_, r, ?_⟩, ?_⟩
  all_goals and_intros <;> decide +kernel

/-- A report waiting in the pending queue: with room, at P - C = 62 and 63, and behind a waiting report write; a full queue. -/
theorem test_ReportsAreMadeReadyOrDropped_witness :
    let r : Report := { time := 0, body := .lamp 0 .off .amber 1 }
    let s := fun (p c : Nat) (b : List BackgroundItem) =>
      (State.reset.withTu { Transit.reset 0 with background := b }).withCir { Intake.reset with p := p, c := c, queue := [r] }
    let room := fun (s : State) => (2 ^ 32 + s.cir.p - s.cir.c) % 2 ^ 32 < 63
    State.reset.cir.queue = [] ∧ ¬room (s 63 0 []) ∧ room (s 61 4294967295 []) ∧ (s 0 0 []).tu.background = [] ∧
      BackgroundItem.report report ∈ (s 0 0 [.report report]).tu.background ∧ (s 0 0 []).cir.queue = r :: [] ∧
      32 ≤ (State.reset.withCir { Intake.reset with queue := List.replicate 32 r }).cir.queue.length ∧
      (State.reset.withCir { Intake.reset with queue := List.replicate 31 r }).cir.queue.length < 32 := by
  decide +kernel

/-- What SNAPSHOT records at reset. -/
def noValues : SnapshotValues :=
  { streams := 0, clips := 0, filling := 0, complete := 0, bad := 0, faults := 0, tracker := 0, pendingReports := 0, stray := 0,
    framesDropped := 0, fetchFaults0 := 0, fetchFaults1 := 0, unlisted := 0, p := 0, c := 0 }

theorem test_ReportWritesAreAnsweredAndSnapshotsEnd_witness :
    let snap := { report with body := .snapshot 1 noValues }
    let s := fun (r : ReadyReport) => State.reset.withTu { Transit.reset 0 with sentWrites := [.forwarded 0, .report r] }
    State.reset.tu.sentWrites = [] ∧
      ((s report).tu.sentWrites = [.forwarded 0] ++ .report report :: [] ∧ report.sequence = (1 : BitVec 32).toNat) ∧
      (∀ m y, report.body ≠ .snapshot m y) ∧
      ((s snap).tu.sentWrites = [.forwarded 0] ++ .report snap :: [] ∧ snap.body = .snapshot 1 noValues) ∧
      State.reset.cir.queue.length < 32 ∧
      32 ≤ (State.reset.withCir { Intake.reset with queue := List.replicate 32 { time := 0, body := report.body } }).cir.queue.length :=
  ⟨rfl, ⟨by decide +kernel, by decide⟩, ⟨nofun, ⟨by decide +kernel, rfl⟩, by decide +kernel, by decide +kernel⟩⟩

/-- One body of each kind, with the lists of the lengths the records have. -/
theorem test_ReportRecordsAreWrittenByTheTables_witness :
    let x := record 1 .gap
    let f := { FrameSlot.empty with state := .complete }
    (∃ d0 d1 d2 d3, openClip.dests = [d0, d1, d2, d3]) ∧ (∃ z0 z1 z2 z3 z4 z5, f.zones = [z0, z1, z2, z3, z4, z5]) ∧
      ({ report with body := .completion 1 0x91 (.clamped 1 7) } : ReadyReport).body = .completion 1 0x91 (.clamped 1 7) ∧
      ({ report with body := .ignored 63 .slot 1 2 } : ReadyReport).body = .ignored 63 .slot 1 2 ∧
      ({ report with body := .fault x true none none } : ReadyReport).body = .fault x true none none ∧
      x.frame = some (9, { hh := 0, mm := 0, ss := 0, ff := 0 }) ∧ ({ x with frame := none }).frame = none ∧
      ({ report with body := .view 1 .slotLost 1 served.pin 3 } : ReadyReport).body = .view 1 .slotLost 1 served.pin 3 :=
  ⟨⟨_, _, _, _, rfl⟩, ⟨_, _, _, _, _, _, rfl⟩, rfl, rfl, rfl, rfl, rfl, rfl⟩

theorem test_RecordsDecodeToTheirCommands_witness :
    (Instr.clipRetire 63).wellFormed = true ∧ encodeRecord 64 (.clipRetire 63) = some 0x3F_0000_0021_00000040 ∧
      (Instr.unknownCommand 0xFFFF).wellFormed = true ∧
      encodeRecord 1 (.unknownCommand 0xFFFF) = some 0x0000_FFFF_00000001 := by
  decide +kernel

/-! ### Witnesses: streams and clips -/

/-- Clip 0 in a state, with its card in slot 3 and in the session given. -/
def withClip (c : Clip) : State :=
  setClip 0 (some c) State.reset

/-- A running DEST stream of clip 0 on destination 3. -/
def destStream : Stream :=
  { sourceStream with role := .dest 3 }

/-- The tests of Table 3-2 as the statement has them. -/
def openTest (s : State) (i role d a n : Nat) : Option Reason :=
  let held := (clipAt s i).map (fun c => c.state)
  let verdict := (clipAt s i).map (fun c => (destAt c d).verdict)
  if ¬(i ≤ 63 ∧ (role = 0 ∨ role = 1 ∧ d ≤ 3) ∧ a % 32 = 0 ∧ n % 32 = 0 ∧ 4096 ≤ n ∧ n ≤ 2 ^ 32 ∧ a + n ≤ 2 ^ 40) then
    some .badArgument
  else if clipAt s i = none then some .unknownClip
  else if s.su.table.all (fun x => x.isSome) then some .noRoom
  else if role = 0 ∧ (held = some .sourced ∨ held = some .verified ∨ sourceRunning s i = true) then some .wrongState
  else if role = 0 ∧ held = some .spoiled ∧ streamRunning s i = true then some .busy
  else if role = 1 ∧ held = some .spoiled then some .wrongState
  else if role = 1 ∧ verdict = some .matched then some .alreadyVerified
  else if role = 1 ∧ destRunning s i d = true then some .busy
  else if ∃ w ∈ windowSet s, 0 < w.size ∧ w.base < a + n ∧ a < w.base + w.size then some .overlap
  else none

/-- Each reason of Table 3-2 and how STREAM_OPEN is answered; the windows stand at their bounds. -/
theorem test_StreamOpenTestsAndOpens_witness :
    let spoiled := withClip { openClip with state := .spoiled }
    let fullTable := (withClip openClip).withSu { StreamUnit.reset with table := List.replicate 24 (some destStream) }
    let checked := withClip { openClip with dests := [Dest.empty, Dest.empty, Dest.empty, { verdict := .matched, held := none }] }
    let try_ := fun (s : State) (role d a n : Nat) => (openTest s 0 role d a n,
      answer (.streamOpen 0 (BitVec.ofNat 8 role) (BitVec.ofNat 8 d) (BitVec.ofNat 64 a) (BitVec.ofNat 64 n) 0) s)
    let no := fun (r : Reason) => (some r, some (Answer.refused r 0))
    try_ (withClip openClip) 0 0 (2 ^ 40 - 4096) 4128 = no .badArgument ∧ try_ (withClip openClip) 1 4 8192 4096 = no .badArgument ∧
      try_ State.reset 0 0 8192 4096 = no .unknownClip ∧ try_ fullTable 0 0 8192 4096 = no .noRoom ∧
      try_ (withClip { openClip with state := .sourced }) 0 0 8192 4096 = no .wrongState ∧
      try_ (setStream 1 (some destStream) spoiled) 0 0 8192 4096 = no .busy ∧ try_ spoiled 1 0 8192 4096 = no .wrongState ∧
      try_ checked 1 3 8192 4096 = no .alreadyVerified ∧
      try_ (setStream 1 (some destStream) (withClip openClip)) 1 3 8192 4096 = no .busy ∧
      try_ (withClip openClip) 0 0 8160 4096 = no .overlap ∧
      try_ (withClip openClip) 0 0 (2 ^ 40 - 4096) 4096 = (none, some (.done 0)) ∧
      try_ (withClip openClip) 1 3 8192 (2 ^ 32) = (none, some (.done 0)) ∧ try_ spoiled 0 255 8192 4096 = (none, some (.done 0)) ∧
      clipAt (withClip openClip) 0 = some openClip ∧ 0 < (withClip openClip).su.table.length ∧ streamAt (withClip openClip) 0 = none := by
  decide +kernel

/-- A wrong address, strobes that are no run, a tail seen, an overrun at the limit, and beats taken at it. -/
theorem test_StreamBeatsAreJudgedAndTaken_witness :
    let e := { sourceStream with expected := 32 }
    let run := fun (st : Strobes) (n : Nat) => 1 ≤ n ∧ n ≤ 32 ∧ st.toNat = 2 ^ n - 1
    streamAt ingesting 0 = some sourceStream ∧ 2 ^ 33 + 32 ≠ sourceStream.next ∧ (∀ n, n ≤ 32 → ¬run 5 n) ∧ (∀ n, n ≤ 32 → ¬run 0 n) ∧
      ({ e with tailSeen := true }).tailSeen = true ∧
      (run (BitVec.allOnes 32) 32 ∧ e.tailSeen = false ∧ e.expected < ({ e with bytes := 1 }).bytes + 32 ∧ e.bytes + 32 ≤ e.expected) ∧
      (run 1 1 ∧ sourceStream.bytes + 1 ≤ 2 ^ 48 - 1) ∧ Mark.stream e.serial ∉ ([] : List Mark) := by
  decide +kernel

theorem test_StreamsEndAndAreClosed_witness :
    (23 < (24 : BitVec 8).toNat ∧ answer (.streamClose 24 0) ingesting = some (.refused .badArgument 0)) ∧
      ((23 : BitVec 8).toNat ≤ 23 ∧ streamAt ingesting 23 = none ∧
        answer (.streamAbort 23) ingesting = some (.refused .unknownStream 0)) ∧
      (streamAt ingesting 0 = some sourceStream ∧ answer (.streamClose 0 0) ingesting = some (.done 0)) := by
  decide +kernel

/-- A note of an ended GOOD stream with serial 6. -/
def note : ClosingNote :=
  { serial := 6, stream := 1, clip := some 0, role := .source, outcome := .good, outstanding := 1, faultRaised := false }

/-- A running stream with serial 5; a note with serial 6 in a state with no running stream; a serial that neither holds. -/
theorem test_WriteResponsesReachStreams_witness :
    let s := State.reset.withSu { StreamUnit.reset with closing := [note] }
    (streamAt ingesting 0 = some sourceStream ∧ sourceStream.serial = 5 ∧
        ∀ j f, streamAt ingesting j = some f ∧ f.serial = 5 → j = 0) ∧
      (∀ i e, ¬(streamAt s i = some e ∧ e.serial = 6)) ∧ s.su.closing = [] ++ note :: [] ∧ note.serial = 6 ∧
      ∀ n ∈ State.reset.su.closing, n.serial ≠ 6 := by
  refine ⟨⟨by decide +kernel, rfl, fun j f h => (streams_of_ingesting j f h.1).1⟩, ?_, rfl, rfl, by decide +kernel⟩
  intro i e h
  have r : streamAt State.reset i = some e := h.1
  rw [streams_of_reset] at r; cases r

/-- A card slot that holds a card, with its lamp. -/
def card (session : Nat) (lamp : Lamp) : CardSlot :=
  { detLow := true, present := true, session := session, changePending := none, lamp := lamp }

/-- Slot and camera at and past their bounds, a used label, no card, a full table, and openings in slots 7 and 8. -/
theorem test_ClipOpenTestsAndOpens_witness :
    let carded := setCardSlot 7 (card 1 .amber) State.reset
    let fullTable := State.reset.withCt { ClipTracker.reset with clips := List.replicate 64 (some openClip) }
    answer (.clipOpen 1 9 0 1) State.reset = some (.refused .badArgument 0) ∧
      answer (.clipOpen 1 8 16 1) State.reset = some (.refused .badArgument 0) ∧
      (clipAt ingesting 0 = some openClip ∧ answer (.clipOpen 7 8 15 1) ingesting = some (.refused .badArgument 0)) ∧
      ((cardSlotAt State.reset 7).present = false ∧ answer (.clipOpen 1 7 15 1) State.reset = some (.refused .noCard 0)) ∧
      ((∀ i, i < fullTable.ct.clips.length → clipAt fullTable i ≠ none) ∧
        answer (.clipOpen 1 8 15 1) fullTable = some (.refused .noRoom 0)) ∧
      ((cardSlotAt carded 7).present = true ∧ clipAt carded 0 = none ∧ answer (.clipOpen 1 7 15 3) carded = some (.done 0)) ∧
      (clipAt State.reset 0 = none ∧ answer (.clipOpen 1 8 15 4) State.reset = some (.clamped 4 0)) := by
  decide +kernel

theorem test_no_label_is_used_at_reset (l : Nat) : ¬∃ i d, clipAt State.reset i = some d ∧ d.label = l := by
  intro h; obtain ⟨i, d, h, _⟩ := h; rw [clips_of_reset] at h; cases h

theorem test_ClipRetireFreesTheClip_witness :
    (63 < (64 : BitVec 8).toNat ∧ answer (.clipRetire 64) ingesting = some (.refused .badArgument 0)) ∧
      (clipAt ingesting 63 = none ∧ answer (.clipRetire 63) ingesting = some (.refused .unknownClip 0)) ∧
      (clipAt ingesting 0 = some openClip ∧ streamAt ingesting 0 = some sourceStream ∧ sourceStream.clip = 0 ∧
        answer (.clipRetire 0) ingesting = some (.refused .busy 0)) ∧
      (clipAt (withClip openClip) 0 = some openClip ∧ answer (.clipRetire 0) (withClip openClip) = some (.done 0)) := by
  decide +kernel

theorem test_no_stream_of_a_clip_runs (j : Nat) (e : Stream) (h : streamAt (withClip openClip) j = some e) : e.clip ≠ 0 := by
  rw [show streamAt (withClip openClip) j = streamAt State.reset j from rfl, streams_of_reset] at h; cases h

/-- A fingerprint, and clip 0 holding a result that equals it on destination 0 and one that differs on destination 1. -/
def goodPrint : Fingerprint :=
  { b := 30, a := 22, length := 12 }

theorem test_SourceEndsSettleTheClip_witness :
    let c := { openClip with dests := [{ verdict := .pending, held := some goodPrint },
                                       { verdict := .pending, held := some { goodPrint with length := 13 } }, Dest.empty, Dest.empty] }
    let t := sourceGood 0 goodPrint (withClip c)
    clipAt (withClip c) 0 = some c ∧ c.warnCount ≤ 65535 ∧ c.required ≤ c.matchCount + 1 ∧
      (clipAt t 0).map (fun x => (x.state, x.matchCount, x.warnCount)) = some (.verified, 1, 1) ∧ faults t = [(.copyMismatch, 1)] ∧
      ({ c with required := 2 }).matchCount + 1 < ({ c with required := 2 }).required := by
  decide +kernel

theorem test_DestinationEndsSettleTheVerdict_witness :
    let at_ := fun (st : ClipState) (required : Nat) => { openClip with state := st, source := some goodPrint, required := required }
    let holds := fun (c : Clip) => clipAt (withClip c) 0 = some c
    let verdict := fun (c : Clip) (fp : Fingerprint) => (clipAt (destGood 0 3 fp (withClip c)) 0).map (fun x => (x.state, destAt x 3))
    (holds openClip ∧ verdict openClip goodPrint = some (.opened, { verdict := .pending, held := some goodPrint })) ∧
      (holds (at_ .spoiled 1) ∧ verdict (at_ .spoiled 1) goodPrint = some (.spoiled, Dest.empty)) ∧
      (holds (at_ .sourced 1) ∧ (at_ .sourced 1).required ≤ (at_ .sourced 1).matchCount + 1 ∧
        verdict (at_ .sourced 1) goodPrint = some (.verified, { verdict := .matched, held := none })) ∧
      (holds (at_ .sourced 2) ∧ (at_ .sourced 2).matchCount + 1 < (at_ .sourced 2).required ∧
        verdict (at_ .sourced 2) goodPrint = some (.sourced, { verdict := .matched, held := none })) ∧
      ((at_ .verified 1).state = .verified ∧ (at_ .verified 1).source ≠ some { goodPrint with a := 23 } ∧
        verdict (at_ .verified 1) { goodPrint with a := 23 } = some (.verified, { verdict := .mismatch, held := none })) := by
  decide +kernel

/-! ### Witnesses: cards and lamps -/

/-- Card slot 4 with a removal pending since time 0, at time 5, and clip 0 of its session ingesting as stream 7. -/
def pulling : State :=
  (setStream 7 (some sourceStream) (setClip 0 (some { openClip with slot := 4, session := 3 })
    (setCardSlot 4 { card 3 .amberFlash with detLow := false, changePending := some 0 } State.reset))).withTime 5

/-- An insertion due at exactly the debounce time and not due before it; a removal due, with its one stream. -/
theorem test_CardEventsAndTheTick_witness :
    let s := fun (now : Nat) => (setCardSlot 0 { CardSlot.reset with detLow := true, changePending := some 0 } State.reset).withTime now
    let due := fun (s : State) (k : Nat) =>
      ∃ c ∈ (cardSlotAt s k).changePending, s.pu.debounce ≤ (2 ^ 32 + s.time - c) % 2 ^ 32
    ((cardSlotAt (s 5) 0).present = false ∧ due (s 5) 0 ∧ bodies (after (.cardInsertion 0) (s 5)) = [.lamp 0 .off .amber 1]) ∧
      ¬due (s 4) 0 ∧ (cardSlotAt pulling 4).present = true ∧ due pulling 4 ∧ [7].Pairwise (· < ·) := by
  decide +kernel

theorem test_streams_of_the_pulled_card :
    ∀ i, i ∈ [7] ↔ ∃ e c, streamAt pulling i = some e ∧ e.role = .source ∧ clipAt pulling e.clip = some c ∧ c.slot = 4 ∧
      c.session = (cardSlotAt pulling 4).session := by
  intro i
  constructor
  · intro h; obtain rfl := List.mem_singleton.1 h
    exact ⟨sourceStream, { openClip with slot := 4, session := 3 }, by decide +kernel, rfl, by decide +kernel, rfl, by decide +kernel⟩
  · intro h
    obtain ⟨e, _, h, _⟩ := h
    rw [pulling, show streamAt (State.withTime _ 5) i = streamAt (setStream 7 (some sourceStream) _) i from rfl, streamAt_setStream] at h
    split at h
    · exact List.mem_singleton.2 (by omega)
    · have r : streamAt State.reset i = some e := h
      rw [streams_of_reset] at r; cases r

/-- Every line of Table 4-6 on card slot 4, and the three kinds of lamp output at an even and an odd quarter second. -/
theorem test_LampsByTheTable_witness :
    let s := fun (c : Clip) => setClip 0 (some { c with slot := 4, session := 3 }) (setCardSlot 4 (card 3 .off) State.reset)
    let red := { openClip with critOpen := 1 }
    lampOf State.reset 4 = .off ∧ lampOf (s red) 4 = .red ∧ lampOf (s { openClip with state := .spoiled }) 4 = .red ∧
      lampOf pulling 4 = .amberFlash ∧ lampOf (s { openClip with state := .verified }) 4 = .green ∧ lampOf (s openClip) 4 = .amber ∧
      (cardSlotAt (s red) 4).lamp ≠ lampOf (s red) 4 ∧ (cardSlotAt pulling 4).lamp = lampOf pulling 4 ∧
      lampRed pulling 4 = true ∧ lampRed (pulling.withTime 250) 4 = false := by
  decide +kernel

/-- The premises of its lines as the statement words them: no clip of slot 4 holds it RED while it is pulled. -/
theorem test_LampsByTheTable_not_red_witness :
    ¬∃ i c, (clipAt pulling i = some c ∧ c.slot = 4 ∧ c.session = 3) ∧ (c.state = .spoiled ∨ 0 < c.critOpen) := by
  intro h; obtain ⟨i, c, ⟨h, _⟩, hc⟩ := h
  rw [show clipAt pulling i = clipAt (setClip 0 (some { openClip with slot := 4, session := 3 }) State.reset) i from rfl,
    clipAt_setClip] at h
  split at h
  · obtain rfl := (Option.some.inj h).symm; revert hc; decide
  · rw [clips_of_reset] at h; cases h

/-! ### Witnesses: frames -/

/-- Each test of Table 5-1 at its bound, and two pools that pass. -/
theorem test_PoolSetReplacesThePool_boundaries :
    let pinned := setView 1 { View.reset with pin := served.pin } State.reset
    let bad := some (Answer.refused .badArgument 0)
    answer (.poolSet 8192 0 4096) State.reset = bad ∧ answer (.poolSet 8192 257 4096) State.reset = bad ∧
      answer (.poolSet 8192 1 4064) State.reset = bad ∧ answer (.poolSet 8224 1 4096) State.reset = bad ∧
      answer (.poolSet 0xFFFFFFF000 2 4096) State.reset = bad ∧ answer (.poolSet 8192 1 4096) pinned = some (.refused .busy 0) ∧
      answer (.poolSet 4096 1 4096) State.reset = some (.refused .overlap 0) ∧
      answer (.poolSet 0xFFFFFFF000 1 4096) State.reset = some (.done 0) ∧
      answer (.poolSet 8192 256 4096) measuring = some (.done 1) := by
  decide +kernel

/-- A header beat of camera 2, label 7, frame 1000, width, height and stride as given. -/
def header (camera width height stride : Nat) : BeatData :=
  BitVec.ofNat 256 (camera + 2 ^ 32 * 7 + 2 ^ 64 * 1000 + 2 ^ 128 * width + 2 ^ 144 * height + 2 ^ 160 * stride)

/-- The eight beats of a header, whole or with the last strobe of the last beat clear. -/
def headerBeats (d : BeatData) (whole : Bool) : List WriteBeat :=
  fullBeat d :: List.replicate 6 (fullBeat 0) ++ [{ data := 0, strobes := if whole then BitVec.allOnes 32 else 0x7FFFFFFF }]

/-- The last header beat of a request of sixteen; a request of four; a strobe missing. The least geometry that passes and one
row too many for the slot; a camera not configured; a label that no clip holds. -/
theorem test_HeadersAreTakenOrSpoilTheSlot_witness :
    let s := setClip 0 (some openClip) measuring
    let whole := fun (beats : List WriteBeat) (i o : Nat) =>
      o = 224 ∧ 7 ≤ i ∧ ∀ b ∈ (beats.drop (i - 7)).take 8, b.strobes = BitVec.allOnes 32
    let more := fun (r : Request) (i o : Nat) => i + 1 < r.len.val + 1 ∧ o + 32 < 256
    let good := headerBeats (header 2 16 62 128) true
    let state := fun (d : BeatData) (s : State) => let t := takeHeader 0 d s
      ((frameSlotAt t 0).state, (frameSlotAt t 0).generation, (faults t).map (fun f => f.1))
    more (burst 0 15) 6 192 ∧ ¬more (burst 0 15) 7 224 ∧ whole good 7 224 ∧ good[7 - 7]? = some (fullBeat (header 2 16 62 128)) ∧
      (¬more (burst 0 3) 3 96 ∧ ¬whole (good.take 4) 3 96) ∧ ¬whole (headerBeats (header 2 16 62 128) false) 7 224 ∧
      state (header 2 16 62 128) s = (.filling, 1, [.frameAbandoned]) ∧
      state (header 2 16 63 128) s = (.bad, 1, [.frameAbandoned, .frameGeometry]) ∧
      state (header 3 16 16 128) s = (.bad, 1, [.frameAbandoned, .cameraUnknown]) ∧
      state (header 2 16 16 128) measuring = (.filling, 1, [.frameAbandoned, .orphanFrame]) := by
  decide +kernel

/-- A stray beat, in a slot that is not FILLING and behind the raster; a beat past the count; the last beat of the raster, which
ends the frame; a zone between two bounds. -/
theorem test_RasterBeatsAreCountedAndMeasured_witness :
    let f := frameSlotAt measuring 0
    let at_ := fun (n : Nat) => setFrameSlot 0 { f with counted := n } measuring
    let state := fun (o : Nat) (s : State) => (frameSlotAt (bodyBeat (burst 0 0) 0 0 o 0 (BitVec.allOnes 32) s).1 0).state
    f.state = .filling ∧ (frameSlotAt measuring 1).state ≠ .filling ∧ 256 + f.height * f.stride ≤ 2304 ∧
      (2272 < 256 + f.height * f.stride ∧ f.expected ≤ (frameSlotAt (at_ 64) 0).counted ∧ state 2272 (at_ 64) = .bad) ∧
      ((frameSlotAt (at_ 63) 0).counted < f.expected ∧ 0 < measuring.fiu.slots.length ∧ state 2272 (at_ 63) = .complete) ∧
      state 2272 (at_ 62) = .filling ∧ measuring.ctu.zones.map (fun w => w.bound) = [0, 2048, 12000, 30000, 48000, 62000] ∧
      zoneOf measuring.ctu.zones 2047 = 0 ∧ zoneOf measuring.ctu.zones 2048 = 1 ∧ zoneOf measuring.ctu.zones 65535 = 5 := by
  decide +kernel

/-- An ERROR for a frame FILLING, COMPLETE and not yet told, COMPLETE and told, and BAD; one with another generation. -/
theorem test_FramesEndAndHearResponses_witness :
    let s := fun (st : SlotState) (late : Bool) => setFrameSlot 0 { frameSlotAt measuring 0 with state := st, lateFault := late } measuring
    let hears := fun (s : State) (g : Nat) => let t := frameResponse 1 0 g false s
      ((frameSlotAt t 0).state, (faults t).map (fun f => f.1))
    1 = (s .bad false).fiu.serial ∧ 0 = (frameSlotAt (s .bad false) 0).generation ∧
      hears (s .filling false) 0 = (.bad, [.frameWriteFault]) ∧ hears (s .complete false) 0 = (.complete, [.frameWriteFault]) ∧
      hears (s .complete true) 0 = (.complete, []) ∧ hears (s .bad false) 0 = (.bad, []) ∧ hears (s .filling false) 1 = (.filling, []) := by
  decide +kernel

/-! ### Witnesses: cameras -/

/-- Cameras 0 and 15 configured with base 24, set as pair 7. -/
def rig : State :=
  setPair 7 { isSet := true, left := 0, right := 15, tolerance := 500, queue := [] }
    (setCamera 0 { Camera.reset with configured := true, framesSeen := 9 } (setCamera 15 { Camera.reset with configured := true } State.reset))

/-- A camera past 15, a base not allowed, a base its partner has not, and settings kept and clamped. -/
theorem test_CameraSetConfigures_witness :
    let set := fun (c base : BitVec 8) (high hyst : BitVec 16) (p : BitVec 8) => answer (.cameraSet c 0 0 base high hyst p 0) rig
    set 16 24 1 0 2 = some (.refused .badArgument 0) ∧ set 0 26 1 0 2 = some (.refused .badArgument 0) ∧
      (rig.ctu.pairs[7]? = some { isSet := true, left := 0, right := 15, tolerance := 500, queue := [] } ∧
        (cameraAt rig 15).base ≠ 25 ∧ set 0 25 1 0 2 = some (.refused .badArgument 0)) ∧
      (∀ j, j < rig.ctu.pairs.length → j ≠ 7 → ∀ r ∈ rig.ctu.pairs[j]?, r.isSet = false) ∧
      ((∀ q ∈ rig.ctu.pairs, q.isSet = true → (q.left = 0 → (cameraAt rig q.right).base = 24) ∧ q.right ≠ 0) ∧
        set 0 24 1 1 15 = some (.done 9)) ∧
      set 0 24 1024 0 2 = some (.clamped 5 9) ∧ set 0 24 1 2 2 = some (.clamped 6 9) ∧ set 0 24 1 0 1 = some (.clamped 7 9) ∧
      set 1 120 1023 0 16 = some (.clamped 7 0) := by
  decide +kernel

theorem test_PairSetSetsOrClears_witness :
    let s := setCamera 1 { Camera.reset with configured := true } (setCamera 2 { Camera.reset with configured := true, base := 25 } rig)
    let set := fun (k l r : BitVec 8) (tol : BitVec 32) => answer (.pairSet k l r tol) s
    let elsewhere := fun (k c : Nat) => ∃ j ∈ List.range 8, j ≠ k ∧ ∃ q ∈ s.ctu.pairs[j]?, q.isSet = true ∧ (q.left = c ∨ q.right = c)
    let no := some (Answer.refused .badArgument 0)
    set 8 16 16 0 = no ∧ set 0 15 16 0 = no ∧ set 7 16 16 0 = some (.done 0) ∧ (set 0 1 1 0 = no ∧ ¬elsewhere 0 1) ∧
      (elsewhere 0 15 ∧ set 0 1 15 0 = no) ∧ (¬elsewhere 7 15 ∧ set 7 1 15 0 = some (.done 0)) ∧
      (¬elsewhere 0 3 ∧ (cameraAt s 3).configured = false ∧ set 0 1 3 0 = some (.refused .notConfigured 0)) ∧
      ((cameraAt s 1).base ≠ (cameraAt s 2).base ∧ set 0 1 2 0 = no) ∧
      set 7 1 15 65535 = some (.done 0) ∧ set 7 1 15 65536 = some (.clamped 4 0) := by
  decide +kernel

theorem test_ZonesSetAndTrackerClear_witness :
    let bounds := fun (a b f : BitVec 16) => ({ z0 := a, z1 := b, z2 := 2, z3 := 3, z4 := 4, z5 := f } : Six (BitVec 16))
    let grey := fun (n : BitVec 16) => ({ r := n, g := n, b := n } : Rgb (BitVec 16))
    let colours := fun (n : BitVec 16) =>
      ({ z0 := grey 0, z1 := grey 0, z2 := grey 0, z3 := grey 0, z4 := grey 0, z5 := grey n } : Six (Rgb (BitVec 16)))
    answer (.zonesSet (bounds 0 1 5) (colours 1023)) State.reset = some (.done 0) ∧
      answer (.zonesSet (bounds 1 1 5) (colours 0)) State.reset = some (.refused .badArgument 0) ∧
      answer (.zonesSet (bounds 0 2 5) (colours 0)) State.reset = some (.refused .badArgument 0) ∧
      answer (.zonesSet (bounds 0 1 4) (colours 0)) State.reset = some (.refused .badArgument 0) ∧
      answer (.zonesSet (bounds 0 1 5) (colours 1024)) State.reset = some (.refused .badArgument 0) := by
  decide +kernel

/-- A number that follows across the wrap, equal, above and below the last; the warning turned on, kept and turned off. -/
theorem test_FrameEndChecks_witness :
    let f := fun (n : Nat) => { FrameSlot.empty with frame := n, camera := 5 }
    let s := fun (w : Bool) => setCamera 5 { Camera.reset with exposureHigh := 100, hysteresis := 20, warning := w } State.reset
    let warns := fun (q : Nat) (w : Bool) => let t := checkExposure (f 0) q (s w)
      ((cameraAt t 5).warning, faults t)
    (f 0).frame = (4294967295 + 1) % 2 ^ 32 ∧ faults (checkNumber (f 0) 4294967295 State.reset) = [] ∧
      faults (checkNumber (f 6) 6 State.reset) = [(.duplicateNumber, 6)] ∧ faults (checkNumber (f 8) 6 State.reset) = [(.gap, 1)] ∧
      faults (checkNumber (f 5) 6 State.reset) = [(.backstep, 1)] ∧ warns 100 false = (true, [(.exposureClip, 100)]) ∧
      warns 99 false = (false, []) ∧ warns 79 true = (false, []) ∧ warns 80 true = (true, []) := by
  decide +kernel

theorem test_FramesAreTrackedInOrder_witness :
    (cameraAt State.reset 0).firstFrame = true ∧
      (cameraAt (setCamera 0 { Camera.reset with firstFrame := false } State.reset) 0).firstFrame = false := by
  decide +kernel

theorem test_TrackerFollowsCandidates_witness :
    let e : TrackerEntry := { camera := 4, x := 100, y := 50, hits := 3, misses := 2, reported := false }
    let full := (List.range 32).map (fun i => { e with x := i })
    let mine := fun (x : TrackerEntry) => x.camera = 4 ∧ (x.x, x.y) = (100, 50)
    let s := State.reset.withCtu { CameraTrack.reset with tracker := [e] }
    (∃ x ∈ [e], mine x) ∧ (∀ x ∈ full.take 31, ¬mine x) ∧ (full.take 31).length < 32 ∧ (∀ x ∈ full, ¬mine x) ∧ 32 ≤ full.length ∧
      e.camera ≠ 5 ∧ (e.x, e.y) ∈ [(100, 50)] ∧ (e.x, e.y) ∉ ([] : List (Nat × Nat)) ∧
      s.ctu.tracker.Pairwise (fun a b => ¬(a.camera = b.camera ∧ a.x = b.x ∧ a.y = b.y)) ∧ e ∈ s.ctu.tracker ∧ mine e ∧
      ∀ x ∈ State.reset.ctu.tracker, ¬mine x := by
  decide +kernel

/-- Camera 0's frame of the pair of `rig`, past its first frame, with the pairing queue empty, of its own eye (7 and 8 records
long), and of the other eye with an earlier, an equal and a later record. -/
theorem test_StereoFramesPair_witness :
    let cam := { Camera.reset with configured := true, firstFrame := false }
    let held := fun (right : Bool) (t : Nat) =>
      ({ right := right, frame := 1, timecode := { hh := 0, mm := 0, ss := 0, ff := t }, count := t, mean := 0, clip := none,
         label := 0 } : HeldRecord)
    let s := fun (q : List HeldRecord) => setPair 7 { pairAt rig 7 with queue := q } rig
    let own := List.replicate 8 (held false 0)
    let other := [held true 4, held true 5, held true 6]
    let ahead := fun (x : HeldRecord) => (5 + 2073600 - x.count % 2073600) % 2073600
    let earlier := fun (x : HeldRecord) => 1 ≤ ahead x ∧ ahead x ≤ 2073600 / 2
    cam.firstFrame = false ∧ pairOfCamera (s other) 0 = some 7 ∧ decide ((pairAt (s other) 7).left ≠ 0) = false ∧
      timecodeCount 24 { hh := 0, mm := 0, ss := 0, ff := 5 } = 5 ∧
      ((∀ x ∈ (pairAt (s (own.take 7)) 7).queue, x.right = false) ∧ (pairAt (s (own.take 7)) 7).queue.length < 8) ∧
      (8 ≤ (pairAt (s own) 7).queue.length ∧ ∀ x ∈ (pairAt (s own) 7).queue, x.right = false) ∧
      ((pairAt (s other) 7).queue = [held true 4] ++ [held true 5, held true 6] ∧ (∀ x ∈ other, x.right ≠ false) ∧
        earlier (held true 4) ∧ ahead (held true 5) = 0) ∧
      (¬earlier (held true 6) ∧ ahead (held true 6) ≠ 0) ∧
      ((pairAt (s [held true 4]) 7).queue = [held true 4] ++ []) := by
  decide +kernel

/-! ### Witnesses: faults -/

/-- The list with room, full with one record to evict, and full of NEW CRITICAL records; a finding that names a clip. -/
theorem test_FaultsAreRaised_witness :
    let gaps := fun (n : Nat) => List.replicate n (record 1 .gap)
    let list := fun (l : List FaultRecord) => (withClip openClip).withFl { records := l, nextId := 4294967295, unlisted := 0 }
    let open_ := fun (x : FaultRecord) => x.acked = false ∧ x.kind ∈ [.gap, .sourceUnverifiable, .cardPulled, .copyWriteFault]
    let f : Finding := { kind := .gap, camera := none, clip := some 0, frame := none, position := none, detail := 0 }
    let mixed := gaps 255 ++ [record 2 .frozenFrame]
    (list (gaps 255)).fl.records.length < 256 ∧
      (256 ≤ (list mixed).fl.records.length ∧ (list mixed).fl.records[255]? = some (record 2 .frozenFrame) ∧
        ¬open_ (record 2 .frozenFrame) ∧ ∀ j, j < 255 → ∀ y ∈ (list mixed).fl.records[j]?, open_ y) ∧
      (256 ≤ (list (gaps 256)).fl.records.length ∧ ∀ x ∈ (list (gaps 256)).fl.records, open_ x) ∧
      (f.clip.bind (fun i => (clipAt (list []) i).map (fun c => (i, c))) = some (0, openClip) ∧ openClip.critOpen < 65535) ∧
      f.clip.bind (fun i => (clipAt State.reset i).map (fun c => (i, c))) = none ∧
      (raiseFault true f (list (gaps 256))).fl.unlisted = 1 ∧ (raiseFault true f (list mixed)).fl.nextId = 1 := by
  decide +kernel

/-- An id that is not listed, one ACKED, one NEW and WARN, one NEW and CRITICAL of a clip; a clip with and without crit_open. -/
theorem test_FaultsAreAcknowledged_witness :
    let l := [{ record 1 .gap with acked := true }, record 2 .frozenFrame, record 3 .gap]
    let s := fun (n : Nat) => (withClip { openClip with critOpen := n }).withFl { records := l, nextId := 4, unlisted := 0 }
    let hit := fun (r : FaultRecord) => decide (r.acked = false ∧ r.camera = some 2 ∧ r.frame.map (fun x => x.1) = some 9)
    ((∀ r ∈ (s 1).fl.records, r.id ≠ 4) ∧ answer (.faultAck 4) (s 1) = some (.refused .badArgument 0)) ∧
      (l.find? (fun x => x.id == 1) = some { record 1 .gap with acked := true } ∧ answer (.faultAck 1) (s 1) = some (.done 0)) ∧
      (l.find? (fun x => x.id == 2) = some (record 2 .frozenFrame) ∧ severityOf .frozenFrame ≠ .critical ∧
        answer (.faultAck 2) (s 1) = some (.done 1)) ∧
      (l.find? (fun x => x.id == 3) = some (record 3 .gap) ∧ severityOf .gap = .critical ∧
        clipAt (s 1) 0 = some { openClip with critOpen := 1 } ∧ answer (.faultAck 3) (s 1) = some (.done 1)) ∧
      answer (.clipFaultsAck 64) (s 1) = some (.refused .badArgument 0) ∧
      (clipAt (s 1) 63 = none ∧ answer (.clipFaultsAck 63) (s 1) = some (.refused .unknownClip 0)) ∧
      (answer (.clipFaultsAck 0) (s 1) = some (.done 2) ∧ answer (.clipFaultsAck 0) (s 0) = some (.done 2)) ∧
      (l.countP hit = 2 ∧ (ackFrame 2 9 (s 1)).2 = 2) := by
  decide +kernel

/-- WARN records of camera 2 at frames 9 and 20 and a NOTE at 12: what each search answers, at its bounds and with nothing to
answer. -/
theorem test_FaultsAreAcknowledged_searches_witness :
    let at_ := fun (k : FaultKind) (n : Nat) => { record 1 k with frame := some (n, { hh := 0, mm := 0, ss := 0, ff := 0 }) }
    let s := State.reset.withFl { FaultList.reset with records := [at_ .frozenFrame 20, at_ .tcInvalid 12, at_ .frozenFrame 9] }
    (severityOf .frozenFrame = .warn ∧ severityOf .tcInvalid = .note) ∧
      (faultAhead s 2 8 9 .forward = some 9 ∧ faultAhead s 2 9 20 .forward = some 20 ∧ faultAhead s 2 9 19 .forward = none) ∧
      (faultAhead s 2 21 9 .reverse = some 20 ∧ faultAhead s 2 20 9 .reverse = some 9 ∧ faultAhead s 2 20 10 .reverse = none) ∧
      (nextFault s 2 9 = some 12 ∧ nextFault s 2 20 = none) ∧ (previousFault s 2 20 = some 12 ∧ previousFault s 2 9 = none) ∧
      nextFault s 3 0 = none := by
  decide +kernel

/-- Clip 0 of card slot 3 with its one GAP listed. -/
def gapOfSlotThree : State :=
  (withClip { openClip with slot := 3, critOpen := 1 }).withFl { records := [record 3 .gap], nextId := 4, unlisted := 0 }

/-- The slots that an acknowledgement by frame names, as the statement words them: slot 3 alone. -/
theorem test_FaultsAreAcknowledged_slots_witness :
    let off := fun (i : Nat) => gapOfSlotThree.fl.records.countP (fun r =>
      decide (r.acked = false ∧ r.camera = some 2 ∧ r.frame.map (fun x => x.1) = some 9) &&
        decide (severityOf r.kind = .critical ∧ r.clip = some i ∧ r.retired = false))
    [3].Pairwise (· < ·) ∧
      ∀ k, k ∈ [3] ↔ k < 8 ∧ ∃ i c, clipAt gapOfSlotThree i = some c ∧ c.slot = k ∧ 0 < c.critOpen ∧ 0 < off i := by
  refine ⟨List.pairwise_singleton _ _, fun k => ⟨fun h => ?_, fun ⟨_, i, c, h, hk, _⟩ => ?_⟩⟩
  · obtain rfl := List.mem_singleton.1 h
    exact ⟨by decide, 0, { openClip with slot := 3, critOpen := 1 }, by decide +kernel, rfl, by decide, by decide +kernel⟩
  · have r : clipAt (setClip 0 (some { openClip with slot := 3, critOpen := 1 }) State.reset) i = some c := h
    rw [clipAt_setClip] at r
    split at r
    · obtain rfl := Option.some.inj r; exact List.mem_singleton.2 hk.symm
    · rw [clips_of_reset] at r; cases r

/-! ### Witnesses: looks and pixels -/

/-- A slot LOADING with so many beats staged. -/
def loading (n : Nat) (failed : Bool) : State :=
  setLookSlot 7 { LookSlot.empty with
    state := .loading, prior := some .empty, loadSequence := some 4, staged := List.replicate n 0, failed := failed } State.reset

/-- LOOK_LOAD at its bounds; a beat of no fetch in flight, of a fetch not yet sent, the seventh, and the eighth of a fetch that
went well and of one with a beat answered ERROR. -/
theorem test_LooksAreFetchedAndLoaded_witness :
    let waiting := (loading 0 false).withTu { Transit.reset 0 with background := [.lookFetch 7 4096] }
    let beat := fun (r : Resp) (s : State) => after (.lookFetchBeat 7 0 r) s
    let first := fun (s : State) => ((lookSlotAt s 7).state, (lookSlotAt s 7).staged.length, bodies s)
    answer (.lookLoad 8 4096) State.reset = some (.refused .badArgument 0) ∧
      answer (.lookLoad 7 0xFFFFFFFF20) State.reset = some (.refused .badArgument 0) ∧
      (lookSlotAt (after (.lookLoad 7 0xFFFFFFFF00) State.reset) 7).state = .loading ∧
      answer (.lookLoad 7 4096) (loading 0 false) = some (.refused .busy 0) ∧
      beat .okay State.reset = State.reset ∧ beat .okay waiting = waiting ∧
      first (beat .okay (loading 6 false)) = (.loading, 7, []) ∧
      first (beat .okay (loading 7 false)) = (.ready, 0, [.completion 4 0x50 (.done 7)]) ∧
      first (beat .slverr (loading 7 false)) = (.empty, 0, [.completion 4 0x50 (.refused .badArgument 3)]) ∧
      (lookSlotAt (loading 7 false) 7).loadSequence = some 4 ∧ (lookSlotAt (loading 7 false) 7).prior = some .empty ∧
      ∀ a, BackgroundItem.lookFetch 7 a ∉ (loading 7 false).tu.background := by
  and_intros <;> first | exact fun a => List.not_mem_nil | decide +kernel

/-- Each range of the stage-1 and matrix quotients, a segment of the curve at its last place, and the ends of the codes. -/
theorem test_PixelsAreGradedByTheStages_witness :
    let q := fun (x gain : Nat) (lift : Int) => ((x : Int) + lift) * (gain : Int) + 8192
    let m := fun (c : Int) => c * 65535 + 2048
    q 0 16384 (-1) < 0 ∧ (0 ≤ q 65535 16384 0 ∧ q 65535 16384 0 < 65536 * 16384) ∧ 65536 * 16384 ≤ q 65536 16384 0 ∧
      (identityCurve[31]? = some 63488 ∧ identityCurve[32]? = some 65535 ∧ 2047 < 2048) ∧
      m (-1) < 0 ∧ (0 ≤ m 4096 ∧ m 4096 < 65536 * 4096) ∧ 65536 * 4096 ≤ m 4097 ∧
      stageOutput 0 = 0 ∧ stageOutput 65535 = 1023 ∧ blendComponent 1023 0 0 = 1023 ∧ blendComponent 1023 0 256 = 0 ∧
      (defaultZones[5]? = some { bound := 62000, colour := { r := 1023, g := 0, b := 0 } } ∧
        ∀ j, j < defaultZones.length → 4 < j → ∀ v ∈ defaultZones[j]?, 61999 < v.bound) := by
  decide +kernel

/-! ### Witnesses: views -/

/-- Each test of VIEW_WINDOW_SET at its bound. -/
theorem test_ViewWindowSetReplacesTheWindow_boundaries :
    let bad := some (Answer.refused .badArgument 0)
    let on := setView 1 { View.reset with current := { Settings.reset with on := true } } State.reset
    answer (.viewWindowSet 2 8192 16 16) State.reset = bad ∧ answer (.viewWindowSet 1 8192 15 16) State.reset = bad ∧
      answer (.viewWindowSet 1 8192 8193 16) State.reset = bad ∧ answer (.viewWindowSet 1 8192 16 4321) State.reset = bad ∧
      answer (.viewWindowSet 1 8208 16 16) State.reset = bad ∧ answer (.viewWindowSet 1 0xFFFFFFFC20 16 16) State.reset = bad ∧
      answer (.viewWindowSet 1 8192 16 16) on = some (.refused .wrongState 0) ∧
      answer (.viewWindowSet 1 8160 16 16) State.reset = some (.refused .overlap 0) ∧
      answer (.viewWindowSet 1 0xFFFFFFFC00 16 16) State.reset = some (.done 64) ∧
      answer (.viewWindowSet 0 8192 8192 4320) State.reset = some (.done 32768) := by
  decide +kernel

theorem test_ViewSettingsWriteThePendingCopy_boundaries :
    let bad := some (Answer.refused .badArgument 0)
    answer (.viewOn 2) viewing = bad ∧ answer (.viewOn 1) viewing = some (.refused .notConfigured 0) ∧
      answer (.viewOn 0) viewing = some (.done 1) ∧ answer (.viewOff 0) viewing = some (.done 0) ∧
      answer (.zonesOn 1) viewing = some (.done 1) ∧ answer (.zonesOff 1) viewing = some (.done 0) ∧
      answer (.viewSource 0 16) rig = bad ∧ answer (.viewSource 0 1) rig = some (.refused .notConfigured 0) ∧
      answer (.viewSource 0 15) rig = some (.done 0) ∧ answer (.viewGeometry 0 8192 0 1 0 0) rig = bad ∧
      answer (.viewGeometry 0 8191 4319 4 0 0) rig = some (.done 0) ∧ answer (.viewGeometry 0 0 0 3 0 0) rig = bad := by
  decide +kernel

theorem test_LooksBandsOverlaysAndMarks_boundaries :
    let bad := some (Answer.refused .badArgument 0)
    let grey := fun (n : BitVec 16) => ({ r := n, g := n, b := n } : Rgb (BitVec 16))
    answer (.lookSelect 0 8 0) rig = bad ∧ answer (.lookSelect 0 7 256) rig = some (.done 0) ∧
      answer (.lookSelect 0 7 257) rig = some (.clamped 3 0) ∧ answer (.bandsSet 0 3 0 0 0 0 0 0 0) rig = bad ∧
      answer (.bandsSet 0 1 9 0 255 0 0 8 1) rig = some (.done 0) ∧ answer (.bandsSet 0 2 0 0 7 0 0 8 1) rig = bad ∧
      answer (.bandsSet 0 0 0 0 8 0 0 8 2) rig = bad ∧ answer (.overlaySet 0 32 32 0 64 0 64) rig = some (.done 0) ∧
      answer (.overlaySet 0 32 32 0 65 0 0) rig = bad ∧ answer (.overlaySet 0 32 0 0 0 0 0) rig = bad ∧
      answer (.overlaySet 0 0xFFFFFDE400 32 0 0 0 0) rig = some (.done 0) ∧ answer (.overlaySet 0 0xFFFFFDE420 32 0 0 0 0) rig = bad ∧
      answer (.clipMarkSet 1 1 (grey 1023)) rig = some (.done 0) ∧ answer (.clipMarkSet 1 1 (grey 1024)) rig = bad := by
  decide +kernel

/-- View 0 on with a pool whose slots hold frames 3 and 5 of camera 0, COMPLETE, and its shuttle at a frame. -/
def playing (frame : Nat) (pin : Option Pin) : State :=
  setMotion 0 { Motion.reset with position := 256 * frame } (setView 0
    { View.reset with
      window := some smallWindow, pin := pin
      pending := { Settings.reset with on := true, strip1 := { start := 15, count := 2 }, bands := [{ first := 9, last := 8, look := none }] } }
    (pooled.withFiu { pooled.fiu with slots :=
      [{ FrameSlot.empty with state := .complete, frame := 3 }, { FrameSlot.empty with state := .complete, frame := 5 }] }))

/-- A boundary with a band and a strip to drop, the flag clear and set; a frame there, a lower frame, a pin kept, a pin whose
slot has another generation, and a view off. -/
theorem test_DisplayFrameBoundaryActsInOrder_witness :
    let pin := fun (s : State) => (viewAt (takeBoundary 0 16 s) 0).pin.map (fun p => p.slot)
    let old := fun (g : Nat) => some ({ slot := 1, generation := g, frame := 5, width := 0, height := 0, stride := 0 } : Pin)
    let ready := fun (k : Nat) => k < 2 ∧ (frameSlotAt (playing 4 none) k).state = .complete ∧ (frameSlotAt (playing 4 none) k).camera = 0
    (playing 5 none).ve.length = 2 ∧ (playing 5 none).sh.length = 2 ∧ (viewAt (playing 5 none) 0).pending.bands.length ≤ 2 ∧
      ready 0 ∧ ready 1 ∧ pin (playing 5 none) = some 1 ∧ pin (playing 4 none) = some 0 ∧ pin (playing 2 (old 0)) = some 1 ∧
      pin (playing 2 (old 1)) = none ∧ (viewAt State.reset 0).pending.on = false ∧
      bodies (takeBoundary 0 16 (playing 5 none)) = [.view 0 .bandsClamped 1 none 0, .view 0 .overlayClamped 1 none 0] ∧
      bodies (takeBoundary 0 16 (setView 0 { viewAt (playing 5 none) 0 with bandsReported := true } (playing 5 none))) =
        [.view 0 .overlayClamped 1 none 0] := by
  decide +kernel

/-- A view off; on with no frame; on with its frame's row past the pinned height; on with its columns inside. -/
theorem test_ViewReadsAreLatchedAndServed_witness :
    let pin : Pin := { slot := 1, generation := 0, frame := 5, width := 16, height := 16, stride := 128 }
    let s := fun (on : Bool) (pin : Option Pin) (y0 : Nat) => setView 0
      { View.reset with current := { Settings.reset with on := on, y0 := y0 }, pin := pin, lastRow := some 0 } pooled
    let reads := fun (s : State) => (viewAt (viewRead 0 7 1 8 1 smallWindow s) 0).reads.map (fun r => r.reads.map (fun o => (o.addr, o.beats)))
    0 < (s true none 0).ve.length ∧ ¬((1 : Nat) = 0 ∧ (viewAt (s true none 0) 0).lastRow ≠ some 0) ∧
      (viewAt (s false none 0) 0).current.on = false ∧ (viewAt (s true none 0) 0).pin = none ∧
      (viewAt (s true (some pin) 15) 0).pin = some pin ∧ reads (s true (some pin) 15) = [] ∧
      (1 < pin.height ∧ 8 < smallWindow.width ∧ 15 < pin.width ∧ reads (s true (some pin) 0) = [[(2 ^ 34 + 8192 + 256 + 128 + 64, 2)]]) := by
  decide +kernel

/-- View 1 with the read of `served` in service, its own read sent. -/
def serving (last : Option Nat) (arrival : List ArrivalItem) : State :=
  (setView 1 { View.reset with reads := [served], pin := served.pin, frameCount := 1, lastFetchFault := last } State.reset).withTu
    { Transit.reset 0 with arrival := arrival }

/-- A beat that is not the part's to take (no read, not sent), a good one, an ERROR of a new display frame and of one reported;
a notice for the pinned slot and for another. -/
theorem test_OwnReadsReturnAndPinsAreLost_witness :
    let ret := fun (r : Resp) (s : State) => after (.viewFetchReturn 0 0 [{ data := 0, resp := r }]) s
    let seen := fun (s : State) => ((viewAt s 1).fetchFaults, (viewAt s 1).reads.length, bodies s)
    (State.reset.ve.flatMap (fun x => x.reads) = [] ∧ ret .okay State.reset = State.reset) ∧
      ret .okay (serving none [.viewRead 0 0]) = serving none [.viewRead 0 0] ∧
      ((viewAt (serving none []) 1).reads = [] ++ served :: [] ∧ served.tag = 0 ∧ (viewAt (serving none []) 0).reads = []) ∧
      seen (ret .okay (serving none [])) = (0, 0, []) ∧ seen (ret .slverr (serving (some 1) [])) = (1, 0, []) ∧
      seen (ret .slverr (serving (some 0) [])) = (1, 0, [.view 1 .fetchFault 1 served.pin 1]) ∧
      ((viewAt (serving none []) 1).pin = served.pin ∧ (noticeView 0 1 (serving none [])).ve.map (fun x => x.pin) = [none, none]) ∧
      noticeView 1 1 (serving none []) = serving none [] ∧ (viewAt (serving none []) 0).pin = none := by
  decide +kernel

/-- Two views that pinned slot 0: each has its notice, in either order. -/
theorem test_OwnReadsReturnAndPinsAreLost_two_pins_witness :
    let v := { View.reset with pin := served.pin }
    let s := setView 0 v (setView 1 v State.reset)
    s.ve.length = 2 ∧ (viewAt s 0).pin = served.pin ∧ (viewAt s 1).pin = served.pin ∧ served.pin.map (fun p => p.slot) = some 0 ∧
      bodies (noticeView 1 0 s) = [] ∧ bodies (noticeView 0 1 (noticeView 0 0 s)) =
        [.view 0 .slotLost 0 served.pin 0, .view 1 .slotLost 0 served.pin 0] := by
  decide +kernel

/-- A read of row 0 as it is answered: its copies, its source beat and the bands given. -/
def answered (set : Settings) (bands : List BandCopy) (lookB : Option Look) (resp : Resp) : ServedRead :=
  { served with
    width := 4, settings := set
    copies := some { lookA := identityLook, lookB := lookB, bands := bands, strips := [{ start := 0, count := 1 }],
                     zones := defaultZones, clipLevel := 40000 }
    reads := [{ overlay := false, addr := 0, beats := 1, data := [{ data := header 40000 0 0 0, resp := resp }] },
              { overlay := true, addr := 0, beats := 1, data := [{ data := 2 ^ 63 + 2 ^ 32 * 7, resp := .okay }] }] }

/-- A pixel for each step: padding, off, fetch fault, no pin, outside, zones, a band of each kind, black outside bands, one look,
a mix, clip-marked, and overlaid. -/
theorem test_ViewPixelsAreFormedByTheSteps_witness :
    let on := { Settings.reset with on := true }
    let band := fun (l : Option Look) => [({ first := 0, last := 0, look := l } : BandCopy)]
    let x := rasterPixel (header 40000 0 0 0) 0
    let out := fun (r : ServedRead) => outputPixel r 0
    let read := answered on [] none .okay
    (read.width ≤ 4 ∧ outputPixel read 4 = black) ∧ out (answered Settings.reset [] none .okay) = black ∧
      out (answered on [] none .decerr) = noFrameFill ∧ out { read with pin := none } = noFrameFill ∧
      out { read with pinLost := true } = noFrameFill ∧ out (answered { on with y0 := 16 } [] none .okay) = black ∧
      out (answered { on with zones := true } [] none .okay) = zoneColour defaultZones x ∧
      out (answered on (band none) none .okay) = outputs x ∧ out (answered on (band (some identityLook)) none .okay) = graded identityLook x ∧
      out (answered { on with outsideBlack := true } [] none .okay) = black ∧ out read = graded identityLook x ∧
      out (answered on [] (some identityLook) .okay) = graded identityLook x ∧
      out (answered { on with clipMark := true } [] none .okay) = { r := 1023, g := 0, b := 1023 } ∧
      outputPixel read 1 = { r := 0, g := 0, b := 7 } ∧ (read.reads.filter (fun o => o.overlay)).length = 1 := by
  decide +kernel

/-! ### Witnesses: shuttles and the panel -/

/-- View 1's motion context as given. -/
def moving (m : Motion) : State :=
  setMotion 1 m State.reset

theorem test_ShuttleProfileAndLocate_boundaries :
    let set := fun (s0 s4 n : BitVec 16) (dwell : BitVec 8) => answer (.shuttleProfile 1 s0 1 1 1 s4 n dwell 63 7) State.reset
    set 1 4096 1023 63 = some (.done 0) ∧ set 0 4096 1023 63 = some (.clamped 2 0) ∧ set 1 4097 1023 63 = some (.clamped 6 0) ∧
      set 1 4096 1024 63 = some (.clamped 7 0) ∧ set 1 4096 1 64 = some (.clamped 8 0) ∧
      answer (.shuttleProfile 2 1 1 1 1 1 1 0 0 0) State.reset = some (.refused .badArgument 0) ∧
      answer (.shuttleLocate 2 1) State.reset = some (.refused .badArgument 0) ∧
      answer (.shuttleLocate 1 0xFFFFFFFF) State.reset = some (.done 4294967295) := by
  decide +kernel

/-- A locate that waits; a jog at rest, at ARRIVED, past the top of the range, and in a move up to its target; none. -/
theorem test_ShuttleProfileAndLocate_applied_witness :
    let jog := fun (phase : Phase) (target : Option Nat) (position : Nat) (n : Int) =>
      let m := applyJog { workedMotion with phase := phase, target := target, position := position, pendingJog := n }
      (m.position, m.phase, m.target, m.pendingJog)
    let located := applyLocate { workedMotion with phase := .cruise, pendingLocate := some 9, heldPhase := some .accel1 }
    (located.position, located.phase, located.target, located.heldPhase, located.looping) = (2304, .idle, none, none, false) ∧
      applyLocate workedMotion = workedMotion ∧ applyJog workedMotion = workedMotion ∧
      jog .idle none 256 (-3) = (0, .idle, none, 0) ∧ jog .idle none (2 ^ 40 - 512) 5 = (2 ^ 40 - 256, .idle, none, 0) ∧
      jog .arrived (some 5120) 5120 (-2) = (4608, .idle, none, 0) ∧ jog .cruise (some 5120) 4864 2 = (5120, .cruise, some 5120, 0) ∧
      jog .held none 256 1 = (512, .held, none, 0) := by
  decide +kernel

theorem test_ShuttleGoStartsAMove_boundaries :
    let bad := some (Answer.refused .badArgument 0)
    answer (.shuttleGo 2 1 0) State.reset = bad ∧ answer (.shuttleGo 1 1048576 0) State.reset = bad ∧
      answer (.shuttleGo 1 1 2) State.reset = bad ∧ answer (.shuttleGo 1 1048575 0) State.reset = some (.done 1048575) ∧
      answer (.shuttleGo 1 0 0) State.reset = some (.done 4294967295) ∧ answer (.shuttleGo 1 1 1) State.reset = some (.done 0) := by
  decide +kernel

/-- A stop in each phase of the move of Section 10.5.1, from position 768. -/
theorem test_ShuttleStopByThePhase_witness :
    let at_ := fun (phase : Phase) => moving { workedMotion with position := 768, phase := phase }
    let stop := fun (s : State) => answer (.shuttleStop 1) s
    (motionAt (at_ .accel1) 1).target = some 5120 ∧ stop (at_ .preroll) = some (.done 1) ∧ stop (at_ .postroll) = some (.done 1) ∧
      stop (at_ .held) = some (.done 1) ∧ stop (at_ .accel1) = some (.done 3) ∧ stop (at_ .accel2) = some (.done 4) ∧
      stop (at_ .accel3) = some (.done 6) ∧ stop (at_ .cruise) = some (.done 10) ∧ stop (at_ .continuous) = some (.done 10) ∧
      stop (at_ .landing) = some (.done 20) ∧ stop (at_ .idle) = some (.done 0) ∧ stop (at_ .arrived) = some (.done 0) := by
  decide +kernel

theorem test_ShuttleHoldAndRelease_witness :
    let held := fun (locate : Option Nat) =>
      { workedMotion with phase := .held, heldPhase := some .cruise, pendingLocate := locate, pendingJog := -1, position := 768 }
    (held none).phase = .held ∧ (held none).pendingLocate = none ∧ (held (some 9)).pendingLocate = some 9 ∧
      answer (.shuttleRelease 1) (moving (held none)) = some (.done 1) ∧ answer (.shuttleHold 1) (moving (held none)) = some (.done 0) ∧
      (motionAt (after (.shuttleRelease 1) (moving (held none))) 1).phase = .cruise ∧
      (boundaryMotion State.reset 0 (held none)).1.displayed = 2 ∧ (boundaryMotion State.reset 0 (held (some 9))).1.displayed = 8 := by
  decide +kernel

/-- Contexts in each phase: at rest, the dwell at its last count and done, and a moving phase. -/
theorem test_ShuttleBoundaryByThePhase_witness :
    let at_ := fun (phase : Phase) (dwell : Nat) => { workedMotion with position := 5120, phase := phase, dwellCounter := dwell }
    let after_ := fun (m : Motion) => (boundaryMotion State.reset 0 m).1
    after_ (at_ .idle 0) = { at_ .idle 0 with displayed := 20 } ∧ (after_ (at_ .preroll 1)).phase = .accel1 ∧
      (after_ (at_ .preroll 2)).phase = .preroll ∧ (0 < (at_ .postroll 1).dwellCounter ∧ (after_ (at_ .postroll 1)).position = 5120) ∧
      ((at_ .postroll 0).start = some 0 ∧ (after_ (at_ .postroll 0)).position = 0) ∧
      (isMoving (at_ .cruise 0).phase = true ∧ (at_ .cruise 0).target = some 5120 ∧
        (boundaryMotion State.reset 0 { at_ .cruise 0 with position := 5120 }).2 = some 20) := by
  decide +kernel

/-- A locate and a jog that wait come before the phase; with stop-on-fault the fault at frame 9 pulls the target of a
CONTINUOUS move in, and one not in its way does not. -/
theorem test_ShuttleBoundaryByThePhase_waiting_and_pulled_in_witness :
    let m := { workedMotion with
      position := 768, phase := .continuous, continuous := true, profile := { workedMotion.profile with stopOnFault := true } }
    let faulty := State.reset.withFl { FaultList.reset with records := [{ record 1 .frozenFrame with camera := some 3 }] }
    let r := boundaryMotion faulty 3 m
    let waits := boundaryMotion faulty 3 { m with pendingLocate := some 30, pendingJog := 2 }
    (isMoving m.phase = true ∧ m.target = some 5120 ∧ faultAhead faulty 3 3 20 .forward = some 9 ∧
        (r.1.target, r.1.phase, r.1.looping, r.1.position, r.2) = (some 2304, .decel3, false, 1280, none)) ∧
      (faultAhead faulty 2 3 20 .forward = none ∧ (boundaryMotion faulty 2 m).1.target = some 5120) ∧
      (waits.1.phase, waits.1.position, waits.1.displayed, waits.2) = (.idle, 8192, 32, none) := by
  decide +kernel

theorem test_PanelTimingAndBinding_boundaries :
    let bad := some (Answer.refused .badArgument 0)
    answer (.panelTiming 31 100 500) State.reset = some (.done 0) ∧ answer (.panelTiming 0 2001 19) State.reset = some (.clamped 1 0) ∧
      answer (.panelTiming 1 99 19) State.reset = some (.clamped 2 0) ∧ answer (.panelTiming 1 2000 19) State.reset = some (.clamped 3 0) ∧
      answer (.panelBind 17 0 0 0) State.reset = bad ∧ answer (.panelBind 0 11 0 0) State.reset = bad ∧
      answer (.panelBind 0 0 2 0) State.reset = bad ∧ answer (.panelBind 0 0 0 2) State.reset = bad ∧
      answer (.panelBind 16 10 1 1) State.reset = some (.done 0) ∧ answer (.panelBind 15 0 0 0) State.reset = some (.done 0) := by
  decide +kernel

/-- Key 15 as given, bound to ZONES_TOGGLE with repeat, at time 5. -/
def pressing (k : Key) : State :=
  (State.reset.withPu { Panel.reset with
    keys := Panel.reset.keys.set 15 k, bindings := Panel.reset.bindings.set 15 { action := .zonesToggle, view := 1, repeatOn := true } }).withTime 5

/-- A press and a release due and not yet due, a repeat due and not yet due, each at the boundary. -/
theorem test_KeysAreDebouncedAndAct_witness :
    let up := fun (since : Nat) => pressing { low := true, pressed := false, changePending := some since, pressTime := none, repeatDue := none }
    let down := fun (since due : Nat) =>
      pressing { low := false, pressed := true, changePending := some since, pressTime := some 4294967291, repeatDue := some due }
    (bodies (after (.keyPress 15) (up 0)) = [.panel 15 .down .zonesToggle (some 1) none (some 1) none] ∧
        after (.keyPress 15) (up 1) = up 1) ∧
      (bodies (after (.keyRelease 15) (down 0 9)) = [.panel 15 .up .nothing (some 1) none none (some 10)] ∧
        after (.keyRelease 15) (down 1 9) = down 1 9) ∧
      (bodies (after (.keyRepeat 15) (down 0 5)) = [.panel 15 .rep .zonesToggle (some 1) none (some 1) (some 10)] ∧
        after (.keyRepeat 15) (down 0 6) = down 0 6) := by
  decide +kernel

/-- READY looks, none READY, NEW faults of camera 0 before and after the displayed frame, and a HELD context. -/
theorem test_BoundActionsByTheTable_witness :
    let m := { Motion.reset with displayed := 9 }
    let at_ := fun (n : Nat) => { record 1 .gap with camera := some 0, frame := some (n, { hh := 0, mm := 0, ss := 0, ff := 0 }) }
    let s := (setMotion 0 m State.reset).withFl { FaultList.reset with records := [at_ 10, at_ 8, at_ 9] }
    let noLooks := State.reset.withLs (List.replicate 8 LookSlot.empty)
    ((lookSlotAt State.reset ((0 + 1 + 7) % 8)).state = .ready ∧ (∀ j, j < 7 → (lookSlotAt State.reset ((0 + 1 + j) % 8)).state ≠ .ready) ∧
        (doAction .lookNext 0 State.reset).2 = some 0) ∧
      ((∀ i, i < 8 → (lookSlotAt noLooks ((0 + 1 + i) % 8)).state ≠ .ready) ∧ (doAction .lookNext 0 noLooks).2 = none) ∧
      ((doAction .faultNext 0 s).2 = some 10 ∧ (doAction .faultPrev 0 s).2 = some 8) ∧
      ((∀ r ∈ State.reset.fl.records, r.acked = true) ∧ (doAction .faultNext 0 State.reset).2 = none ∧ (doAction .faultPrev 0 State.reset).2 = none) ∧
      ((motionAt s 0).phase ≠ .held ∧ (doAction .holdToggle 0 s).2 = some 0 ∧
        (doAction .holdToggle 0 (setMotion 0 { m with phase := .held, heldPhase := some .idle } s)).2 = some 1) ∧
      (doAction .ackHere 0 s).2 = some 1 := by
  decide +kernel

/-- The jog decoder as given, bound to view 1 or unbound. -/
def jogging (last : Option (Bool × Bool)) (steps : Nat) (d : Option Direction) (b : Option (PanelAction × Nat)) : State :=
  State.reset.withPu { Panel.reset with jogLast := last, jogSteps := steps, jogDirection := d, jogBinding := b }

/-- The first sample, the same again, both lines changed, a third and a fourth step, unbound, accepted and discarded. -/
theorem test_JogSamplesFormDetents_witness :
    let four := fun (b : Option (PanelAction × Nat)) => jogging (some (false, true)) 3 (some .forward) b
    let result := fun (s : State) => let t := after (.jogDetent false false) s
      (t.pu.jogSteps, t.pu.jogDirection, bodies t)
    result (jogging none 0 none none) = (0, none, []) ∧ result (jogging (some (false, false)) 2 (some .reverse) none) = (2, some .reverse, []) ∧
      result (jogging (some (true, true)) 2 (some .reverse) none) = (0, none, []) ∧
      result (jogging (some (false, true)) 2 (some .forward) none) = (3, some .forward, []) ∧
      result (jogging (some (true, false)) 3 (some .forward) none) = (1, some .reverse, []) ∧
      result (four none) = (0, some .forward, [.panel 16 .detent .nothing none (some .forward) (some 0) none]) ∧
      result (four (some (.lookNext, 1))) = (0, some .forward, [.panel 16 .detent .lookNext (some 1) (some .forward) (some 1) none]) ∧
      result (setMotion 1 { workedMotion with phase := .cruise } (four (some (.lookNext, 1)))) =
        (0, some .forward, [.panel 16 .detent .lookNext (some 1) (some .forward) (some 0) none]) := by
  decide +kernel

/-- A second sample in one millisecond changes nothing; a millisecond in which no sample came has the lines unchanged. -/
theorem test_JogSamplesFormDetents_one_a_millisecond :
    let once := after (.jogTransition false true) (jogging (some (true, true)) 0 none none)
    let ticked := after .timeBaseTick (State.reset.withPu { Panel.reset with jogLines := (false, true) })
    (once.pu.jogDue = false ∧ once.pu.jogLines = (false, true) ∧ once.pu.jogSteps = 1) ∧
      after (.jogDetent false false) once = once ∧ (after .timeBaseTick once).pu.jogDue = true ∧
      ticked.pu.jogLast = some (false, true) := by
  decide +kernel

/-! ### Witnesses: the laws, and the premises of what every step keeps -/

/-- `ingesting` with a pool, a tracker entry, a listed fault, a move in progress and a command waiting, which it runs. -/
def busy : State :=
  ((setMotion 1 { workedMotion with position := 768, phase := .cruise } ingesting).withFl
    { FaultList.reset with records := [{ record 1 .gap with clip := none }], nextId := 2 }).withPending [.timeBaseTick]

theorem test_busy_steps :
    step busy = .next (((busy.withPending []).withTime 1).withPu { Panel.reset with jogLast := some (true, true) }) :=
  rfl

theorem test_EveryStepKeepsTheTables_witness :
    let s := busy.withFiu measuring.fiu
    let e : TrackerEntry := { camera := 4, x := 100, y := 50, hits := 255, misses := 2, reported := true }
    let u := busy.withCtu { CameraTrack.reset with tracker := [e, { e with y := 51, hits := 1, misses := 0 }] }
    TableLaw s ∧ FrameLaw s ∧ TrackLaw u := by
  refine ⟨?_, show ∀ f ∈ measuring.fiu.slots, _ from ?_, ?_⟩
  · constructor <;> decide +kernel
  · decide +kernel
  · constructor <;> decide +kernel

theorem test_EveryStepKeepsTheReportRing_witness :
    let s := (loading 2 false).withTu { Transit.reset 0 with background := [.report report, .lookFetch 7 4096] }
    let t := s.withCir { Intake.reset with p := 4294967295, c := 4294967232, w := 62 }
    RingLaw t ∧ reportsOutstanding t = 63 ∧ BackgroundLaw s := by
  refine ⟨⟨?_, ?_, ?_, ?_, ?_, ?_, ?_, Or.inl rfl⟩, ?_, ⟨?_, ?_, ?_, ?_⟩⟩ <;> decide +kernel

/-- Two windows that touch and do not overlap: a pool ends where a view window begins. -/
theorem test_EveryStepKeepsWindowsApart_witness :
    let s := setView 0 { View.reset with window := some { smallWindow with base := 2 ^ 34 + 16384 } } (busy.withFiu pooled.fiu)
    (windowSet s).Pairwise (fun a b => a.overlaps b = false) ∧ (windowSet s).length = 4 := by
  decide +kernel

theorem test_EveryStepKeepsLampsByTheTable_witness : ∀ k, k < 8 → (cardSlotAt pulling k).lamp = lampOf pulling k := by
  decide +kernel

theorem test_EveryStepKeepsVerdictsAndCriticalFaults_witness : ClipLaw busy ∧ FaultLaw busy := by
  have hc : ∀ i c, clipAt busy i = some c → i = 0 ∧ c = openClip := clips_of_ingesting
  have hs : ∀ i e, streamAt busy i = some e → i = 0 ∧ e = sourceStream := streams_of_ingesting
  refine ⟨⟨?_, ?_, ?_, ?_⟩, ⟨by decide +kernel, ?_, by decide +kernel, ?_⟩⟩
  · intro i c h; obtain ⟨_, rfl⟩ := hc i c h
    exact ⟨rfl, rfl, fun _ => rfl, by decide, by decide⟩
  · intro i j e f hi hj _ _; rw [(hs i e hi).1, (hs j f hj).1]
  · intro i e h _; obtain ⟨_, rfl⟩ := hs i e h; exact ⟨openClip, by decide +kernel, rfl⟩
  · intro i e d h hd; obtain ⟨_, rfl⟩ := hs i e h; cases hd
  · intro i e h; obtain ⟨_, rfl⟩ := hs i e h; decide +kernel
  · intro i
    have z : busy.fl.records.countP (fun r => newCritical r && r.clip == some i && !r.retired) = 0 :=
      List.countP_eq_zero.2 (by
        intro r hr
        obtain rfl : r = { record 1 .gap with clip := none } := List.mem_singleton.1 hr
        simp)
    rw [z]; exact Nat.zero_le _

theorem test_EveryStepKeepsShuttlesOnTheirMoves_witness : ShuttleLaw busy := by
  refine ⟨?_, ⟨by decide +kernel, by decide +kernel, ?_⟩⟩
  · intro m hm
    have h : m = Motion.reset ∨ m = { workedMotion with position := 768, phase := .cruise } := by
      have e : busy.sh = [Motion.reset, { workedMotion with position := 768, phase := .cruise }] := rfl
      rw [e] at hm; simpa using hm
    rcases h with rfl | rfl
    · exact ⟨by decide, nofun, nofun, fun _ => nofun, by decide, by decide⟩
    · refine ⟨by decide, nofun, ?_, ?_, by decide, by decide⟩
      · intro t h; obtain rfl : 5120 = t := Option.some.inj h
        exact ⟨by decide, show (768 : Nat) ≤ 5120 by decide⟩
      · intro _ t st h k
        obtain rfl : 5120 = t := Option.some.inj h
        obtain rfl : 0 = st := Option.some.inj k
        exact ⟨by decide, show (0 : Nat) ≤ 5120 by decide⟩
  · intro r hr x h
    obtain rfl : r = { record 1 .gap with clip := none } := List.mem_singleton.1 hr
    obtain rfl := Option.some.inj h; decide

end Sys2Proof.Tests
end

section
/-! PROOFS. The report ring and the background queue: what every intake move keeps of them (R10, R23 to R26). -/

namespace Sys2Proof.Machine

theorem reset_ring : RingLaw State.reset :=
  ⟨by decide, by decide, by decide, by decide, by decide, by decide, by decide, .inl rfl⟩

theorem hardReset_ring (n : Nat) (s : State) : RingLaw (hardReset n s) :=
  reset_ring.of_eq rfl rfl rfl rfl reset_ring.dropped rfl

theorem startLoad_ring {s : State} (k a n : Nat) (h : RingLaw s) : RingLaw (startLoad k a n s) :=
  h.of_eq rfl rfl rfl rfl h.dropped (by simp [startLoad, setLookSlot, BackgroundItem.isReport])

/-- Every intake move keeps the ring law. -/
theorem intakeMove_ring {s t : State} (m : IMove s t) (h : RingLaw s) : RingLaw t := by
  cases m with
  | hardReset n => exact hardReset_ring n s
  | report b => exact createReport_ring b s h
  | ready => exact h.core.ready
  | taken => exact h.of_eq rfl rfl rfl rfl h.dropped rfl
  | consumed v _ hv => exact consumedCount_ring v hv h
  | lost => exact h.of_eq rfl rfl rfl rfl (Nat.min_le_left _ _) rfl
  | operations l => exact h.of_eq rfl rfl rfl rfl h.dropped rfl
  | startLoad k a n => exact startLoad_ring k a n h
  | stageBeat k d r => exact stageBeat_ring k d r h
  | sent b rest _ hb => exact sendBackground_ring b rest hb h
  | other hc hb =>
    exact h.of_eq (by rw [hc]) (by rw [hc]) (by rw [hc]) (by rw [hc]) (by rw [hc]; exact h.dropped) (by rw [hb])

theorem reset_background : BackgroundLaw State.reset :=
  ⟨rfl, Nat.zero_le _, List.nodup_nil, nofun⟩

theorem hardReset_background (n : Nat) (s : State) : BackgroundLaw (hardReset n s) :=
  reset_background.of_eq rfl rfl

/-- Every intake move keeps the background queue's law. -/
theorem intakeMove_background {s t : State} (m : IMove s t) (h : BackgroundLaw s) : BackgroundLaw t := by
  cases m with
  | hardReset n => exact hardReset_background n s
  | report b => exact createReport_background b s h
  | ready => exact makeReady_background h
  | taken => exact h.of_eq rfl rfl
  | consumed v _ hv => exact makeReady_background (h.of_eq rfl rfl)
  | lost => exact h.of_eq rfl rfl
  | operations l => exact h.of_eq rfl rfl
  | startLoad k a n _ ht => exact startLoad_background k a n ht h
  | stageBeat k d r => exact stageBeat_background k d r h
  | sent b rest _ hb => exact sendBackground_background b rest hb h
  | other hc hb hl => exact h.of_eq hb hl

/-- A background request is a report write or a look fetch (R8). -/
theorem length_eq_reports_add_fetches (l : List BackgroundItem) :
    l.length = l.countP BackgroundItem.isReport + (l.filterMap BackgroundItem.fetchSlot).length := by
  induction l with
  | nil => rfl
  | cons b l ih =>
    cases b with
    | report r =>
      simp [List.countP_cons, List.filterMap_cons, BackgroundItem.isReport, BackgroundItem.fetchSlot, ih, Nat.add_right_comm]
    | lookFetch k a => simp [BackgroundItem.isReport, BackgroundItem.fetchSlot, ih, Nat.add_assoc]

/-- Only a slot of the look store is LOADING (R112). -/
theorem lt_eight_of_loading {s : State} {k : Nat} (hl : s.ls.length = 8) (h : (lookSlotAt s k).state = .loading) :
    k < 8 := by
  by_contra hk
  unfold lookSlotAt at h
  rw [List.getD_eq_default _ _ (by omega)] at h
  cases h

/-- At most one report write and one fetch of each of the eight look slots wait (R10). -/
theorem BackgroundLaw.length_le {s : State} (h : BackgroundLaw s) : s.tu.background.length ≤ 9 := by
  have hf : (s.tu.background.filterMap BackgroundItem.fetchSlot).length ≤ 8 := by
    have hs : s.tu.background.filterMap BackgroundItem.fetchSlot ⊆ List.range 8 := fun k hk =>
      List.mem_range.2 (lt_eight_of_loading h.looks (h.loading k hk))
    simpa using (h.fetches.subperm hs).length_le
  have hr := h.reports
  rw [length_eq_reports_add_fetches]
  omega

/-- Settles O56: what every intake move keeps, every step keeps. -/
theorem everyStepKeepsTheReportRing : Obligations.EveryStepKeepsTheReportRing := by
  unfold Obligations.EveryStepKeepsTheReportRing
  exact ⟨fun _ _ => step_keeps_intake (fun _ _ => intakeMove_ring),
    fun _ _ => step_keeps_intake (fun _ _ => intakeMove_background), fun _ => BackgroundLaw.length_le⟩

end Sys2Proof.Machine
end

section
/-! PROOFS. The window set: no step makes two windows overlap (R13, R14). -/

namespace Sys2Proof.Machine

theorem WindowsWithin.of_sameUnits {s t : State} (h : SameUnits s t) : WindowsWithin s t :=
  .of h.cpBase (by rw [h.fiu]) h.ve (by rw [h.su])

/-- A command that is refused, or leaves u, leaves the window set as u does. -/
theorem refuse_or_windows {p : Prop} [Decidable p] {r : Reason} {s : State} {x : State × Answer}
    (h : WindowsWithin s x.1) : WindowsWithin s (if p then refuse r s else x).1 := by
  split
  · exact .refl s
  · exact h

theorem bandsSetAct_windows (v : Nat) (b : Option (List Band)) (m : Nat) (s : State) :
    WindowsWithin s (bandsSetAct v b m s).1 := by
  unfold bandsSetAct
  split
  · exact .refl s
  · cases b with
    | none => exact .refl s
    | some _ => exact (WindowsWithin.refl s).setView _ _

/-- A clip retired leaves the stream table: only closing notes forget the clip (R60). -/
theorem clipRetireAct_windows (i : Nat) (s : State) : WindowsWithin s (clipRetireAct i s).1 := by
  have retired : ∀ c, WindowsWithin s (retireClip i c s) := fun c =>
    .of (by simp) (by simp) (by simp) (by simp [retireClip, forgetClip, markRetired])
  unfold clipRetireAct
  split
  · exact .refl s
  · split
    · exact .refl s
    · split
      · exact .refl s
      · exact retired _

/-- A hard reset leaves the control page as the only window (R11, R30). -/
theorem hardReset_windows (n : Nat) (s : State) : WindowLaw (hardReset n s) := by
  have h : windowSet (hardReset n s) = [controlPage (hardReset n s)] := rfl
  unfold WindowLaw
  rw [h]
  exact List.pairwise_singleton _ _

theorem keyPress_windows (k : Nat) (s : State) : WindowsWithin s (keyPress k s) := by
  unfold keyPress
  split
  · exact act_windows _ _ _ (.of rfl rfl rfl rfl)
  · exact .refl s

theorem keyRepeat_windows (k : Nat) (s : State) : WindowsWithin s (keyRepeat k s) := by
  unfold keyRepeat
  split
  · split
    · exact act_windows _ _ _ (.of rfl rfl rfl rfl)
    · exact .of rfl rfl rfl rfl
  · exact .refl s

theorem frameResponse_windows (a k g : Nat) (ok : Bool) (s : State) : WindowsWithin s (frameResponse a k g ok s) := by
  unfold frameResponse
  dsimp only
  split
  · exact .refl s
  · split
    · exact .of (by simp) (by simp [setFrame_pool]) (by simp) (by simp)
    · split
      · exact .refl s
      · exact .of (by simp) (by simp [setFrame_pool]) (by simp) (by simp)
    · exact .refl s
    · exact .refl s

/-- Every move keeps the window set free of overlaps: three commands place a window, tested against the whole set (R13);
the resets take windows out; every other move leaves the set, but for windows of streams that end. -/
theorem move_windows {s t : State} (m : Move s t) (h : WindowLaw s) : WindowLaw t := by
  cases m with
  | hardReset n => exact hardReset_windows n s
  | poolSet b c n => exact poolSetAct_windows b c n h
  | viewWindowSet v b w n => exact viewWindowSetAct_windows v b w n h
  | streamOpen c r d b l x => exact streamOpenAct_windows c r d b l x h
  | engineReset => exact engineResetAct_windows h
  | endStream i o a => exact (endStream_windows _ _ _ _ (.refl s)).law h
  | streamBeat i a d st l => exact (streamBeat_windows _ _ _ _ _ (.refl s)).law h
  | streamResponse n ok => exact (streamResponse_windows _ _ (.refl s)).law h
  | frameResponse a k g ok => exact (frameResponse_windows _ _ _ _ s).law h
  | poolBeat r b i d st p => exact (poolBeat_windows _ _ _ _ _ _ (.refl s)).law h
  | cardRemoval k => exact (cardRemoval_windows _ (.refl s)).law h
  | viewRead v t r c b w => exact (viewRead_windows _ _ _ _ _ _ (.refl s)).law h
  | viewFetchReturn t i b => exact (viewFetchReturn_windows _ _ _ (.refl s)).law h
  | viewOn v => exact WindowsWithin.law (refuse_or_windows (refuse_or_windows (setPending_windows _ _ (.refl s)))) h
  | viewOff v => exact (refuse_or_windows (setPending_windows _ _ (.refl s))).law h
  | zonesSwitch x v => exact (refuse_or_windows (setPending_windows _ _ (.refl s))).law h
  | viewSource v c => exact WindowsWithin.law (refuse_or_windows (refuse_or_windows (setPending_windows _ _ (.refl s)))) h
  | viewGeometry v a b d f g => exact (refuse_or_windows (setPending_windows _ _ (.refl s))).law h
  | lookSelect v k r => exact (refuse_or_windows (setPending_windows _ _ (.refl s))).law h
  | clipMarkSet v b c => exact (refuse_or_windows (setPending_windows _ _ (.refl s))).law h
  | overlaySet v a b x y => exact (refuse_or_windows ((WindowsWithin.refl s).setView _ _)).law h
  | bandsSet v b n => exact (bandsSetAct_windows v b n s).law h
  | keyPress k => exact (keyPress_windows k s).law h
  | keyRepeat k => exact (keyRepeat_windows k s).law h
  | countStray => exact WindowsWithin.law (.of rfl rfl rfl rfl) h
  | tick => exact WindowsWithin.law (.of rfl rfl rfl rfl) h
  | quiet k => exact (WindowsWithin.of_sameUnits k).law h
  | clipRetire i => exact (clipRetireAct_windows i s).law h
  | clipOpen _ _ _ _ | cameraSet _ _ _ _ _ _ _ _ | pairSet _ _ _ _ | zonesSet _ _ | trackerClear
  | faultAck _ | clipFaultsAck _ | shuttleProfile _ _ | shuttleGo _ _ _ | shuttleStop _ | shuttleHold _
  | shuttleRelease _ | shuttleLocate _ _ _ | panelBind _ _ _ _ | panelTiming _ _ _ | startLoad _ _ _ | stageBeat _ _ _
  | cardDetChange _ _ | cardInsertion _ | keyChange _ _ | keyRelease _ | jogSample _ =>
    exact WindowsWithin.law (.of (by simp) (by simp) (by simp) (by simp)) h

/-- Settles O57: what every move keeps, every step keeps. -/
theorem everyStepKeepsWindowsApart : Obligations.EveryStepKeepsWindowsApart := by
  unfold Obligations.EveryStepKeepsWindowsApart
  intro s t
  exact step_keeps (fun _ _ k => (WindowsWithin.of_sameUnits k).law) (fun _ _ => move_windows)

end Sys2Proof.Machine
end

section
/-! PROOFS. Request addresses: what a request that arrives upstream leaves, by where it falls (R3 to R5, R7). -/

namespace Sys2Proof.Machine

section
variable (s : State) (req : Request)

theorem bookFull_iff : bookFull s = true ↔ 64 ≤ s.tu.book.length := by
  unfold bookFull; rw [decide_eq_true_eq]

theorem touchesView_iff :
    touchesView s req = true ↔ ∃ w ∈ viewWindows s 0 ++ viewWindows s 1, (requestSpan req).overlaps w = true :=
  overlapsAny_iff _ _

/-- What an untapped request does to the owners of the windows it touches takes no order-book tag (R4, R7). -/
theorem untappedEffect_nextTag : (untappedEffect req s).tu.nextTag = s.tu.nextTag := by
  unfold untappedEffect
  split
  · rfl
  · dsimp only
    split
    · exact untappedStreams_nextTag req s
    · exact untappedStreams_nextTag req s

/-- The order-book entry of a request that tells its owners first is made with the tag of its arrival (R4, R7). -/
theorem enterBook_untappedEffect (dir : Dir) (kind : EntryKind) (a : Option UpAnswer) :
    enterBook dir req kind a (untappedEffect req s) = (untappedEffect req s).withTu { (untappedEffect req s).tu with
      book := (untappedEffect req s).tu.book ++ [newEntry s dir req kind a]
      nextTag := (untappedEffect req s).tu.nextTag + 1 } := by
  unfold enterBook newEntry
  rw [untappedEffect_nextTag s req]

theorem forwardRequest_untappedEffect (dir : Dir) :
    forwardRequest dir req (untappedEffect req s) = (untappedEffect req s).withTu { (untappedEffect req s).tu with
      book := (untappedEffect req s).tu.book ++ [newEntry s dir req .forwarded none]
      nextTag := (untappedEffect req s).tu.nextTag + 1
      arrival := (untappedEffect req s).tu.arrival ++ [.forwarded s.tu.nextTag] } := by
  unfold forwardRequest
  rw [enterBook_untappedEffect, untappedEffect_nextTag s req]
  rfl

theorem untappedEffect_of_tapped (h : isTapped req = true) : untappedEffect req s = s :=
  (untappedEffect_spec s req).1 h

/-! ### A request address, case by case -/

theorem writeAddress_full (h : 64 ≤ s.tu.book.length) : writeAddress req s = s :=
  if_pos ((bookFull_iff s).2 h)

theorem writeAddress_inView (h : ¬64 ≤ s.tu.book.length) (hv : touchesView s req = true) :
    writeAddress req s = awaitData req true s.tu.nextTag
      (enterBook .write req .answered (some (errorAnswer .write req)) (untappedEffect req s)) := by
  unfold writeAddress
  rw [if_neg (mt (bookFull_iff s).1 h), if_pos hv]

theorem writeAddress_forwarded (h : ¬64 ≤ s.tu.book.length) (hv : ¬touchesView s req = true) :
    writeAddress req s = awaitData req false s.tu.nextTag (forwardRequest .write req (untappedEffect req s)) := by
  unfold writeAddress
  rw [if_neg (mt (bookFull_iff s).1 h), if_neg hv]

theorem readAddress_full (h : 64 ≤ s.tu.book.length) : readAddress req s = s :=
  if_pos ((bookFull_iff s).2 h)

theorem readAddress_inView (h : ¬64 ≤ s.tu.book.length) (hv : touchesView s req = true) :
    readAddress req s = settleViewRead req (untappedEffect req s) := by
  unfold readAddress
  rw [if_neg (mt (bookFull_iff s).1 h), if_pos hv]

theorem readAddress_forwarded (h : ¬64 ≤ s.tu.book.length) (hv : ¬touchesView s req = true) :
    readAddress req s = forwardRequest .read req (untappedEffect req s) := by
  unfold readAddress
  rw [if_neg (mt (bookFull_iff s).1 h), if_neg hv]

/-- A read that no view serves is answered ERROR (R3). -/
theorem settleViewRead_error (h : ¬isTapped req = true ∨ servedBy s req = none) :
    settleViewRead req s = enterBook .read req .answered (some (errorAnswer .read req)) s := by
  unfold settleViewRead
  split
  · rename_i x hx
    rw [if_neg (h.resolve_right (by rw [hx]; nofun))]
  · rfl

/-- A tapped read that lies in one row of a view window is handed to the View Engine (R3). -/
theorem settleViewRead_view {v : Nat} {w : ViewWindow} (ht : isTapped req = true) (h : servedBy s req = some (v, w)) :
    settleViewRead req s = viewRead v s.tu.nextTag ((req.addr.toNat - w.base) / w.stride)
      ((req.addr.toNat - w.base) % w.stride / 4) (beatCount req) w (enterBook .read req .viewRead none s) := by
  unfold settleViewRead
  rw [h]
  exact if_pos ht

theorem streamsTouched_sorted : (streamsTouched s req).Pairwise (· < ·) :=
  List.pairwise_lt_range.filter _

end

/-- Settles O4, by the cases of R3 to R5 and R7: a full book, a view window, and neither. -/
theorem requestsAreForwardedOrAnswered : Obligations.RequestsAreForwardedOrAnswered := by
  unfold Obligations.RequestsAreForwardedOrAnswered
  intro s req tapped n full inView inPool entry coming enter forward dataOf told stray owners errors whole held
  have htap : isTapped req = true ↔ tapped := isTapped_iff req
  have hview : touchesView s req = true ↔ inView := touchesView_iff s req
  have howners : owners (untappedEffect req s) := by
    obtain ⟨h1, h2, h3⟩ := untappedEffect_spec s req
    exact ⟨fun h => h1 (htap.2 h), fun h hp => h2 (mt htap.1 h) hp, fun h hp => h3 (mt htap.1 h) hp⟩
  refine ⟨mem_streamsTouched s req, streamsTouched_sorted s req, ⟨writeAddress req s, rfl, ?_, ?_, ?_⟩,
    ⟨readAddress req s, rfl, ?_, ?_, ?_, ?_⟩⟩
  · exact writeAddress_full s req
  · intro h hv
    refine ⟨_, howners, ?_⟩
    rw [writeAddress_inView s req h (hview.2 hv), enterBook_untappedEffect]; rfl
  · intro h hv
    refine ⟨_, howners, ?_⟩
    rw [writeAddress_forwarded s req h (mt hview.1 hv), forwardRequest_untappedEffect]; rfl
  · exact readAddress_full s req
  · intro h hv
    refine ⟨_, howners, ?_⟩
    rw [readAddress_forwarded s req h (mt hview.1 hv), forwardRequest_untappedEffect]; rfl
  · intro h hv hno
    refine ⟨_, howners, ?_⟩
    rw [readAddress_inView s req h (hview.2 hv), settleViewRead_error, enterBook_untappedEffect]
    · rfl
    · by_cases ht : tapped
      · rw [untappedEffect_of_tapped s req (htap.2 ht)]
        exact .inr (servedBy_none s req (hno.resolve_left (not_not.2 ht)))
      · exact .inl (mt htap.1 ht)
  · intro v w h hv ht h2 hw hin hfirst
    have ht := htap.2 ht
    rw [readAddress_inView s req h (hview.2 hv), untappedEffect_of_tapped s req ht,
      settleViewRead_view s req ht (servedBy_some s req v w h2 hw hin hfirst)]
    rfl

end Sys2Proof.Machine
end

section
/-! PROOFS. Write data beats: the owner of an address, and what a beat that arrives upstream leaves (R2, R5, R67). -/

namespace Sys2Proof.Machine

/-! ### The owner of an address (R2, Table 1-4) -/

theorem holds_iff (w : Span) (a : Nat) : w.holds a = true ↔ w.base ≤ a ∧ a < w.base + w.size := by
  unfold Span.holds; rw [decide_eq_true_eq]

section
variable {s : State} {a : Nat}

/-- The control page's range, as the spec writes it (R11). -/
theorem controlPage_holds : (controlPage s).holds a = true ↔ 2 ^ 32 * s.tu.cpBase ≤ a ∧ a < 2 ^ 32 * s.tu.cpBase + 8192 :=
  holds_iff _ _

theorem ownerOf_page (h : (controlPage s).holds a = true) : ownerOf s a =
    if a - (controlPage s).base < 4096 then .commandRing
    else if a - (controlPage s).base < 8128 then .reportRing
    else .consumedLine :=
  if_pos h

theorem poolWindows_hold : (poolWindows s).any (fun w => w.holds a) = true ↔
    ∃ p, s.fiu.pool = some p ∧ p.base ≤ a ∧ a < p.base + p.count * p.size := by
  unfold poolWindows
  cases s.fiu.pool <;> simp [holds_iff, poolSpan]

theorem ownerOf_pool (hc : ¬(controlPage s).holds a = true) (hp : (poolWindows s).any (fun w => w.holds a) = true) :
    ownerOf s a = .pool := by
  unfold ownerOf
  rw [if_neg hc, if_pos hp]

/-- Whether a place of the stream table holds a running stream whose window an address lies in. -/
theorem streamPlace_holds {k : Nat} (hk : k < s.su.table.length) :
    (s.su.table[k].map (fun x => (streamSpan x).holds a)).getD false = true ↔
      ∃ e, streamAt s k = some e ∧ e.base ≤ a ∧ a < e.base + e.length := by
  unfold streamAt
  rw [List.getD_eq_getElem _ _ hk]
  cases s.su.table[k] <;> simp [holds_iff, streamSpan]

theorem streamHolding_first {k : Nat} (hk : k < s.su.table.length)
    (h : ∃ e, streamAt s k = some e ∧ e.base ≤ a ∧ a < e.base + e.length)
    (hfirst : ∀ j, j < k → ¬∃ e, streamAt s j = some e ∧ e.base ≤ a ∧ a < e.base + e.length) :
    streamHolding s a = some k := by
  unfold streamHolding
  rw [List.findIdx?_eq_some_iff_getElem]
  exact ⟨hk, (streamPlace_holds hk).2 h, fun j hj => mt (streamPlace_holds (hj.trans hk)).1 (hfirst j hj)⟩

theorem streamHolding_none
    (h : ∀ k, k < s.su.table.length → ¬∃ e, streamAt s k = some e ∧ e.base ≤ a ∧ a < e.base + e.length) :
    streamHolding s a = none := by
  unfold streamHolding
  rw [List.findIdx?_eq_none_iff]
  intro x hx
  obtain ⟨k, hk, rfl⟩ := List.getElem_of_mem hx
  exact Bool.eq_false_iff.2 (mt (streamPlace_holds hk).1 (h k hk))

theorem ownerOf_stream {k : Nat} (hc : ¬(controlPage s).holds a = true)
    (hp : ¬(poolWindows s).any (fun w => w.holds a) = true) (hs : streamHolding s a = some k) :
    ownerOf s a = .stream k := by
  unfold ownerOf
  rw [if_neg hc, if_neg hp, hs]

/-- Outside the page, the pool and the streams' windows lie the view windows, which take no write beat, and nothing. -/
theorem ownerOf_rest (hc : ¬(controlPage s).holds a = true) (hp : ¬(poolWindows s).any (fun w => w.holds a) = true)
    (hs : streamHolding s a = none) : ownerOf s a = .nowhere ∨ ∃ v, ownerOf s a = .view v := by
  unfold ownerOf
  rw [if_neg hc, if_neg hp, hs]
  cases viewHolding s a with
  | none => exact .inl rfl
  | some v => exact .inr ⟨v, rfl⟩

end

/-! ### A tapped beat on its way to its owner -/

section
variable {s : State} {req : Request} {i : Nat} (beats : List WriteBeat) (marks : List Mark) (b : WriteBeat)

theorem routeBeat_commandRing (h : ownerOf s (beatAddress req i) = .commandRing) :
    routeBeat req beats marks i b s = (ringBeat req beats i s, none) := by
  unfold routeBeat; rw [h]

theorem routeBeat_reportRing (h : ownerOf s (beatAddress req i) = .reportRing) :
    routeBeat req beats marks i b s = (s, none) := by
  unfold routeBeat; rw [h]

theorem routeBeat_consumedLine (h : ownerOf s (beatAddress req i) = .consumedLine) :
    routeBeat req beats marks i b s = (consumedBeat (beatAddress req i) b.data b.strobes s, none) := by
  unfold routeBeat; rw [h]

theorem routeBeat_pool {p : Pool} (h : ownerOf s (beatAddress req i) = .pool) (hp : s.fiu.pool = some p) :
    routeBeat req beats marks i b s = poolBeat req beats i b.data b.strobes p s := by
  unfold routeBeat; rw [h, hp]

theorem routeBeat_stream {k : Nat} (h : ownerOf s (beatAddress req i) = .stream k) :
    routeBeat req beats marks i b s = streamBeat k (beatAddress req i) b.data b.strobes marks s := by
  unfold routeBeat; rw [h]

theorem routeBeat_rest (h : ownerOf s (beatAddress req i) = .nowhere ∨ ∃ v, ownerOf s (beatAddress req i) = .view v) :
    routeBeat req beats marks i b s = (s, none) := by
  unfold routeBeat
  rcases h with h | ⟨v, h⟩ <;> rw [h]

end

theorem beatField_low (d : BeatData) : beatField d 0 32 = d.toNat % 2 ^ 32 := by
  rw [beatField_eq, Nat.mul_zero, Nat.pow_zero, Nat.div_one]

/-! ### A data beat that arrives upstream -/

/-- The entry with a tag after a change of it that keeps the tags. -/
theorem entryOf_changeEntry {s : State} {tag : Nat} {e : BookEntry} {f : BookEntry → BookEntry}
    (hf : ∀ x, (f x).tag = x.tag) (he : entryOf s tag = some e) : entryOf (changeEntry tag f s) tag = some (f e) := by
  have htag : e.tag = tag := by simpa using List.find?_some he
  have hkeep : ∀ x : BookEntry, (if x.tag = tag then f x else x).tag = x.tag := by
    intro x; split <;> simp [hf]
  unfold entryOf changeEntry at *
  rw [State.withTu_tu, List.find?_map]
  simp only [Function.comp_def, hkeep, he, Option.map_some, htag, if_true]

theorem driveData_book (s : State) : (driveData s).tu.book = s.tu.book := rfl

/-- A beat of a forwarded write: kept and driven, and handed to its owner if tapped (R2, R5). -/
theorem forwardedBeat_eq {s : State} {w : InWrite} {e : BookEntry} (b : WriteBeat) (he : entryOf s w.tag = some e) :
    forwardedBeat w b s =
      let u := driveData (changeEntry w.tag (fun x => { x with writeBeats := x.writeBeats ++ [b] }) s)
      let r := routeBeat w.req (e.writeBeats ++ [b]) e.marks w.arrived b u
      if isTapped w.req then addMark w.tag r.2 r.1 else u := by
  have hu : entryOf (driveData (changeEntry w.tag (fun x => { x with writeBeats := x.writeBeats ++ [b] }) s)) w.tag =
      some { e with writeBeats := e.writeBeats ++ [b] } :=
    entryOf_changeEntry (f := fun x => { x with writeBeats := x.writeBeats ++ [b] }) (fun _ => rfl) he
  unfold forwardedBeat
  simp only [hu]

theorem dataBeat_none {s : State} (b : WriteBeat) (h : s.tu.inWrites = []) : dataBeat b s = s := by
  unfold dataBeat; rw [h]

theorem dataBeat_discarded {s : State} {w : InWrite} {rest : List InWrite} (b : WriteBeat)
    (h : s.tu.inWrites = w :: rest) (hd : w.discard = true) :
    dataBeat b s = s.withTu { s.tu with inWrites := countArrival w rest } := by
  unfold dataBeat
  rw [h]
  exact if_pos hd

theorem dataBeat_forwarded {s : State} {w : InWrite} {rest : List InWrite} (b : WriteBeat)
    (h : s.tu.inWrites = w :: rest) (hd : w.discard = false) :
    dataBeat b s = forwardedBeat w b (s.withTu { s.tu with inWrites := countArrival w rest }) := by
  unfold dataBeat
  rw [h]
  exact if_neg (Bool.eq_false_iff.1 hd)

theorem addMark_some (tag : Nat) (m : Mark) (s : State) : addMark tag (some m) s =
    changeEntry tag (fun e => if m ∈ e.marks then e else { e with marks := e.marks ++ [m] }) s := by
  simp only [addMark, List.contains_iff_mem]

/-- Settles O5: the beat is counted and kept, and goes to the owner of the window it falls in. -/
theorem writeBeatsReachTheirOwners : Obligations.WriteBeatsReachTheirOwners := by
  unfold Obligations.WriteBeatsReachTheirOwners
  intro s d st b
  refine ⟨⟨dataBeat b s, rfl, dataBeat_none b, ?_⟩, ?_⟩
  · intro w rest hw req left change counted u tapped
    refine ⟨dataBeat_discarded b hw, ?_⟩
    intro e hd he r
    have htap : isTapped req = true ↔ tapped := isTapped_iff req
    have hbeat : dataBeat b s = if isTapped req then addMark w.tag r.2 r.1 else u :=
      (dataBeat_forwarded b hw hd).trans (forwardedBeat_eq b he)
    rw [hbeat]
    refine ⟨fun ht => if_neg (mt htap.1 ht), fun ht => ?_⟩
    rw [if_pos (htap.2 ht)]
    cases r.2 with
    | none => rfl
    | some m => exact addMark_some w.tag m r.1
  · intro req beats marks i a page route inPage inPool inStream
    have hpage : (controlPage s).holds a = true ↔ inPage := controlPage_holds
    have hpool : (poolWindows s).any (fun w => w.holds a) = true ↔ inPool := poolWindows_hold
    have hbase : (controlPage s).base = page := rfl
    refine ⟨?_, ?_, ?_, ?_, ?_, ?_⟩
    · intro h1 h2
      apply routeBeat_commandRing
      rw [show beatAddress req i = a from rfl, ownerOf_page (hpage.2 ⟨h1, by omega⟩), hbase, if_pos (by omega)]
    · intro h1 h2
      apply routeBeat_reportRing
      rw [show beatAddress req i = a from rfl, ownerOf_page (hpage.2 ⟨by omega, by omega⟩), hbase, if_neg (by omega),
        if_pos (by omega)]
    · intro h1 h2
      have ho : ownerOf s (beatAddress req i) = .consumedLine := by
        rw [show beatAddress req i = a from rfl, ownerOf_page (hpage.2 ⟨by omega, by omega⟩), hbase, if_neg (by omega),
          if_neg (by omega)]
      refine (routeBeat_consumedLine beats marks b ho).trans ?_
      rw [consumedBeat, beatField_low]
      rfl
    · intro p hc hp h1 h2 k o
      exact routeBeat_pool beats marks b (ownerOf_pool (mt hpage.1 hc) (hpool.2 ⟨p, hp, h1, h2⟩)) hp
    · intro k hc hp hk hin hfirst
      exact routeBeat_stream beats marks b
        (ownerOf_stream (mt hpage.1 hc) (mt hpool.1 hp) (streamHolding_first hk hin hfirst))
    · intro hc hp hno
      exact routeBeat_rest beats marks b (ownerOf_rest (mt hpage.1 hc) (mt hpool.1 hp) (streamHolding_none hno))

end Sys2Proof.Machine
end

section
/-! PROOFS. The memory-port arbiter and the write data that follows it (R5, R8, R9). -/

namespace Sys2Proof.Machine

/-! ### The choice by the run count (R9) -/

theorem arbiterSend_idle {s : State} (hb : s.tu.background = []) (ha : s.tu.arrival = []) : arbiterSend s = s := by
  unfold arbiterSend
  rw [hb, ha]

theorem arbiterSend_background {s : State} {b : BackgroundItem} {rest : List BackgroundItem}
    (hb : s.tu.background = b :: rest) (h : s.tu.arrival = [] ∨ 8 ≤ s.tu.runCount) :
    arbiterSend s = sendBackground b rest s := by
  unfold arbiterSend
  rw [hb]
  cases ha : s.tu.arrival with
  | nil => rfl
  | cons a as => exact if_pos (h.resolve_left (by rw [ha]; nofun))

theorem arbiterSend_arrival {s : State} {a : ArrivalItem} {rest : List ArrivalItem} (ha : s.tu.arrival = a :: rest)
    (h : s.tu.background = [] ∨ s.tu.runCount < 8) : arbiterSend s = sendArrival a rest s := by
  unfold arbiterSend
  rw [ha]
  cases hb : s.tu.background with
  | nil => rfl
  | cons b bs => exact if_neg (Nat.not_le.2 (h.resolve_left (by rw [hb]; nofun)))

/-! ### What is sent -/

theorem dataAfter_nil (l : List DataWrite) : dataAfter l [] = l := by simp [dataAfter]

/-- A look fetch sent is no write: no data follows it (R8). -/
theorem sendBackground_lookFetch (k a : Nat) (rest : List BackgroundItem) (s : State) :
    sendBackground (.lookFetch k a) rest s = makeReady (driveData (s.withTu { s.tu with
      background := rest, runCount := 0, memOut := some (.lookFetch a) })) := by
  unfold sendBackground
  rw [show writesOf (.lookFetch k a) = [] from rfl, dataAfter_nil, List.append_nil]
  rfl

/-- A forwarded request sent; its data follows if it is a write (R5). -/
theorem sendArrival_forwarded {s : State} {tag : Nat} {e : BookEntry} (rest : List ArrivalItem)
    (he : entryOf s tag = some e) :
    sendArrival (.forwarded tag) rest s = driveData (s.withTu { s.tu with
      arrival := rest, runCount := s.tu.runCount + 1, memOut := some (.forwarded e.dir e.req)
      sentWrites := if e.dir = .write then s.tu.sentWrites ++ [.forwarded tag] else s.tu.sentWrites
      dataQueue := if e.dir = .write then s.tu.dataQueue ++ [{ write := .forwarded tag, sent := 0 }]
        else s.tu.dataQueue }) := by
  have hw : forwardedWrites s (.forwarded tag) = if e.dir = .write then [.forwarded tag] else [] := by
    simp [forwardedWrites, he]
  unfold sendArrival
  rw [hw, show arrivalRequest s (.forwarded tag) = some (.forwarded e.dir e.req) by simp [arrivalRequest, he]]
  split
  · rfl
  · rw [dataAfter_nil, List.append_nil]

/-- An own read sent is no write (R8). -/
theorem sendArrival_viewRead {s : State} {tag index : Nat} {o : OwnRead} (rest : List ArrivalItem)
    (ho : ownReadOf s tag index = some o) :
    sendArrival (.viewRead tag index) rest s = driveData (s.withTu { s.tu with
      arrival := rest, runCount := s.tu.runCount + 1, memOut := some (.viewRead o.addr o.beats) }) := by
  unfold sendArrival
  rw [show forwardedWrites s (.viewRead tag index) = [] from rfl, dataAfter_nil, List.append_nil,
    show arrivalRequest s (.viewRead tag index) = some (.viewRead o.addr o.beats) by simp [arrivalRequest, ho]]

theorem ownReadOf_eq {s : State} {tag index : Nat} {r : ServedRead} {o : OwnRead}
    (hr : (s.ve.flatMap (fun x => x.reads)).find? (fun r => r.tag == tag) = some r) (ho : r.reads[index]? = some o) :
    ownReadOf s tag index = some o := by
  unfold ownReadOf
  rw [hr]
  exact ho

/-! ### The write data that follows (R5) -/

/-- Both beats of a report write are there when it is sent. -/
theorem dataReady_report (s : State) (x : ReadyReport) (n : Nat) (rest : List DataWrite) :
    dataReady s ({ write := .report x, sent := n } :: rest) =
      ((dataOf s (.report x)).1.drop n ++ (dataReady s rest).1, (dataReady s rest).2) := by
  have h : ¬(dataOf s (.report x)).1.length < (dataOf s (.report x)).2 := Nat.lt_irrefl 2
  simp only [dataReady, if_neg h]

theorem driveData_eq (s : State) : driveData s = s.withTu { s.tu with
    dataQueue := (dataReady s s.tu.dataQueue).2
    memData := if (dataReady s s.tu.dataQueue).1 = [] then s.tu.memData else (dataReady s s.tu.dataQueue).1 } := by
  unfold driveData
  simp only [List.isEmpty_iff]

/-- Settles O6: the arbiter's choice, then what is sent. -/
theorem arbiterSendsByTheRunCount : Obligations.ArbiterSendsByTheRunCount := by
  unfold Obligations.ArbiterSendsByTheRunCount
  intro s page queued full
  refine ⟨⟨arbiterSend s, rfl, arbiterSend_idle, ?_, ?_, ?_, ?_⟩, ?_, driveData_eq s⟩
  · intro r rest hb h
    rw [arbiterSend_background hb h]; rfl
  · intro k address rest hb h
    rw [arbiterSend_background hb h, sendBackground_lookFetch]
  · intro tag rest e h ha he
    rw [arbiterSend_arrival ha h, sendArrival_forwarded rest he]
  · intro tag index rest r o h ha hr ho
    rw [arbiterSend_arrival ha h, sendArrival_viewRead rest (ownReadOf_eq hr ho)]
  · intro l ready
    refine ⟨?_, ?_, ?_⟩
    · rintro rfl; rfl
    · rintro tag n rest e rfl he
      exact dataReady_forwarded n rest he
    · rintro x n rest rfl
      exact dataReady_report s x n rest

end Sys2Proof.Machine
end

section
/-! PROOFS. Responses from memory, and the order book's release upstream (R5 to R7, R9). -/

namespace Sys2Proof.Machine

/-! ### Finding the request that a response names -/

/-- The first of a list that passes a test, when what stands before it does not. -/
theorem find?_of_first {α : Type} {p : α → Bool} {before behind : List α} {a : α} (hb : ∀ x ∈ before, ¬p x = true)
    (ha : p a = true) : (before ++ a :: behind).find? p = some a := by
  rw [List.find?_append, List.find?_eq_none.2 hb, Option.none_or, List.find?_cons_of_pos ha]

theorem findIdx?_of_first {α : Type} {p : α → Bool} {before behind : List α} {a : α} (hb : ∀ x ∈ before, ¬p x = true)
    (ha : p a = true) : (before ++ a :: behind).findIdx? p = some before.length := by
  rw [List.findIdx?_append, List.findIdx?_eq_none_iff.2 (fun x hx => by simpa using hb x hx), List.findIdx?_cons]
  simp [ha]

theorem isSentWrite_iff (s : State) (id : Nat) (w : SentWrite) : isSentWrite s id w = true ↔
    ∃ tag e, w = .forwarded tag ∧ entryOf s tag = some e ∧ e.req.id = id := by
  unfold isSentWrite
  cases w with
  | forwarded tag => simp [Option.any_eq_true]
  | report r => simp

theorem respOk_eq (resp : Resp) : respOk resp = decide (resp = .okay ∨ resp = .exokay) := by
  cases resp <;> rfl

theorem dataArrived_iff (s : State) (tag : Nat) : dataArrived s tag = true ↔ ∀ w ∈ s.tu.inWrites, w.tag ≠ tag := by
  unfold dataArrived
  simp

theorem awaitsRead_iff (s : State) (id : Nat) (e : BookEntry) : awaitsRead s id e = true ↔
    e.kind = .forwarded ∧ e.dir = .read ∧ e.req.id = id ∧ e.answer = none ∧
      ArrivalItem.forwarded e.tag ∉ s.tu.arrival := by
  unfold awaitsRead
  simp [and_assoc]

theorem inOrder_iff (dir : Dir) (id : Nat) (e : BookEntry) : inOrder dir id e = true ↔ e.dir = dir ∧ e.req.id = id := by
  unfold inOrder
  simp

/-! ### A write response (R5) -/

theorem writeResponse_none {s : State} {id : Nat} (resp : Resp)
    (h : ∀ w ∈ s.tu.sentWrites, ¬isSentWrite s id w = true) : writeResponse id resp s = s := by
  unfold writeResponse
  rw [List.findIdx?_eq_none_iff.2 (fun w hw => by simpa using h w hw)]

theorem writeResponse_first {s : State} {id tag : Nat} {before behind : List SentWrite} (resp : Resp)
    (hl : s.tu.sentWrites = before ++ .forwarded tag :: behind) (hb : ∀ w ∈ before, ¬isSentWrite s id w = true)
    (ht : isSentWrite s id (.forwarded tag) = true) : writeResponse id resp s = returnWrite tag before.length resp s := by
  unfold writeResponse
  rw [hl, findIdx?_of_first hb ht]
  simp

/-- The write that a response answers leaves the list of the sent. -/
theorem forgetSent_first {s : State} {before behind : List SentWrite} {w : SentWrite}
    (hl : s.tu.sentWrites = before ++ w :: behind) :
    forgetSent before.length s = s.withTu { s.tu with sentWrites := before ++ behind } := by
  unfold forgetSent
  rw [hl, List.eraseIdx_append_of_length_le le_rfl, Nat.sub_self, List.eraseIdx_cons_zero]

theorem returnWrite_early {s : State} {tag : Nat} (i : Nat) (resp : Resp) (h : ∃ w ∈ s.tu.inWrites, w.tag = tag) :
    returnWrite tag i resp s = s := by
  have hn : ¬dataArrived s tag = true := by
    rw [dataArrived_iff]
    obtain ⟨w, hw, ht⟩ := h
    exact fun ha => ha w hw ht
  unfold returnWrite
  split
  · rfl
  · rw [if_neg hn]

theorem returnWrite_arrived {s : State} {tag : Nat} {e : BookEntry} (i : Nat) (resp : Resp)
    (he : entryOf s tag = some e) (h : ∀ w ∈ s.tu.inWrites, w.tag ≠ tag) :
    returnWrite tag i resp s =
      showOwners e.marks (respOk resp) (setAnswer tag (.write resp) (forgetSent i s)) := by
  unfold returnWrite
  rw [he]
  exact if_pos ((dataArrived_iff s tag).2 h)

/-! ### The order among owners (log entry 9) -/

theorem chooseOrder_spec {α : Type} (l : List α) (s : State) :
    ((chooseOrder l s).1 = l ∧ l.length ≤ 1 ∧ (chooseOrder l s).2 = s) ∨
      (1 < l.length ∧ ((chooseOrder l s).1 = l ∨ (chooseOrder l s).1 = l.reverse) ∧
        (chooseOrder l s).2 = s.withFree (s.free + 1)) := by
  unfold chooseOrder
  split
  · exact .inl ⟨rfl, ‹_›, rfl⟩
  · split
    · exact .inr ⟨by omega, .inr rfl, rfl⟩
    · exact .inr ⟨by omega, .inl rfl, rfl⟩

/-! ### Read data (R6) -/

theorem readData_none {s : State} {id : Nat} (beats : List ReadBeat) (h : ∀ e ∈ s.tu.book, ¬awaitsRead s id e = true) :
    readData id beats s = s := by
  unfold readData
  rw [List.find?_eq_none.2 h]

/-- A change of the entry with a tag that no other entry has. -/
theorem changeEntry_unique {s : State} {before behind : List BookEntry} {e : BookEntry} (f : BookEntry → BookEntry)
    (hl : s.tu.book = before ++ e :: behind) (hu : ∀ x ∈ before ++ behind, x.tag ≠ e.tag) :
    changeEntry e.tag f s = s.withTu { s.tu with book := before ++ f e :: behind } := by
  have same : ∀ l : List BookEntry, (∀ x ∈ l, x.tag ≠ e.tag) → l.map (fun x => if x.tag = e.tag then f x else x) = l :=
    fun l h => (List.map_congr_left (fun x hx => if_neg (h x hx))).trans (List.map_id' l)
  have hb := same before (fun x hx => hu x (List.mem_append_left _ hx))
  have hf := same behind (fun x hx => hu x (List.mem_append_right _ hx))
  unfold changeEntry
  rw [hl, List.map_append, List.map_cons, hb, hf, if_pos rfl]

theorem readData_first {s : State} {id : Nat} {before behind : List BookEntry} {e : BookEntry} (beats : List ReadBeat)
    (hl : s.tu.book = before ++ e :: behind) (hb : ∀ x ∈ before, ¬awaitsRead s id x = true)
    (he : awaitsRead s id e = true) (hu : ∀ x ∈ before ++ behind, x.tag ≠ e.tag) :
    readData id beats s = s.withTu { s.tu with book := before ++ addReadData beats e :: behind } := by
  have hfind : s.tu.book.find? (awaitsRead s id) = some e := by rw [hl]; exact find?_of_first hb he
  unfold readData
  rw [hfind]
  exact changeEntry_unique _ hl hu

/-! ### Release upstream (R7) -/

theorem releaseEntry_none {s : State} {dir : Dir} {id : Nat} (h : ∀ e ∈ s.tu.book, ¬inOrder dir id e = true) :
    releaseEntry dir id s = s := by
  unfold releaseEntry
  rw [List.find?_eq_none.2 h]

theorem releaseEntry_waiting {s : State} {dir : Dir} {id : Nat} {e : BookEntry}
    (hfind : s.tu.book.find? (inOrder dir id) = some e) (ha : e.answer = none) : releaseEntry dir id s = s := by
  unfold releaseEntry
  rw [hfind]
  simp only [ha]

theorem releaseEntry_ready {s : State} {dir : Dir} {id : Nat} {before behind : List BookEntry} {e : BookEntry}
    {a : UpAnswer} (hl : s.tu.book = before ++ e :: behind) (hb : ∀ x ∈ before, ¬inOrder dir id x = true)
    (he : inOrder dir id e = true) (ha : e.answer = some a) :
    releaseEntry dir id s = s.withTu { s.tu with
      book := before ++ behind, upOut := some { dir := dir, id := id, answer := a } } := by
  have herase : s.tu.book.eraseP (inOrder dir id) = before ++ behind := by
    rw [hl, List.eraseP_append_right _ (by simpa using hb), List.eraseP_cons_of_pos he]
  unfold releaseEntry
  rw [herase, hl, find?_of_first hb he]
  simp only [ha]

/-- Settles O7: each response finds the request it names, and the first entry of an order leaves. -/
theorem responsesReturnAndLeave : Obligations.ResponsesReturnAndLeave := by
  unfold Obligations.ResponsesReturnAndLeave
  intro s id resp beats dir entry names ok showTo awaiting inOrd
  have hnames : ∀ w, isSentWrite s id w = true ↔ names w := isSentWrite_iff s id
  have hawait : ∀ e, awaitsRead s id e = true ↔ awaiting e := awaitsRead_iff s id
  have horder : ∀ e, inOrder dir id e = true ↔ inOrd e := inOrder_iff dir id
  have hshow : ∀ t m, showMark (respOk resp) m t = showTo t m := by
    intro t m
    rw [respOk_eq]
    cases m <;> rfl
  refine ⟨⟨writeResponse id resp s, rfl, ?_, ?_⟩, fun l => chooseOrder_spec l s, ⟨readData id beats s, rfl, ?_, ?_⟩,
    ⟨releaseEntry dir id s, rfl, ?_, ?_⟩, rfl⟩
  · exact fun h => writeResponse_none resp (fun w hw => mt (hnames w).1 (h w hw))
  · intro before tag behind e hl hb he hid u
    rw [writeResponse_first resp hl (fun w hw => mt (hnames w).1 (hb w hw)) ((hnames _).2 ⟨tag, e, rfl, he, hid⟩)]
    refine ⟨returnWrite_early _ _, fun h => ?_⟩
    rw [returnWrite_arrived _ _ he h, forgetSent_first hl]
    unfold showOwners
    simp only [hshow]
    rfl
  · exact fun h => readData_none beats (fun e he => mt (hawait e).1 (h e he))
  · intro before e behind hl hb he hu n d
    exact readData_first beats hl (fun x hx => mt (hawait x).1 (hb x hx)) ((hawait e).2 he) hu
  · exact fun h => releaseEntry_none (fun e he => mt (horder e).1 (h e he))
  · intro before e behind hl hb he
    have hb' : ∀ x ∈ before, ¬inOrder dir id x = true := fun x hx => mt (horder x).1 (hb x hx)
    refine ⟨?_, fun a ha => releaseEntry_ready hl hb' ((horder e).2 he) ha⟩
    exact releaseEntry_waiting (by rw [hl]; exact find?_of_first hb' ((horder e).2 he))

end Sys2Proof.Machine
end

section
/-! PROOFS. The state right after hard reset meets the laws of Safety.lean. -/

namespace Sys2Proof.Machine

theorem reset_tables : TableLaw State.reset := by
  constructor <;> decide

theorem reset_windows : WindowLaw State.reset := List.pairwise_singleton _ (controlPage State.reset)

theorem reset_lamps : LampLaw State.reset := by
  unfold LampLaw
  decide

theorem clipAt_reset (i : Nat) : clipAt State.reset i = none := replicate_getD 64 i

theorem streamAt_reset (i : Nat) : streamAt State.reset i = none := replicate_getD 24 i

theorem reset_clips : ClipLaw State.reset := ClipLaw.none clipAt_reset streamAt_reset

theorem reset_frames : FrameLaw State.reset := nofun

theorem reset_track : TrackLaw State.reset := ⟨Nat.zero_le _, List.Pairwise.nil, nofun⟩

theorem reset_faults : FaultLaw State.reset where
  size := Nat.zero_le _
  streams i e h := by rw [streamAt_reset] at h; cases h
  notes := nofun
  critical _ := Nat.zero_le _

/-- A motion context at rest at position 0 with nothing to come (R158). -/
theorem motionReset_law : MotionLaw Motion.reset := ⟨by decide, nofun, nofun, fun _ => nofun, by decide, by decide⟩

theorem reset_shuttles : ShuttleLaw State.reset where
  motions m hm := by
    have h : m = Motion.reset := by simpa [State.reset] using hm
    exact h ▸ motionReset_law
  numbers := by
    refine ⟨nofun, ?_, nofun⟩
    intro p hp
    obtain rfl : p = StereoPair.reset := List.eq_of_mem_replicate hp
    exact nofun

/-- Settles O3, law by law. -/
theorem resetMeetsTheLaws : Obligations.ResetMeetsTheLaws := by
  unfold Obligations.ResetMeetsTheLaws
  exact ⟨reset_tables, reset_ring, reset_background, reset_windows, reset_lamps, reset_clips, reset_frames, reset_track,
    reset_faults, reset_shuttles⟩

end Sys2Proof.Machine
end

section
/-! PROOFS. The report ring: reports made ready or dropped, and the consumed count (R23, R24, R26, R27). -/

namespace Sys2Proof.Machine

theorem reportWaiting_eq_false (s : State) :
    reportWaiting s = false ↔ ∀ r, BackgroundItem.report r ∉ s.tu.background := by
  unfold reportWaiting
  rw [List.any_eq_false]
  refine ⟨fun h r hr => h _ hr rfl, fun h b hb => ?_⟩
  cases b with
  | report r => exact absurd hb (h r)
  | lookFetch k a => exact Bool.false_ne_true

/-- With nothing in the pending queue there is nothing to make ready (R24). -/
theorem makeReady_empty {s : State} (h : s.cir.queue = []) : makeReady s = s := by
  unfold makeReady
  rw [h]

/-- The head report waits while the ring is full or a report write waits (R24). -/
theorem makeReady_waits {s : State} (h : ¬(reportsOutstanding s < 63 ∧ reportWaiting s = false)) :
    makeReady s = s := by
  rcases makeReady_cases s with e | ⟨r, rest, -, ho, hw, -⟩
  · exact e
  · exact absurd ⟨ho, hw⟩ h

theorem makeReady_head {s : State} {r : Report} {rest : List Report} (hq : s.cir.queue = r :: rest)
    (ho : reportsOutstanding s < 63) (hw : reportWaiting s = false) : makeReady s = readyReport r rest s := by
  unfold makeReady
  rw [hq]
  exact if_pos ⟨ho, hw⟩

/-- A report created with 32 in the pending queue is counted as dropped (R23). -/
theorem createReport_full {s : State} (b : ReportBody) (h : 32 ≤ s.cir.queue.length) :
    createReport b s = s.withCir { s.cir with dropped := satAdd 65535 s.cir.dropped 1 } := if_pos h

theorem createReport_room {s : State} (b : ReportBody) (h : s.cir.queue.length < 32) :
    createReport b s = makeReady (s.withCir { s.cir with queue := s.cir.queue ++ [{ time := s.time, body := b }] }) :=
  if_neg (by omega)

/-- Settles O10: the report ring's operations, each by its cases. -/
theorem reportsAreMadeReadyOrDropped : Obligations.ReportsAreMadeReadyOrDropped := by
  unfold Obligations.ReportsAreMadeReadyOrDropped
  intro s body v c room idle d o
  have hidle : reportWaiting s = false ↔ idle := reportWaiting_eq_false s
  refine ⟨⟨makeReady s, rfl, rfl, makeReady_empty, ?_, ?_, ?_⟩, createReport_full body, createReport_room body, rfl,
    bne_iff_ne⟩
  · exact fun hroom => makeReady_waits fun ⟨ho, _⟩ => hroom ho
  · exact fun hbusy => makeReady_waits fun ⟨_, hw⟩ => hbusy (hidle.1 hw)
  · exact fun r rest hq hroom hw => makeReady_head hq hroom (hidle.2 hw)

end Sys2Proof.Machine
end

section
/-! PROOFS. The answers to report writes, and SNAPSHOT's operation (R25, R28). -/

namespace Sys2Proof.Machine

/-! ### The answer to a report write (R25, R28) -/

theorem sentReport_isSome_iff (sequence : Nat) (w : SentWrite) :
    (sentReport sequence w).isSome = true ↔ ∃ r, w = .report r ∧ r.sequence = sequence := by
  unfold sentReport
  cases w <;> simp

theorem reportWriteResponse_none {s : State} {sequence : Nat} (ok : Bool)
    (h : ∀ w ∈ s.tu.sentWrites, ¬(sentReport sequence w).isSome = true) :
    reportWriteResponse sequence ok s = s := by
  unfold reportWriteResponse
  rw [List.findIdx?_eq_none_iff.2 (fun w hw => by simpa using h w hw)]

theorem reportWriteResponse_first {s : State} {sequence : Nat} {before behind : List SentWrite} {r : ReadyReport}
    (ok : Bool) (hl : s.tu.sentWrites = before ++ .report r :: behind)
    (hb : ∀ w ∈ before, ¬(sentReport sequence w).isSome = true) (hr : r.sequence = sequence) :
    reportWriteResponse sequence ok s =
      reportResponse r ok (s.withTu { s.tu with sentWrites := before ++ behind }) := by
  rw [← forgetSent_first hl]
  unfold reportWriteResponse
  rw [hl, findIdx?_of_first hb ((sentReport_isSome_iff _ _).2 ⟨r, rfl, hr⟩)]
  simp

theorem countLoss_eq (ok : Bool) (s : State) : countLoss ok s =
    s.withCir { s.cir with dropped := if ok then s.cir.dropped else min 65535 (s.cir.dropped + 1) } := by
  cases ok <;> rfl

/-- Only a SNAPSHOT's report ends an operation (R28). -/
theorem endOperation_other {r : ReadyReport} (ok : Bool) (s : State) (h : ∀ m y, r.body ≠ .snapshot m y) :
    endOperation r ok s = s := by
  unfold endOperation
  split
  · exact absurd ‹_› (h _ _)
  · rfl

theorem endOperation_snapshot {r : ReadyReport} {m : Nat} {y : SnapshotValues} (ok : Bool) (s : State)
    (h : r.body = .snapshot m y) : endOperation r ok s =
      createReport (.completion m 0x90 (if ok then .done 0 else .refused .noRoom 2))
        (s.withCir { s.cir with snapshots := s.cir.snapshots.erase m }) := by
  unfold endOperation
  rw [h]
  rfl

/-! ### SNAPSHOT (R28) -/

theorem foldl_satAdd {α : Type} (top : Nat) (f : α → Nat) (l : List α) (n : Nat) (hn : n ≤ top) :
    l.foldl (fun n a => satAdd top n (f a)) n = min top (n + (l.map f).sum) := by
  induction l generalizing n with
  | nil => simpa using hn
  | cons a l ih =>
    have hstop : satAdd top n (f a) ≤ top := Nat.min_le_left _ _
    rw [List.foldl_cons, ih _ hstop, List.map_cons, List.sum_cons]
    unfold satAdd
    omega

theorem droppedFrames_eq (s : State) :
    droppedFrames s = min 65535 (s.ctu.cameras.map (fun c => c.framesDropped)).sum := by
  unfold droppedFrames
  rw [foldl_satAdd 65535 (fun c : Camera => c.framesDropped) _ 0 (Nat.zero_le _), Nat.zero_add]

theorem slotsIn_eq (s : State) (st : SlotState) :
    slotsIn s st = (s.fiu.slots.filter (fun f => decide (f.state = st))).length := List.countP_eq_length_filter

/-- Taking the record changes nothing that a SNAPSHOT records. -/
theorem snapshotValues_advanceSequence (s : State) : snapshotValues (advanceSequence s) = snapshotValues s := rfl

theorem startSnapshot_room {s : State} (n : Nat) (h : s.cir.queue.length < 32) : startSnapshot n s =
    createReport (.snapshot n (snapshotValues s)) (s.withCir { s.cir with snapshots := s.cir.snapshots ++ [n] }) :=
  if_neg (by omega)

theorem startSnapshot_full {s : State} (n : Nat) (h : 32 ≤ s.cir.queue.length) : startSnapshot n s =
    createReport (.completion n 0x90 (.refused .noRoom 1)) (createReport (.snapshot n (snapshotValues s)) s) := if_pos h

/-- Two reports created with the pending queue full are both dropped (R23). -/
theorem createReport_createReport_full {s : State} (b b' : ReportBody) (h : 32 ≤ s.cir.queue.length) :
    createReport b (createReport b' s) =
      s.withCir { s.cir with dropped := min 65535 (min 65535 (s.cir.dropped + 1) + 1) } := by
  rw [createReport_full b' h]
  exact createReport_full b h

/-- Settles O11: the sent report that an answer names leaves, and SNAPSHOT by the room in the queue. -/
theorem reportWritesAreAnsweredAndSnapshotsEnd : Obligations.ReportWritesAreAnsweredAndSnapshotsEnd := by
  unfold Obligations.ReportWritesAreAnsweredAndSnapshotsEnd
  intro s sequence resp ok names x inState values n
  have hnames : ∀ w, (sentReport sequence.toNat w).isSome = true ↔ names w := sentReport_isSome_iff sequence.toNat
  have hvalues : snapshotValues (advanceSequence s) = values := by
    rw [snapshotValues_advanceSequence]
    unfold snapshotValues
    simp only [List.countP_eq_length_filter, slotsIn_eq, droppedFrames_eq]
    rfl
  refine ⟨⟨reportWriteResponse sequence.toNat (respOk resp) s, rfl, ?_, ?_⟩, ⟨takeSnapshot s, rfl, ?_, ?_⟩⟩
  · exact fun h => reportWriteResponse_none _ (fun w hw => mt (hnames w).1 (h w hw))
  · intro before r behind hl hb hr u v
    have hv : countLoss (respOk resp) u = v := by
      rw [countLoss_eq, respOk_eq]
      simp only [decide_eq_true_eq]
      rfl
    rw [reportWriteResponse_first _ hl (fun w hw => mt (hnames w).1 (hb w hw)) hr]
    unfold reportResponse
    rw [hv]
    refine ⟨endOperation_other _ v, fun m y hbody => ?_⟩
    rw [endOperation_snapshot _ v hbody, respOk_eq]
    simp only [decide_eq_true_eq]
    rfl
  · intro h
    rw [← hvalues]
    exact startSnapshot_room n h
  · intro h
    have hfull : takeSnapshot s =
        createReport (.completion n 0x90 (.refused .noRoom 1)) (createReport (.snapshot n values) x) := by
      rw [← hvalues]
      exact startSnapshot_full n h
    exact ⟨hfull.trans (createReport_createReport_full _ _ h), hfull⟩

end Sys2Proof.Machine
end

section
/-! PROOFS. Command records: how one runs, and how the slots of the command ring are judged (R15 to R19). -/

namespace Sys2Proof.Machine

/-! ### Running a record (R19) -/

theorem isCommandCode_iff (code : Nat) : isCommandCode code = true ↔ code ∈ codeTable := List.contains_iff_mem

theorem exec_unknownCommand (code : BitVec 16) (s : State) : exec (.unknownCommand code) s =
    .next (if isCommandCode code.toNat = true then s else takeUnknown code.toNat s) := rfl

/-- Only the row of a code of the table differs from the record it stands for: it is no such record (log entry 1). -/
theorem exec_of_record {c : Instr} (s : State) (hc : commandFields c ≠ none)
    (hu : ∀ code, c = .unknownCommand code → isCommandCode code.toNat = false) :
    exec c s = .next (executeRecord c s) := by
  cases c
  case unknownCommand code =>
    rw [exec_unknownCommand, hu code rfl]
    rfl
  case hardReset | writeRequestAddress | readRequest | writeBeat | writeResponse | forwardedReadData | orderBookRelease
      | arbiterSend | preResetResponse | reportMadeReady | reportWriteResponse | lookFetchBeat | viewFetchReturn
      | commandRecordIgnored | commandSlotPartial | consumedCountWrite | cardDetChange | cardInsertion | cardRemoval
      | keyChange | keyPress | keyRelease | keyRepeat | jogDetent | timeBaseTick | jogTransition =>
    exact absurd rfl hc
  all_goals rfl

theorem decodeRecord_known (r : BitVec 512) (h : isCommandCode (recordCode r).toNat = true) :
    commandFields (decodeRecord r) ≠ none ∧ ∀ code, decodeRecord r ≠ .unknownCommand code := by
  unfold decodeRecord
  split
  case h_35 => simp_all [isCommandCode, codeTable]
  all_goals exact ⟨nofun, nofun⟩

/-- The command that a record decodes to runs as the record does. -/
theorem exec_decodeRecord (r : BitVec 512) (s : State) :
    exec (decodeRecord r) s = .next (executeRecord (decodeRecord r) s) := by
  cases h : isCommandCode (recordCode r).toNat with
  | true =>
    obtain ⟨hrecord, hknown⟩ := decodeRecord_known r h
    exact exec_of_record s hrecord fun code hc => absurd hc (hknown code)
  | false =>
    rw [decodeRecord_unknown r h]
    refine exec_of_record s nofun fun code hc => ?_
    cases hc
    exact h

/-! ### The judgement of a slot (R15 to R17) -/

theorem recordSequence_toNat (r : BitVec 512) : (recordSequence r).toNat = r.toNat % 2 ^ 32 := by
  unfold recordSequence recordField
  simp

theorem isExpected_iff (k sequence : Nat) (s : State) :
    isExpected k sequence s = true ↔ sequence = s.cir.expected ∧ k = (sequence + 63) % 64 := decide_eq_true_iff

theorem fullStrobes_iff (st : Strobes) : fullStrobes st = true ↔ st = BitVec.allOnes 32 := by
  unfold fullStrobes
  rw [beq_iff_eq, ← BitVec.toNat_inj]
  rfl

theorem maskedByte_eq (d : BeatData) (st : Strobes) (j : Nat) :
    maskedByte d st j = if st.getLsbD j then d.toNat / 2 ^ (8 * j) % 256 else 0 := by
  unfold maskedByte
  rw [beatField_eq]
  rfl

theorem judgeRecord_eq (k : Nat) (r : BitVec 512) (s : State) : judgeRecord k r s =
    if r.toNat % 2 ^ 32 = s.cir.expected ∧ k = (r.toNat % 2 ^ 32 + 63) % 64 then executeRecord (decodeRecord r) s
    else ignoreRecord k (r.toNat % 2 ^ 32) s := by
  unfold judgeRecord
  rw [recordSequence_toNat]
  simp only [isExpected_iff]

theorem judgeSlot_both (k : Nat) (a b : WriteBeat) (s : State) : judgeSlot k (some a) (some b) s =
    if a.strobes = BitVec.allOnes 32 ∧ b.strobes = BitVec.allOnes 32 then judgeRecord k (b.data ++ a.data) s
    else judgePartial k (maskedWord a.data a.strobes 0) s := by
  unfold judgeSlot
  simp only [Bool.and_eq_true, fullStrobes_iff]
  rfl

theorem judgeSlot_first (k : Nat) (a : WriteBeat) (s : State) :
    judgeSlot k (some a) none s = judgePartial k (maskedWord a.data a.strobes 0) s := rfl

theorem judgeSlot_second (k : Nat) (b : Option WriteBeat) (s : State) : judgeSlot k none b s = judgePartial k 0 s :=
  rfl

/-- A request whose last ring beat is still to come is not judged yet (R15). -/
theorem ringBeat_early {req : Request} {i : Nat} {s : State} (beats : List WriteBeat) (hi : i + 1 < req.len.val + 1)
    (hl : req.addr.toNat + 32 * i + 32 < 2 ^ 32 * s.tu.cpBase + 4096) : ringBeat req beats i s = s :=
  if_pos ⟨hi, hl⟩

theorem ringBeat_last {req : Request} {i : Nat} {s : State} (beats : List WriteBeat)
    (h : ¬(i + 1 < req.len.val + 1 ∧ req.addr.toNat + 32 * i + 32 < 2 ^ 32 * s.tu.cpBase + 4096)) :
    ringBeat req beats i s = judgeRing (2 ^ 32 * s.tu.cpBase) req beats (req.addr.toNat + 32 * i) s := if_neg h

/-- Settles O8: each slot is judged as `judge` writes it, and the row events are its ignorals. -/
theorem ringSlotsAreJudgedAndRun : Obligations.RingSlotsAreJudgedAndRun := by
  unfold Obligations.RingSlotsAreJudgedAndRun
  intro s req beats i slot n record ring start last low high beat ignored cause whole byte seen judge
  have hwhole : ∀ k r t, judgeRecord k r t = whole k r t := judgeRecord_eq
  have hseen : ∀ b : WriteBeat, maskedWord b.data b.strobes 0 = seen b := by
    intro b
    unfold maskedWord
    simp only [maskedByte_eq]
    rfl
  have hjudge : ∀ t k, judgeSlot k (beatAt req beats (ring + 64 * k)) (beatAt req beats (ring + 64 * k + 32)) t =
      judge t k := by
    intro t k
    show judgeSlot k (beat (ring + 64 * k)) (beat (ring + 64 * k + 32)) t = judge t k
    unfold judge
    cases beat (ring + 64 * k) with
    | none => rfl
    | some a =>
      cases beat (ring + 64 * k + 32) with
      | none =>
        rw [judgeSlot_first, hseen]
        rfl
      | some b =>
        rw [judgeSlot_both, hwhole, hseen]
        rfl
  refine ⟨ringBeat_early beats, fun h => ?_, exec_decodeRecord record s, ?_, rfl⟩
  · rw [ringBeat_last beats h]
    exact congrArg (fun f => (slotsTouched ring req last).foldl f s) (funext₂ hjudge)
  · exact congrArg Host.Outcome.next (if_congr (isExpected_iff slot.val n.toNat s) rfl rfl)

end Sys2Proof.Machine
end

section
/-! PROOFS. Refusals: a record that is refused changes nothing but what taking any record changes (R19, R20, R167). -/

namespace Sys2Proof.Machine

/-! ### What a command refused leaves (R20)

A command acts on the state and gives its answer; a REFUSED answer comes with the state as it was. -/

/-- The state that comes with a REFUSED answer is s itself. -/
def UnchangedIfRefused (s : State) (x : State × Answer) : Prop :=
  ∀ r d, x.2 = .refused r d → x.1 = s

namespace UnchangedIfRefused
variable {s : State}

theorem of_refuse (r : Reason) : UnchangedIfRefused s (refuse r s) := fun _ _ _ => rfl

theorem of_done (t : State) (d : Nat) : UnchangedIfRefused s (t, .done d) := fun _ _ h => nomatch h

theorem of_carriedOut (t : State) (fields : List (Nat × Bool)) (d : Nat) :
    UnchangedIfRefused s (t, carriedOut fields d) := by
  intro r e h
  unfold carriedOut at h
  split at h <;> cases h

/-- A test that refuses, before what else the command does. -/
theorem of_test {p : Prop} [Decidable p] {r : Reason} {x : State × Answer} (h : UnchangedIfRefused s x) :
    UnchangedIfRefused s (if p then refuse r s else x) := by
  split
  · exact of_refuse r
  · exact h

theorem of_ite {p : Prop} [Decidable p] {x y : State × Answer} (hx : UnchangedIfRefused s x)
    (hy : UnchangedIfRefused s y) : UnchangedIfRefused s (if p then x else y) := by
  split <;> assumption

end UnchangedIfRefused

open UnchangedIfRefused

section
variable (s : State)

theorem poolSetAct_refused (b c n : Nat) : UnchangedIfRefused s (poolSetAct b c n s) :=
  of_test (of_test (of_test (of_done _ _)))

theorem viewWindowSetAct_refused (v b w h : Nat) : UnchangedIfRefused s (viewWindowSetAct v b w h s) :=
  of_test (of_test (of_test (of_done _ _)))

theorem streamOpenAct_refused (c r d b l x : Nat) : UnchangedIfRefused s (streamOpenAct c r d b l x s) := by
  unfold streamOpenAct
  cases roleOf r d with
  | none => exact of_refuse _
  | some role =>
    refine of_test ?_
    cases clipAt s c with
    | none => exact of_refuse _
    | some clip =>
      cases freeStream s with
      | none => exact of_refuse _
      | some id =>
        dsimp only
        cases streamRoleTest s c clip role with
        | some reason => exact of_refuse _
        | none => exact of_test (of_done _ _)

theorem streamCloseAct_refused (i n : Nat) : UnchangedIfRefused s (streamCloseAct i n s) := by
  refine of_test ?_
  cases streamAt s i with
  | none => exact of_refuse _
  | some e => exact of_done _ _

theorem streamAbortAct_refused (i : Nat) : UnchangedIfRefused s (streamAbortAct i s) := by
  refine of_test ?_
  cases streamAt s i with
  | none => exact of_refuse _
  | some e => exact of_done _ _

theorem clipOpenAct_refused (label slot camera required : Nat) :
    UnchangedIfRefused s (clipOpenAct label slot camera required s) := by
  refine of_test (of_test (of_test ?_))
  cases freeClip s with
  | none => exact of_refuse _
  | some i => exact of_carriedOut _ _ _

theorem clipRetireAct_refused (i : Nat) : UnchangedIfRefused s (clipRetireAct i s) := by
  refine of_test ?_
  cases clipAt s i with
  | none => exact of_refuse _
  | some c => exact of_test (of_done _ _)

theorem cameraSetAct_refused (a b c d e f g : Nat) (h : Bool) :
    UnchangedIfRefused s (cameraSetAct a b c d e f g h s) := of_test (of_test (of_carriedOut _ _ _))

theorem pairSetAct_refused (a b c d : Nat) : UnchangedIfRefused s (pairSetAct a b c d s) :=
  of_test (of_ite (of_done _ _) (of_test (of_test (of_test (of_carriedOut _ _ _)))))

theorem zonesSetAct_refused (z : List Zone) : UnchangedIfRefused s (zonesSetAct z s) :=
  of_ite (of_done _ _) (of_refuse _)

theorem trackerClearAct_refused : UnchangedIfRefused s (trackerClearAct s) := of_done _ _

theorem faultAckAct_refused (id : Nat) : UnchangedIfRefused s (faultAckAct id s) := by
  unfold faultAckAct
  cases s.fl.records.find? (fun r => r.id == id) with
  | none => exact of_refuse _
  | some r =>
    refine of_ite (of_done _ _) ?_
    dsimp only
    cases acknowledgedClip r with
    | none => exact of_done _ _
    | some i => exact of_done _ _

theorem clipFaultsAckAct_refused (c : Nat) : UnchangedIfRefused s (clipFaultsAckAct c s) := by
  refine of_test ?_
  cases clipAt s c with
  | none => exact of_refuse _
  | some x => exact of_done _ _

theorem viewOnAct_refused (v : Nat) : UnchangedIfRefused s (viewOnAct v s) := of_test (of_test (of_done _ _))

theorem viewOffAct_refused (v : Nat) : UnchangedIfRefused s (viewOffAct v s) := of_test (of_done _ _)

theorem zonesSwitchAct_refused (x : Bool) (v : Nat) : UnchangedIfRefused s (zonesSwitchAct x v s) :=
  of_test (of_done _ _)

theorem viewSourceAct_refused (v c : Nat) : UnchangedIfRefused s (viewSourceAct v c s) :=
  of_test (of_test (of_done _ _))

theorem viewGeometryAct_refused (v a b d : Nat) (h g : Bool) :
    UnchangedIfRefused s (viewGeometryAct v a b d h g s) := of_test (of_done _ _)

theorem lookSelectAct_refused (v k r : Nat) : UnchangedIfRefused s (lookSelectAct v k r s) :=
  of_test (of_carriedOut _ _ _)

theorem bandsSetAct_refused (v : Nat) (b : Option (List Band)) (m : Nat) :
    UnchangedIfRefused s (bandsSetAct v b m s) := by
  refine of_test ?_
  cases b with
  | none => exact of_refuse _
  | some bs => exact of_done _ _

theorem overlaySetAct_refused (v a b : Nat) (x y : Strip) : UnchangedIfRefused s (overlaySetAct v a b x y s) :=
  of_test (of_done _ _)

theorem clipMarkSetAct_refused (v : Nat) (b : Bool) (c : Rgb Nat) : UnchangedIfRefused s (clipMarkSetAct v b c s) :=
  of_test (of_done _ _)

theorem shuttleProfileAct_refused (v : Nat) (p : Profile) : UnchangedIfRefused s (shuttleProfileAct v p s) :=
  of_test (of_carriedOut _ _ _)

theorem shuttleGoAct_refused (v n : Nat) (d : Option Direction) : UnchangedIfRefused s (shuttleGoAct v n d s) := by
  refine of_test ?_
  cases d with
  | none => exact of_refuse _
  | some d => exact of_done _ _

theorem motionAct_refused (f : Motion → Motion × Nat) (v : Nat) : UnchangedIfRefused s (motionAct f v s) :=
  of_test (of_done _ _)

theorem panelBindAct_refused (k : Nat) (a : Option PanelAction) (v r : Nat) :
    UnchangedIfRefused s (panelBindAct k a v r s) := by
  refine of_test ?_
  cases a with
  | none => exact of_refuse _
  | some a => exact of_ite (of_done _ _) (of_done _ _)

theorem panelTimingAct_refused (a b c : Nat) : UnchangedIfRefused s (panelTimingAct a b c s) := of_carriedOut _ _ _

end

theorem engineResetAct_refused (s : State) : UnchangedIfRefused s (engineResetAct s) := by
  unfold engineResetAct
  exact of_done _ _

/-! ### What a record refused leaves -/

/-- If t is s with reports created of which the last is a COMPLETION that answers REFUSED, then that report is the only
one, and besides it only the expected sequence has changed (R20). -/
def RefusalChangesNothing (s t : State) : Prop :=
  ∀ r d n l, Created s t (l ++ [.completion s.cir.expected n (.refused r d)]) →
    l = [] ∧ SameButReports s t ∧ t.cir.expected = (s.cir.expected + 1) % 2 ^ 32

namespace RefusalChangesNothing
variable {s t : State}

/-- No COMPLETION among the reports created: nothing was refused. -/
theorem of_onWay {m : List Report} (h : reportsOnWay t = reportsOnWay s ++ m)
    (hm : ∀ x ∈ m, x.body.isCompletion = false) : RefusalChangesNothing s t := by
  rintro r d n l ⟨hl, -⟩
  rw [h, List.append_cancel_left_eq, List.map_append] at hl
  have hlast := hm { time := s.time, body := .completion s.cir.expected n (.refused r d) } (by simp [hl])
  exact nomatch hlast

theorem of_onWay_eq (h : reportsOnWay t = reportsOnWay s) : RefusalChangesNothing s t :=
  of_onWay (h.trans (List.append_nil _).symm) (List.forall_mem_nil _)

theorem refl (s : State) : RefusalChangesNothing s s := of_onWay_eq rfl

/-- A command that ends at execution, whose act creates no COMPLETION of its own. -/
theorem complete {code : Nat} {act : State → State × Answer} (s : State) (hrep : ∀ u, Rep u (act u).1)
    (hact : ∀ u, UnchangedIfRefused u (act u)) : RefusalChangesNothing s (completeCommand code act s) := by
  obtain ⟨m, hm, hown⟩ := (hrep (advanceSequence s)).onWay
  have hway : reportsOnWay (act (advanceSequence s)).1 = reportsOnWay s ++ m := hm
  unfold completeCommand
  by_cases hfull : 32 ≤ (act (advanceSequence s)).1.cir.queue.length
  · rw [createReport_full _ hfull]
    exact of_onWay hway hown
  · rintro r d n l ⟨hl, -⟩
    rw [reportsOnWay_createReport _ _ (by omega), hway, List.append_assoc, List.append_cancel_left_eq, List.map_append]
      at hl
    obtain ⟨hm', hlast⟩ := List.append_inj' hl rfl
    have hrefused : (act (advanceSequence s)).2 = .refused r d := by
      simp only [List.map_cons, List.map_nil, List.cons.injEq, Report.mk.injEq, ReportBody.completion.injEq] at hlast
      obtain ⟨⟨-, -, -, hanswer⟩, -⟩ := hlast
      exact hanswer
    have hsame := hact _ r d hrefused
    rw [hsame] at hway ⊢
    have hnone : m = [] := List.append_right_eq_self.1 hway.symm
    refine ⟨?_, sameButReports_createReport _ rfl, createReport_cir_expected _ _⟩
    rw [hnone] at hm'
    exact List.map_eq_nil_iff.1 hm'.symm

end RefusalChangesNothing

open RefusalChangesNothing

/-- LOOK_LOAD is refused, or its load starts without a report (R115, R21). -/
theorem takeLookLoad_refusal (k : BitVec 8) (a : BitVec 64) (s : State) :
    RefusalChangesNothing s (takeLookLoad k a s) := by
  unfold takeLookLoad
  split
  · exact complete s (fun u => .refl u) (fun _ => of_refuse _)
  · refine of_onWay_eq ?_
    simp [reportsOnWay, startLoad, setLookSlot, BackgroundItem.created, advanceSequence]

/-- SNAPSHOT creates its report; with the pending queue full that and its COMPLETION are dropped (R28). -/
theorem takeSnapshot_refusal (s : State) : RefusalChangesNothing s (takeSnapshot s) := by
  unfold takeSnapshot
  by_cases hfull : 32 ≤ (advanceSequence s).cir.queue.length
  · rw [startSnapshot_full _ hfull, createReport_createReport_full _ _ hfull]
    exact of_onWay_eq rfl
  · have hroom : (advanceSequence s).cir.queue.length < 32 := by omega
    rw [startSnapshot_room _ hroom]
    refine of_onWay (reportsOnWay_createReport _ _ hroom) fun x hx => ?_
    rw [List.mem_singleton.1 hx]
    rfl

theorem takeUnknown_refusal (code : Nat) (s : State) : RefusalChangesNothing s (takeUnknown code s) :=
  complete s (fun u => .refl u) (fun _ => of_refuse _)

theorem takeEngineReset_refusal (s : State) : RefusalChangesNothing s (takeEngineReset s) := by
  unfold takeEngineReset
  exact complete s (fun u => engineResetAct_rep (.refl u)) engineResetAct_refused

/-- Every record: the row of the code table that it carries, or UNKNOWN_COMMAND. -/
theorem executeRecord_refusal (c : Instr) (s : State) : RefusalChangesNothing s (executeRecord c s) := by
  cases c
  case poolSet => exact complete s (fun u => poolSetAct_rep _ _ _ (.refl u)) (fun u => poolSetAct_refused u _ _ _)
  case viewWindowSet =>
    exact complete s (fun u => viewWindowSetAct_rep _ _ _ _ (.refl u)) (fun u => viewWindowSetAct_refused u _ _ _ _)
  case streamOpen =>
    exact complete s (fun u => streamOpenAct_rep _ _ _ _ _ _ (.refl u)) (fun u => streamOpenAct_refused u _ _ _ _ _ _)
  case streamClose =>
    exact complete s (fun u => streamCloseAct_rep _ _ (.refl u)) (fun u => streamCloseAct_refused u _ _)
  case streamAbort => exact complete s (fun u => streamAbortAct_rep _ (.refl u)) (fun u => streamAbortAct_refused u _)
  case clipOpen =>
    exact complete s (fun u => clipOpenAct_rep _ _ _ _ (.refl u)) (fun u => clipOpenAct_refused u _ _ _ _)
  case clipRetire => exact complete s (fun u => clipRetireAct_rep _ (.refl u)) (fun u => clipRetireAct_refused u _)
  case cameraSet =>
    exact complete s (fun u => cameraSetAct_rep _ _ _ _ _ _ _ _ (.refl u))
      (fun u => cameraSetAct_refused u _ _ _ _ _ _ _ _)
  case pairSet => exact complete s (fun u => pairSetAct_rep _ _ _ _ (.refl u)) (fun u => pairSetAct_refused u _ _ _ _)
  case zonesSet => exact complete s (fun u => zonesSetAct_rep _ (.refl u)) (fun u => zonesSetAct_refused u _)
  case trackerClear => exact complete s (fun u => trackerClearAct_rep (.refl u)) (fun u => trackerClearAct_refused u)
  case faultAck => exact complete s (fun u => faultAckAct_rep _ (.refl u)) (fun u => faultAckAct_refused u _)
  case clipFaultsAck =>
    exact complete s (fun u => clipFaultsAckAct_rep _ (.refl u)) (fun u => clipFaultsAckAct_refused u _)
  case lookLoad => exact takeLookLoad_refusal _ _ s
  case viewOn => exact complete s (fun u => viewOnAct_rep _ (.refl u)) (fun u => viewOnAct_refused u _)
  case viewOff => exact complete s (fun u => viewOffAct_rep _ (.refl u)) (fun u => viewOffAct_refused u _)
  case zonesOn => exact complete s (fun u => zonesSwitchAct_rep _ _ (.refl u)) (fun u => zonesSwitchAct_refused u _ _)
  case zonesOff => exact complete s (fun u => zonesSwitchAct_rep _ _ (.refl u)) (fun u => zonesSwitchAct_refused u _ _)
  case viewSource => exact complete s (fun u => viewSourceAct_rep _ _ (.refl u)) (fun u => viewSourceAct_refused u _ _)
  case viewGeometry =>
    exact complete s (fun u => viewGeometryAct_rep _ _ _ _ _ _ (.refl u))
      (fun u => viewGeometryAct_refused u _ _ _ _ _ _)
  case lookSelect =>
    exact complete s (fun u => lookSelectAct_rep _ _ _ (.refl u)) (fun u => lookSelectAct_refused u _ _ _)
  case bandsSet => exact complete s (fun u => bandsSetAct_rep _ _ _ (.refl u)) (fun u => bandsSetAct_refused u _ _ _)
  case overlaySet =>
    exact complete s (fun u => overlaySetAct_rep _ _ _ _ _ (.refl u)) (fun u => overlaySetAct_refused u _ _ _ _ _)
  case clipMarkSet =>
    exact complete s (fun u => clipMarkSetAct_rep _ _ _ (.refl u)) (fun u => clipMarkSetAct_refused u _ _ _)
  case shuttleProfile =>
    exact complete s (fun u => shuttleProfileAct_rep _ _ (.refl u)) (fun u => shuttleProfileAct_refused u _ _)
  case shuttleGo => exact complete s (fun u => shuttleGoAct_rep _ _ _ (.refl u)) (fun u => shuttleGoAct_refused u _ _ _)
  case shuttleStop | shuttleHold | shuttleRelease | shuttleLocate =>
    exact complete s (fun u => motionAct_rep _ _ (.refl u)) (fun u => motionAct_refused u _ _)
  case panelBind =>
    exact complete s (fun u => panelBindAct_rep _ _ _ _ (.refl u)) (fun u => panelBindAct_refused u _ _ _ _)
  case panelTiming =>
    exact complete s (fun u => panelTimingAct_rep _ _ _ (.refl u)) (fun u => panelTimingAct_refused u _ _ _)
  case snapshot => exact takeSnapshot_refusal s
  case engineReset => exact takeEngineReset_refusal s
  case unknownCommand => exact takeUnknown_refusal _ s
  all_goals exact .refl s

/-- A command that a record carries changes nothing when it is refused; the row of a known code is no record. -/
theorem exec_refusal {c : Instr} {s t : State} (hc : commandFields c ≠ none) (h : exec c s = .next t) :
    RefusalChangesNothing s t := by
  by_cases hu : ∃ code, c = .unknownCommand code
  · obtain ⟨code, rfl⟩ := hu
    rw [exec_unknownCommand] at h
    cases h
    split
    · exact .refl s
    · exact takeUnknown_refusal _ s
  · rw [exec_of_record s hc fun code hcode => absurd ⟨code, hcode⟩ hu] at h
    cases h
    exact executeRecord_refusal c s

/-- Settles O9: an unknown code is refused, and a refusal is all that a refused record leaves. -/
theorem refusedRecordsChangeNothing : Obligations.RefusedRecordsChangeNothing := by
  unfold Obligations.RefusedRecordsChangeNothing
  intro s t c code
  refine ⟨⟨_, exec_unknownCommand code s, fun hcode => if_pos ((isCommandCode_iff _).2 hcode), fun hcode => ?_⟩,
    fun r d n l hc ht _ => exec_refusal hc ht r d n l⟩
  rw [if_neg (mt (isCommandCode_iff _).1 hcode)]
  exact answered_refused rfl

end Sys2Proof.Machine
end

section
/-! PROOFS. Cards: insertions and removals when they are due, and the tick (R22, R61 to R63, R164). -/

namespace Sys2Proof.Machine

/-! ### Insertion (R62) -/

theorem changeAfter_eq (raw debounced : Bool) (pending : Option Nat) (now : Nat) :
    changeAfter raw debounced pending now = if raw = debounced then none else some (pending.getD now) := by
  cases pending <;> rfl

theorem cardInsertion_due {k : Nat} {s : State} (hp : (cardSlotAt s k).present = false)
    (hd : changeDue s (cardSlotAt s k).changePending = true) :
    cardInsertion k s = computeLamp k (setCardSlot k (insertedSlot (cardSlotAt s k)) s) := if_pos ⟨hp, hd⟩

/-- An insertion taken while a card is in, or before its debounce has run out, changes nothing (log entry 1). -/
theorem cardInsertion_idle {k : Nat} {s : State}
    (h : (cardSlotAt s k).present = true ∨ ¬changeDue s (cardSlotAt s k).changePending = true) :
    cardInsertion k s = s :=
  if_neg fun ⟨hp, hd⟩ => h.elim (fun h => Bool.false_ne_true (hp.symm.trans h)) (fun h => h hd)

/-! ### Removal (R63) -/

theorem inSession_iff (s : State) (k i : Nat) : inSession s k i = true ↔
    ∃ c, clipAt s i = some c ∧ c.slot = k ∧ c.session = (cardSlotAt s k).session := by
  unfold inSession
  cases clipAt s i <;> simp

theorem mem_sessionSources (s : State) (k i : Nat) : i ∈ sessionSources s k ↔
    ∃ e c, streamAt s i = some e ∧ e.role = .source ∧ clipAt s e.clip = some c ∧ c.slot = k ∧
      c.session = (cardSlotAt s k).session := by
  have hsource : ∀ e : Stream, (e.role == .source && inSession s k e.clip) = true ↔
      ∃ c, e.role = .source ∧ clipAt s e.clip = some c ∧ c.slot = k ∧ c.session = (cardSlotAt s k).session := by
    intro e
    rw [Bool.and_eq_true, beq_iff_eq, inSession_iff, exists_and_left]
  unfold sessionSources
  rw [List.mem_filter, List.mem_range, Option.any_eq_true]
  constructor
  · rintro ⟨-, e, he, h⟩
    obtain ⟨c, hc⟩ := (hsource e).1 h
    exact ⟨e, c, he, hc⟩
  · rintro ⟨e, c, he, hc⟩
    exact ⟨streamAt_lt he, e, he, (hsource e).2 ⟨c, hc⟩⟩

theorem sessionSources_ascending (s : State) (k : Nat) : (sessionSources s k).Pairwise (· < ·) :=
  List.pairwise_lt_range.filter _

theorem cardRemoval_due {k : Nat} {s : State} (hp : (cardSlotAt s k).present = true)
    (hd : changeDue s (cardSlotAt s k).changePending = true) :
    cardRemoval k s = computeLamp k (setCardSlot k
      { cardSlotAt (pullSources k s) k with present := false, changePending := none } (pullSources k s)) :=
  if_pos ⟨hp, hd⟩

/-- A removal taken while no card is in, or before its debounce has run out, changes nothing (log entry 1). -/
theorem cardRemoval_idle {k : Nat} {s : State}
    (h : (cardSlotAt s k).present = false ∨ ¬changeDue s (cardSlotAt s k).changePending = true) :
    cardRemoval k s = s :=
  if_neg fun ⟨hp, hd⟩ => h.elim (fun h => Bool.false_ne_true (h.symm.trans hp)) (fun h => h hd)

/-- A card slot set and its lamp computed: the report is the LAMP report, if the lamp changes. -/
theorem told_cardSlot_lamp (k : Nat) (c : CardSlot) (s : State) :
    Told s (computeLamp k (setCardSlot k c s)) (lampReport k (setCardSlot k c s)) (relit k (setCardSlot k c s)) :=
  have hset : Told s (setCardSlot k c s) [] (setCardSlot k c s) := told_quiet rfl rfl (sameButReports_refl _)
  hset.lamp rfl k

/-- Settles O22: the tick and the debounce by their definitions, an insertion and a removal by whether they are due. -/
theorem cardEventsAndTheTick : Obligations.CardEventsAndTheTick := by
  unfold Obligations.CardEventsAndTheTick
  intro s slot low k x due
  have hdue : changeDue s x.changePending = true ↔ due := changeDue_iff s x.changePending
  refine ⟨rfl, ?_, ⟨cardInsertion k s, rfl, ?_, ?_⟩, ⟨cardRemoval k s, rfl, ?_, ?_⟩⟩
  · rw [← changeAfter_eq]
    rfl
  · intro hp hd u
    rw [cardInsertion_due hp (hdue.2 hd)]
    exact told_cardSlot_lamp k (insertedSlot x) s
  · exact fun h => cardInsertion_idle (h.imp_right (mt hdue.1))
  · intro ids hp hd hlt hids y u
    have hsources : ids = sessionSources s k :=
      hlt.eq_of_mem_iff (sessionSources_ascending s k) fun i => (hids i).trans (mem_sessionSources s k i).symm
    have hy : pullSources k s = y := by
      unfold pullSources
      rw [← hsources]
    rw [cardRemoval_due hp (hdue.2 hd), hy]
    exact told_cardSlot_lamp k _ y
  · exact fun h => cardRemoval_idle (h.imp_right (mt hdue.1))

end Sys2Proof.Machine
end

section
/-! PROOFS. The two resets (R29, R30 and the chapters' reset tables). -/

namespace Sys2Proof.Machine

/-! ### ENGINE_RESET (R29) -/

theorem loseLatched_eq (r : ServedRead) :
    loseLatched r = if r.pin ≠ none then { r with pinLost := true } else r := by
  unfold loseLatched
  cases r.pin <;> rfl

theorem relitAll_time (ks : List Nat) (s : State) : (relitAll ks s).time = s.time :=
  foldl_keeps State.time _ (fun t k => relit_time k t) ks s

/-- ENGINE_RESET resets the units and then computes the lamps, each change of which is reported (R29). -/
theorem answered_engineReset (s : State) :
    Answered s (takeEngineReset s) (lampReports (List.range 8) (resetUnits s)) 0x91 (.done 0)
      (relitAll (List.range 8) (resetUnits s)) := by
  have hact : engineResetAct (advanceSequence s) =
      (computeLamps (List.range 8) (resetUnits (advanceSequence s)), .done 0) := by
    unfold engineResetAct
    rfl
  have hreset : Told (advanceSequence s) (resetUnits (advanceSequence s)) [] (resetUnits s) := told_quiet rfl rfl rfl
  have hlamps := hreset.lamps (List.range 8) rfl
  have htime : (relitAll (List.range 8) (resetUnits s)).time = s.time := relitAll_time (List.range 8) (resetUnits s)
  exact answered_told (by rw [hact]) (by simpa only [hact, List.nil_append] using hlamps) htime

/-! ### HARD_RESET (R30) -/

/-- The identity curve in one formula: its last point, 65536, is clamped (R114). -/
theorem identityCurve_eq : identityCurve = (List.range 33).map (fun i => min (2048 * i) 65535) := by decide

/-- Settles O2: ENGINE_RESET by what it resets and the lamps after it, HARD_RESET unit by unit. -/
theorem resetsLeaveTheStatedState : Obligations.ResetsLeaveTheStatedState := by
  unfold Obligations.ResetsLeaveTheStatedState
  intro s straps noFrame u rows identity settings
  have hlost : loseLatched = fun r => if r.pin ≠ none then { r with pinLost := true } else r :=
    funext loseLatched_eq
  have hunits : resetUnits s = u := by
    unfold resetUnits resetView
    rw [hlost]
    rfl
  have hlook : identityLook = identity := by
    unfold identityLook
    rw [identityCurve_eq]
  refine ⟨⟨takeEngineReset s, rfl, ?_⟩, ⟨hardReset straps.toNat s, rfl, ?_⟩⟩
  · rw [← hunits]
    exact answered_engineReset s
  · rw [← hlook]
    and_intros
    all_goals rfl

end Sys2Proof.Machine
end

section
/-! PROOFS. The tables, the tracker and the frame slots: what every move keeps of them (R31, R74, R80, R92). -/

namespace Sys2Proof.Machine

/-! ### The sizes of the tables -/

theorem hardReset_table (n : Nat) {s : State} (h : TableLaw s) : TableLaw (hardReset n s) :=
  { reset_tables with
    cards := by simpa [hardReset] using h.cards
    keys := by simpa [hardReset] using h.keys }

/-- Every move keeps the tables at their sizes. -/
theorem move_table {s t : State} (m : Move s t) (h : TableLaw s) : TableLaw t := by
  cases m with
  | hardReset n => exact hardReset_table n h
  | tick => exact timeBaseTick_table h
  | poolSet b c n => exact poolSetAct_table b c n h
  | viewWindowSet v b w n => exact viewWindowSetAct_table v b w n h
  | streamOpen c r d b l x => exact streamOpenAct_table c r d b l x h
  | endStream i o a => exact endStream_table i o a none h
  | clipOpen l k c r => exact clipOpenAct_table l k c r h
  | clipRetire i => exact clipRetireAct_table i h
  | cameraSet a b c d e f g x => exact cameraSetAct_table a b c d e f g x h
  | pairSet a b c d => exact pairSetAct_table a b c d h
  | zonesSet z _ hz => exact zonesSetAct_table z hz h
  | trackerClear => exact trackerClearAct_table h
  | faultAck i => exact faultAckAct_table i h
  | clipFaultsAck i => exact clipFaultsAckAct_table i h
  | viewOn v => exact viewOnAct_table v h
  | viewOff v => exact viewOffAct_table v h
  | zonesSwitch x v => exact zonesSwitchAct_table x v h
  | viewSource v c => exact viewSourceAct_table v c h
  | viewGeometry v a b d x y => exact viewGeometryAct_table v a b d x y h
  | lookSelect v k r => exact lookSelectAct_table v k r h
  | bandsSet v b n => exact bandsSetAct_table v b n h
  | overlaySet v a b x y => exact overlaySetAct_table v a b x y h
  | clipMarkSet v b c => exact clipMarkSetAct_table v b c h
  | shuttleProfile v p => exact shuttleProfileAct_table v p h
  | shuttleGo v n d => exact shuttleGoAct_table v n d h
  | shuttleStop v | shuttleHold v | shuttleRelease v | shuttleLocate v n => exact motionAct_table _ v h
  | panelBind k a v r => exact panelBindAct_table k a v r h
  | panelTiming a b c => exact panelTimingAct_table a b c h
  | engineReset => exact engineResetAct_table h
  | startLoad k a n => exact startLoad_table k a n h
  | stageBeat k d r => exact stageBeat_table k d r h
  | streamBeat i a d st l => exact streamBeat_table i a d st l h
  | streamResponse n ok => exact streamResponse_table n ok h
  | frameResponse a k g ok => exact frameResponse_table a k g ok h
  | poolBeat r b i d st p => exact poolBeat_table r b i d st p h
  | countStray => exact countStray_table h
  | viewRead v t r c b w => exact viewRead_table v t r c b w h
  | viewFetchReturn t i b => exact viewFetchReturn_table t i b h
  | cardDetChange k b => exact cardDetChange_table k b h
  | cardInsertion k => exact cardInsertion_table k h
  | cardRemoval k => exact cardRemoval_table k h
  | keyChange k b => exact keyChange_table k b h
  | keyPress k => exact keyPress_table k h
  | keyRelease k => exact keyRelease_table k h
  | keyRepeat k => exact keyRepeat_table k h
  | jogSample p => exact jogSample_table p h
  | quiet k => exact h.same k

/-! ### The pixel tracker (R92) -/

theorem TrackLaw.of_tracker {s t : State} (h : TrackLaw s) (e : t.ctu.tracker = s.ctu.tracker) : TrackLaw t := by
  rw [trackLaw_iff, e]
  exact (trackLaw_iff s).1 h

theorem TrackLaw.of_nil {t : State} (e : t.ctu.tracker = []) : TrackLaw t := by
  rw [trackLaw_iff, e]
  exact TL_nil

theorem cameraSetAct_tracker (a b c d e f g : Nat) (x : Bool) (s : State) :
    (cameraSetAct a b c d e f g x s).1.ctu.tracker = s.ctu.tracker := by
  unfold cameraSetAct
  dsimp only [refuse]
  (repeat' split) <;> rfl

theorem pairSetAct_tracker (a b c d : Nat) (s : State) : (pairSetAct a b c d s).1.ctu.tracker = s.ctu.tracker := by
  unfold pairSetAct
  dsimp only [refuse]
  (repeat' split) <;> rfl

theorem zonesSetAct_tracker (z : List Zone) (s : State) : (zonesSetAct z s).1.ctu.tracker = s.ctu.tracker := by
  unfold zonesSetAct
  split <;> rfl

theorem engineResetAct_tracker (s : State) : (engineResetAct s).1.ctu.tracker = [] := by
  simp [engineResetAct, resetUnits, resetTracks]

/-- Every move keeps the tracker's law: the beats of the frame pool enter positions not yet tracked and drop those missed,
the resets and TRACKER_CLEAR empty the list, and no other move touches it. -/
theorem move_track {s t : State} (m : Move s t) (h : TrackLaw s) : TrackLaw t := by
  cases m with
  | hardReset n => exact .of_nil rfl
  | trackerClear => exact .of_nil rfl
  | engineReset => exact .of_nil (engineResetAct_tracker s)
  | poolBeat r b i d st p => exact (trackLaw_iff _).2 (poolBeat_tracker r b i d st p s ((trackLaw_iff s).1 h))
  | cameraSet a b c d e f g x => exact h.of_tracker (cameraSetAct_tracker a b c d e f g x s)
  | pairSet a b c d => exact h.of_tracker (pairSetAct_tracker a b c d s)
  | zonesSet z => exact h.of_tracker (zonesSetAct_tracker z s)
  | quiet k => exact h.of_tracker (by rw [k.ctu])
  | _ => exact h.of_tracker (by simp)

/-! ### The frame slots (R74, R80) -/

theorem FrameLaw.of_slots {s t : State} (h : FrameLaw s) (e : t.fiu.slots = s.fiu.slots) : FrameLaw t := by
  unfold FrameLaw
  rw [e]
  exact h

/-- A POOL_SET that passes leaves EMPTY slots only (R67). -/
theorem poolSetAct_frames (b c n : Nat) {s : State} (h : FrameLaw s) : FrameLaw (poolSetAct b c n s).1 := by
  have placed : ∀ p, FrameLaw (s.withFiu (placedPool p s.fiu)) := by
    intro p f hf
    obtain rfl : f = FrameSlot.empty := List.eq_of_mem_replicate hf
    exact ⟨Nat.le_refl _, nofun⟩
  unfold poolSetAct
  split
  · exact h
  · split
    · exact h
    · split
      · exact h
      · exact placed _

/-- ENGINE_RESET empties every slot (R83). -/
theorem engineResetAct_frames (s : State) : FrameLaw (engineResetAct s).1 := by
  have e : (engineResetAct s).1.fiu.slots = s.fiu.slots.map emptiedSlot := by
    simp [engineResetAct, resetUnits, resetFrames]
  intro f hf
  rw [e] at hf
  obtain ⟨g, -, rfl⟩ := List.mem_map.1 hf
  exact ⟨Nat.le_refl _, nofun⟩

/-- An ERROR on a write of a frame spoils its FILLING slot or marks its COMPLETE one, and counts no beat (R79). -/
theorem frameResponse_frames (a k g : Nat) (ok : Bool) {s : State} (h : FrameLaw s) :
    FrameLaw (frameResponse a k g ok s) := by
  have stored : ∀ f kind, FrameCounted f → FrameLaw (raiseFrame kind (frameSlotAt s k) k (setFrameSlot k f s)) := by
    intro f kind hf
    exact FrameLaw.of_slots (s := setFrameSlot k f s) (FramesCounted.set h fun _ => hf) (by simp)
  have hk : FrameCounted (frameSlotAt s k) := FramesCounted.at h k
  unfold frameResponse
  dsimp only
  split
  · exact h
  · split
    · exact stored _ _ ⟨hk.1, nofun⟩
    · split
      · exact h
      · exact stored _ _ hk
    · exact h
    · exact h

/-- Every move keeps the beats of each frame slot within those expected: a beat of the pool is counted only below them, and
the slot is COMPLETE at the last; the other moves that touch a slot empty or spoil it or mark it late. -/
theorem move_frames {s t : State} (m : Move s t) (h : FrameLaw s) : FrameLaw t := by
  cases m with
  | hardReset n => exact nofun
  | engineReset => exact engineResetAct_frames s
  | poolSet b c n => exact poolSetAct_frames b c n h
  | poolBeat r b i d st p => exact FramesCounted.pool h
  | frameResponse a k g ok => exact frameResponse_frames a k g ok h
  | countStray => exact h.of_slots rfl
  | quiet k => exact h.of_slots (by rw [k.fiu])
  | _ => exact h.of_slots (by simp)

/-- Settles O55, law by law: what every move keeps, every step keeps. -/
theorem everyStepKeepsTheTables : Obligations.EveryStepKeepsTheTables := by
  unfold Obligations.EveryStepKeepsTheTables
  exact ⟨fun _ _ => step_keeps (fun _ _ k h => h.same k) (fun _ _ => move_table),
    fun _ _ => step_keeps (fun _ _ k h => h.of_tracker (by rw [k.ctu])) (fun _ _ => move_track),
    fun _ _ => step_keeps (fun _ _ k h => h.of_slots (by rw [k.fiu])) (fun _ _ => move_frames)⟩

end Sys2Proof.Machine
end

section
/-! PROOFS. Beats of a stream: the tests of Table 3-3 and the fingerprint (R34 to R36, R38, R39). -/

namespace Sys2Proof.Machine

/-! ### The fingerprint's words (R38, R39) -/

/-- A byte of a beat whose strobes are its first n bytes: the data's byte, or padding. -/
theorem maskedByte_of_run {st : Strobes} {n : Nat} (d : BeatData) (h : strobeRun st = some n) (j : Nat) :
    maskedByte d st j = if j < n then d.toNat / 256 ^ j % 256 else 0 := by
  rw [maskedByte_eq, strobe_bit st n j ((strobeRun_iff st n).1 h), Nat.pow_mul]
  simp

theorem feedWord_eq (ab : Nat × Nat) (w : Nat) :
    feedWord ab w = ((ab.1 + w) % 4294967291, (ab.2 + (ab.1 + w) % 4294967291) % 4294967291) := by
  simp only [feedWord, fingerprintPrime, Nat.add_mod_mod]

/-! ### The tests of Table 3-3 -/

section
variable {e : Stream} {addr n : Nat} {st : Strobes}

theorem judgeBeat_elsewhere (h : addr ≠ e.next) : judgeBeat e addr st = .error .disordered := if_pos h

theorem judgeBeat_noRun (h : strobeRun st = none) : judgeBeat e addr st = .error .disordered := by
  unfold judgeBeat
  rw [h, ite_self]

theorem judgeBeat_afterTail (h : e.tailSeen = true) : judgeBeat e addr st = .error .disordered := by
  unfold judgeBeat
  simp only [h, if_true]
  split
  · rfl
  · split <;> rfl

/-- A beat at the next address, of a run of n bytes, before any tail: only the length is left to test. -/
theorem judgeBeat_inOrder (ha : addr = e.next) (hn : strobeRun st = some n) (ht : e.tailSeen = false) :
    judgeBeat e addr st = if lengthLimit e < e.bytes + n then .error .overrun else .ok n := by
  unfold judgeBeat
  rw [if_neg (not_not.2 ha), hn]
  simp only [ht, Bool.false_eq_true, if_false]

end

/-! ### What a beat does -/

section
variable {s : State} {id addr n : Nat} {d : BeatData} {st : Strobes} {marks : List Mark} {e : Stream}

theorem streamBeat_ends {o : StreamOutcome} (he : streamAt s id = some e) (h : judgeBeat e addr st = .error o) :
    streamBeat id addr d st marks s = (endStream id o (some addr) none s, none) := by
  unfold streamBeat
  rw [he]
  simp only [h]

/-- The entry after a beat of n bytes, the first of its request when `fresh` (R35, R36). -/
def countedStream (e : Stream) (d : BeatData) (st : Strobes) (n : Nat) (fresh : Bool) : Stream :=
  { takenStream e d st n with outstanding := if fresh then e.outstanding + 1 else e.outstanding }

theorem streamBeat_taken (he : streamAt s id = some e) (h : judgeBeat e addr st = .ok n) :
    streamBeat id addr d st marks s =
      let fresh := !marks.contains (.stream e.serial)
      let t := setStream id (some (countedStream e d st n fresh)) s
      (if e.expected ≠ 0 ∧ e.bytes + n = e.expected then endStream id .good none none t else t,
        if fresh then some (.stream e.serial) else none) := by
  unfold streamBeat
  rw [he]
  simp only [h]
  rfl

end

/-- Settles O15, by the tests of Table 3-3 in their order. -/
theorem streamBeatsAreJudgedAndTaken : Obligations.StreamBeatsAreJudgedAndTaken := by
  unfold Obligations.StreamBeatsAreJudgedAndTaken
  intro s id addr d st marks e p run limit byte word feed sums fresh taken beat ends he
  have hrun : ∀ n, strobeRun st = some n ↔ run n := strobeRun_iff st
  have hsums : ∀ n, run n → (beatWords d st n).foldl feedWord (e.a, e.b) = sums n := by
    intro n hn
    have hbyte : maskedByte d st = byte n := funext (maskedByte_of_run d ((hrun n).2 hn))
    have hword : maskedWord d st = word n := by
      funext j
      simp only [maskedWord, hbyte, word]
    have hfeed : feedWord = feed := funext₂ feedWord_eq
    simp only [beatWords, hword, hfeed, sums]
  have hfresh : (!marks.contains (.stream e.serial)) = decide fresh := by
    simp [fresh]
  have htaken : ∀ n, run n → countedStream e d st n (decide fresh) = taken n := by
    intro n hn
    simp only [countedStream, takenStream, hsums n hn, taken, decide_eq_true_eq]
  refine ⟨fun h => streamBeat_ends he (judgeBeat_elsewhere h), fun h => streamBeat_ends he (judgeBeat_noRun ?_),
    fun h => streamBeat_ends he (judgeBeat_afterTail h), ?_, ?_⟩
  · exact Option.eq_none_iff_forall_ne_some.2 fun n hn => h n ((hrun n).1 hn)
  · intro n ha hn ht hover
    exact streamBeat_ends he ((judgeBeat_inOrder ha ((hrun n).2 hn) ht).trans (if_pos hover))
  · intro n ha hn ht hfits u
    have hbeat := streamBeat_taken (d := d) (marks := marks) he
      ((judgeBeat_inOrder ha ((hrun n).2 hn) ht).trans (if_neg (Nat.not_lt.2 hfits)))
    simp only [hfresh, htaken n hn, decide_eq_true_eq] at hbeat
    exact hbeat

end Sys2Proof.Machine
end

section
/-! PROOFS. The end of a stream, and the commands that end one (R40, R41, R43). -/

namespace Sys2Proof.Machine

/-! ### The end of a stream (R43) -/

theorem endStream_none {s : State} {id : Nat} (o : StreamOutcome) (a p : Option Nat) (h : streamAt s id = none) :
    endStream id o a p s = s := by
  unfold endStream
  rw [h]

theorem endStream_some {s : State} {id : Nat} {e : Stream} (o : StreamOutcome) (a p : Option Nat)
    (h : streamAt s id = some e) : endStream id o a p s =
      keepNote id e o (handToClip id e o p (createReport (streamEndReport id e o a) (setStream id none s))) := by
  unfold endStream
  rw [h]

/-- The outcome is handed over by the stream's role, and by whether it is GOOD (R54, R55, R57, R58). -/
theorem handToClip_eq (id : Nat) (e : Stream) (o : StreamOutcome) (p : Option Nat) (s : State) :
    handToClip id e o p s =
      match e.role with
      | .source =>
        if o = .good then sourceGood e.clip { b := e.b, a := e.a, length := e.bytes } s else sourceFailed e.clip id p s
      | .dest d =>
        if o = .good then destGood e.clip d { b := e.b, a := e.a, length := e.bytes } s else destFailed e.clip d s := by
  unfold handToClip
  cases e.role <;> cases o <;> rfl

theorem keepNote_eq (id : Nat) (e : Stream) (o : StreamOutcome) (s : State) :
    keepNote id e o s =
      if e.outstanding = 0 then s else s.withSu { s.su with closing := s.su.closing ++ [closingNote id e o] } := by
  unfold keepNote
  rcases Nat.eq_zero_or_pos e.outstanding with h | h
  · rw [if_neg (by omega), if_pos h]
  · rw [if_pos h, if_neg (by omega)]

/-! ### STREAM_CLOSE and STREAM_ABORT (R40, R41) -/

section
variable {s : State} {id : Nat}

theorem streamCloseAct_badArgument (n : Nat) (h : 23 < id) : streamCloseAct id n s = refuse .badArgument s := if_pos h

theorem streamCloseAct_unknown (n : Nat) (h : id ≤ 23) (hs : streamAt s id = none) :
    streamCloseAct id n s = refuse .unknownStream s := by
  unfold streamCloseAct
  rw [if_neg (by omega), hs]

theorem streamCloseAct_running {e : Stream} (n : Nat) (h : id ≤ 23) (hs : streamAt s id = some e) :
    streamCloseAct id n s = (endStream id (closeOutcome e n) none none s, .done id) := by
  unfold streamCloseAct
  rw [if_neg (by omega), hs]

theorem streamAbortAct_badArgument (h : 23 < id) : streamAbortAct id s = refuse .badArgument s := if_pos h

theorem streamAbortAct_unknown (h : id ≤ 23) (hs : streamAt s id = none) :
    streamAbortAct id s = refuse .unknownStream s := by
  unfold streamAbortAct
  rw [if_neg (by omega), hs]

theorem streamAbortAct_running {e : Stream} (h : id ≤ 23) (hs : streamAt s id = some e) :
    streamAbortAct id s = (endStream id .aborted none none s, .done id) := by
  unfold streamAbortAct
  rw [if_neg (by omega), hs]

end

/-- A record taken whose act is known (R18, R19). -/
theorem completeCommand_of_act {code : Nat} {act : State → State × Answer} {s r : State} {a : Answer}
    (h : act (advanceSequence s) = (r, a)) :
    completeCommand code act s = createReport (.completion s.cir.expected code a) r := by
  unfold completeCommand
  rw [h]

/-- Settles O16: the end of a stream step by step, and the two commands by their tests. -/
theorem streamsEndAndAreClosed : Obligations.StreamsEndAndAreClosed := by
  unfold Obligations.StreamsEndAndAreClosed
  intro s stream finalLength i note endsWith
  have hends : ∀ (s : State) o a p e, streamAt s i = some e → endStream i o a p s = endsWith s e o a p := by
    intro s o a p e he
    rw [endStream_some o a p he, keepNote_eq, handToClip_eq]
    rfl
  refine ⟨fun o a p => ⟨endStream_none o a p, hends s o a p⟩,
    ⟨takeStreamClose stream finalLength s, rfl, ?_, ?_, ?_⟩, ⟨takeStreamAbort stream s, rfl, ?_, ?_, ?_⟩⟩
  · exact fun h => answered_refused (streamCloseAct_badArgument _ h)
  · exact fun h hs => answered_refused (streamCloseAct_unknown _ h hs)
  · intro e h hs
    rw [← hends (advanceSequence s) _ _ _ e hs]
    exact completeCommand_of_act (streamCloseAct_running _ h hs)
  · exact fun h => answered_refused (streamAbortAct_badArgument h)
  · exact fun h hs => answered_refused (streamAbortAct_unknown h hs)
  · intro e h hs
    rw [← hends (advanceSequence s) _ _ _ e hs]
    exact completeCommand_of_act (streamAbortAct_running h hs)

end Sys2Proof.Machine
end

section
/-! PROOFS. Write responses shown to the Stream Unit: running streams and closing notes (R44 to R46). -/

namespace Sys2Proof.Machine

/-! ### Finding the stream of a serial -/

theorem streamAt_eq_getElem {s : State} {j : Nat} (hj : j < s.su.table.length) : streamAt s j = s.su.table[j] :=
  List.getD_eq_getElem _ _ hj

theorem streamOfSerial_running {s : State} {serial i : Nat} {e : Stream} (hi : streamAt s i = some e)
    (hs : e.serial = serial) (hone : ∀ j f, streamAt s j = some f → f.serial = serial → j = i) :
    streamOfSerial s serial = some i := by
  have hlt := streamAt_lt hi
  unfold streamOfSerial
  rw [List.findIdx?_eq_some_iff_getElem]
  refine ⟨hlt, by simp [← streamAt_eq_getElem hlt, hi, hs], fun j hj => ?_⟩
  rw [← streamAt_eq_getElem (hj.trans hlt)]
  cases hf : streamAt s j with
  | none => simp
  | some f => simpa using fun h => hj.ne (hone j f hf h)

theorem streamOfSerial_ended {s : State} {serial : Nat} (h : ∀ i e, ¬(streamAt s i = some e ∧ e.serial = serial)) :
    streamOfSerial s serial = none := by
  unfold streamOfSerial
  rw [List.findIdx?_eq_none_iff]
  intro x hx
  obtain ⟨j, hj, rfl⟩ := List.getElem_of_mem hx
  rw [← streamAt_eq_getElem hj]
  cases hf : streamAt s j with
  | none => rfl
  | some f => simpa using fun hs => h j f ⟨hf, hs⟩

theorem streamResponse_running {s : State} {serial i : Nat} {e : Stream} (ok : Bool)
    (h : streamOfSerial s serial = some i) (hi : streamAt s i = some e) : streamResponse serial ok s =
      let u := setStream i (some { e with outstanding := e.outstanding - 1 }) s
      if ok then u else endStream i .faulted none none u := by
  unfold streamResponse
  rw [h]
  simp only [hi]

theorem streamResponse_ended {s : State} {serial : Nat} (ok : Bool) (h : streamOfSerial s serial = none) :
    streamResponse serial ok s = noteResponse serial ok s := by
  unfold streamResponse
  rw [h]

/-! ### Closing notes (R45) -/

/-- What a write response leaves of the closing note it counts down: nothing at 0. -/
def countedNote (raised : Bool) (n : ClosingNote) : List ClosingNote :=
  if n.outstanding ≤ 1 then []
  else [{ n with outstanding := n.outstanding - 1, faultRaised := n.faultRaised || raised }]

theorem countDown_others {serial : Nat} (raised : Bool) {l : List ClosingNote} (h : ∀ m ∈ l, m.serial ≠ serial) :
    countDown serial raised l = l := by
  unfold countDown
  rw [List.filterMap_congr (g := some) fun m hm => if_neg (h m hm), List.filterMap_some]

theorem countDown_cons {serial : Nat} (raised : Bool) {n : ClosingNote} (l : List ClosingNote) (hn : n.serial = serial) :
    countDown serial raised (n :: l) = countedNote raised n ++ countDown serial raised l := by
  unfold countDown countedNote
  by_cases h : n.outstanding ≤ 1 <;> simp [hn, h]

theorem countDown_one {serial : Nat} (raised : Bool) {before behind : List ClosingNote} {n : ClosingNote}
    (hn : n.serial = serial) (h : ∀ m ∈ before ++ behind, m.serial ≠ serial) :
    countDown serial raised (before ++ n :: behind) = before ++ countedNote raised n ++ behind := by
  have happend : ∀ l m, countDown serial raised (l ++ m) = countDown serial raised l ++ countDown serial raised m :=
    fun _ _ => List.filterMap_append
  rw [happend, countDown_cons raised behind hn, countDown_others raised fun m hm => h m (List.mem_append_left _ hm),
    countDown_others raised fun m hm => h m (List.mem_append_right _ hm), List.append_assoc]

theorem noteResponse_none {s : State} {serial : Nat} (ok : Bool) (h : ∀ n ∈ s.su.closing, n.serial ≠ serial) :
    noteResponse serial ok s = s := by
  unfold noteResponse
  rw [List.find?_eq_none.2 (by simpa using h)]

theorem noteResponse_one {s : State} {serial : Nat} (ok : Bool) {before behind : List ClosingNote} {n : ClosingNote}
    (hl : s.su.closing = before ++ n :: behind) (hn : n.serial = serial)
    (h : ∀ m ∈ before ++ behind, m.serial ≠ serial) : noteResponse serial ok s =
      let raise := !ok && n.outcome == .good && !n.faultRaised
      let u := s.withSu { s.su with closing := before ++ countedNote raise n ++ behind }
      if raise then raiseFault true (clipFinding .copyWriteFault n.clip n.stream) u else u := by
  have hfind : s.su.closing.find? (fun m => m.serial == serial) = some n := by
    rw [hl]
    exact find?_of_first (fun m hm => by simpa using h m (List.mem_append_left _ hm)) (by simpa using hn)
  unfold noteResponse
  rw [hfind]
  simp only [hl, countDown_one _ hn h]

/-- Settles O17, by what holds the serial: a running stream, a closing note, or neither. -/
theorem writeResponsesReachStreams : Obligations.WriteResponsesReachStreams := by
  unfold Obligations.WriteResponsesReachStreams
  intro s serial ok t running ended l
  refine ⟨?_, ?_, ?_⟩
  · intro i e hi hone
    exact streamResponse_running ok (streamOfSerial_running hi.1 hi.2 fun j f hj hf => hone j f ⟨hj, hf⟩) hi.1
  · intro hended hnone
    exact (streamResponse_ended ok (streamOfSerial_ended hended)).trans (noteResponse_none ok hnone)
  · intro before n behind hended hl hn hothers raise left u
    have hraise : (!ok && n.outcome == .good && !n.faultRaised) = decide raise := by
      simp [raise, beq_eq_decide, Bool.and_assoc]
    have h := (streamResponse_ended ok (streamOfSerial_ended hended)).trans (noteResponse_one ok hl hn hothers)
    simp only [hraise, decide_eq_true_eq] at h
    exact h

end Sys2Proof.Machine
end

section
/-! PROOFS. STREAM_OPEN: the tests of Table 3-2, and what an opening does (R32, R33, R53, R56). -/

namespace Sys2Proof.Machine

/-! ### What each test of Table 3-2 asks -/

theorem freeStream_none {s : State} : freeStream s = none ↔ s.su.table.all (fun x => x.isSome) = true := by
  unfold freeStream
  simp [List.findIdx?_eq_none_iff]

theorem freeStream_lowest {s : State} {id : Nat} (hlt : id < s.su.table.length) (hid : streamAt s id = none)
    (hlow : ∀ j, j < id → streamAt s j ≠ none) : freeStream s = some id := by
  unfold freeStream
  rw [List.findIdx?_eq_some_iff_getElem]
  refine ⟨hlt, by rw [← streamAt_eq_getElem hlt, hid]; rfl, fun j hj => ?_⟩
  rw [← streamAt_eq_getElem (hj.trans hlt)]
  simpa using hlow j hj

theorem overlaps_windowSet {s : State} {a n : Nat} (hn : 0 < n) :
    overlapsAny { base := a, size := n }
        (controlPage s :: poolWindows s ++ viewWindows s 0 ++ viewWindows s 1 ++ streamWindows s) = true ↔
      ∃ w ∈ windowSet s, 0 < w.size ∧ w.base < a + n ∧ a < w.base + w.size := by
  have e : controlPage s :: poolWindows s ++ viewWindows s 0 ++ viewWindows s 1 ++ streamWindows s = windowSet s := rfl
  rw [e, overlapsAny_iff]
  unfold Span.overlaps
  simp only [decide_eq_true_eq, hn, true_and]
  exact ⟨fun ⟨w, hw, h1, h2, h3⟩ => ⟨w, hw, h1, h3, h2⟩, fun ⟨w, hw, h1, h2, h3⟩ => ⟨w, hw, h1, h3, h2⟩⟩

/-- The roles that a payload can name (R32, Table 12-3). -/
theorem roleOf_eq_some {role : BitVec 8} {d : Nat} {r : Role} :
    roleOf role.toNat d = some r ↔ role = 0 ∧ r = .source ∨ role = 1 ∧ d ≤ 3 ∧ r = .dest d := by
  have h0 : role = 0 ↔ role.toNat = 0 := by rw [← BitVec.toNat_inj]; rfl
  have h1 : role = 1 ↔ role.toNat = 1 := by rw [← BitVec.toNat_inj]; rfl
  rw [h0, h1]
  unfold roleOf
  split
  · simp [*, eq_comm]
  · split <;> simp [*, eq_comm]
  · rename_i n0 n1
    exact ⟨nofun, fun h => h.elim (fun h => absurd h.1 n0) (fun h => absurd h.1 n1)⟩

theorem roleOf_isSome {role : BitVec 8} {d : Nat} :
    (roleOf role.toNat d).isSome = true ↔ role = 0 ∨ role = 1 ∧ d ≤ 3 := by
  simp only [Option.isSome_iff_exists, roleOf_eq_some, exists_or, exists_and_left, exists_eq, and_true]

theorem streamOpenArguments_iff {role : BitVec 8} {i d a n : Nat} :
    streamOpenArguments i (roleOf role.toNat d) a n = true ↔ i ≤ 63 ∧ (role = 0 ∨ role = 1 ∧ d ≤ 3) ∧ a % 32 = 0 ∧
      n % 32 = 0 ∧ 4096 ≤ n ∧ n ≤ 2 ^ 32 ∧ a + n ≤ 2 ^ 40 := by
  unfold streamOpenArguments
  rw [decide_eq_true_eq, roleOf_isSome]
  rfl

/-! ### The tests in the order of Table 3-2 -/

/-- The five tests of Table 3-2 that ask for the role, in order, before a last one. -/
def roleRows (s : State) (i : Nat) (role : BitVec 8) (d : Nat) (last : Option Reason) : Option Reason :=
  let held := (clipAt s i).map (fun c => c.state)
  let verdict := (clipAt s i).map (fun c => (destAt c d).verdict)
  if role = 0 ∧ (held = some .sourced ∨ held = some .verified ∨ sourceRunning s i = true) then some .wrongState
  else if role = 0 ∧ held = some .spoiled ∧ streamRunning s i = true then some .busy
  else if role = 1 ∧ held = some .spoiled then some .wrongState
  else if role = 1 ∧ verdict = some .matched then some .alreadyVerified
  else if role = 1 ∧ destRunning s i d = true then some .busy
  else last

theorem roleRows_eq {s : State} {i d : Nat} {role : BitVec 8} {c : Clip} {r : Role} (last : Option Reason)
    (hc : clipAt s i = some c) (hr : roleOf role.toNat d = some r) :
    roleRows s i role d last = (streamRoleTest s i c r).or last := by
  have h01 : ¬(0 : BitVec 8) = 1 := by decide
  have h10 : ¬(1 : BitVec 8) = 0 := by decide
  unfold roleRows
  obtain ⟨rfl, rfl⟩ | ⟨rfl, -, rfl⟩ := roleOf_eq_some.1 hr
  · simp only [hc, streamRoleTest, Option.map_some, Option.some.injEq, true_and, h01, false_and, if_false]
    split_ifs <;> rfl
  · simp only [hc, streamRoleTest, Option.map_some, Option.some.injEq, true_and, h10, false_and, if_false]
    split_ifs <;> rfl

/-- Table 3-2 row by row: the reason that STREAM_OPEN is refused for, if it is. -/
def openRefusal (s : State) (i : Nat) (role : BitVec 8) (d a n : Nat) : Option Reason :=
  if ¬(i ≤ 63 ∧ (role = 0 ∨ role = 1 ∧ d ≤ 3) ∧ a % 32 = 0 ∧ n % 32 = 0 ∧ 4096 ≤ n ∧ n ≤ 2 ^ 32 ∧ a + n ≤ 2 ^ 40) then
    some .badArgument
  else if clipAt s i = none then some .unknownClip
  else if s.su.table.all (fun x => x.isSome) then some .noRoom
  else roleRows s i role d
    (if ∃ w ∈ windowSet s, 0 < w.size ∧ w.base < a + n ∧ a < w.base + w.size then some .overlap else none)

section
variable {s : State} {i role d a n x id : Nat} {c : Clip} {r : Role} {reason : Reason}

theorem streamOpenAct_badArgument (h : ¬streamOpenArguments i (roleOf role d) a n = true) :
    streamOpenAct i role d a n x s = refuse .badArgument s := by
  unfold streamOpenAct
  cases hr : roleOf role d with
  | none => rfl
  | some r => rw [hr] at h; exact if_pos (Bool.eq_false_iff.2 h)

theorem streamOpenAct_unknownClip (hr : roleOf role d = some r) (ha : streamOpenArguments i (some r) a n = true)
    (hc : clipAt s i = none) : streamOpenAct i role d a n x s = refuse .unknownClip s := by
  simp only [streamOpenAct, hr, ha, hc, Bool.true_eq_false, if_false]

theorem streamOpenAct_noRoom (hr : roleOf role d = some r) (ha : streamOpenArguments i (some r) a n = true)
    (hc : clipAt s i = some c) (hf : freeStream s = none) :
    streamOpenAct i role d a n x s = refuse .noRoom s := by
  simp only [streamOpenAct, hr, ha, hc, hf, Bool.true_eq_false, if_false]

/-- With a role, a clip and a free id, the tests left are those of the role and of the window. -/
theorem streamOpenAct_free (hr : roleOf role d = some r) (ha : streamOpenArguments i (some r) a n = true)
    (hc : clipAt s i = some c) (hf : freeStream s = some id) : streamOpenAct i role d a n x s =
      ((streamRoleTest s i c r).or (if overlapsAny { base := a, size := n }
          (controlPage s :: poolWindows s ++ viewWindows s 0 ++ viewWindows s 1 ++ streamWindows s) = true
        then some .overlap else none)).elim (openStream id (openedStream s i r a n x) s, .done id) (refuse · s) := by
  simp only [streamOpenAct, hr, ha, hc, hf, Bool.true_eq_false, if_false]
  cases streamRoleTest s i c r with
  | some reason => rfl
  | none =>
    rw [Option.none_or]
    generalize overlapsAny _ _ = overlap
    cases overlap <;> rfl

end

/-- STREAM_OPEN is refused for the first row of Table 3-2 that fails, or opens the lowest free id. -/
theorem streamOpenAct_spec (s : State) (i : Nat) (role : BitVec 8) (d a n x : Nat) :
    (∀ reason, openRefusal s i role d a n = some reason →
      streamOpenAct i role.toNat d a n x s = refuse reason s) ∧
    (∀ c id, openRefusal s i role d a n = none → clipAt s i = some c → freeStream s = some id →
      ∃ r, roleOf role.toNat d = some r ∧
        streamOpenAct i role.toNat d a n x s = (openStream id (openedStream s i r a n x) s, .done id)) := by
  unfold openRefusal
  split
  · rename_i hargs
    exact ⟨fun reason h => by cases h; exact streamOpenAct_badArgument (mt streamOpenArguments_iff.1 hargs), nofun⟩
  · rename_i hrow
    have hargs := streamOpenArguments_iff.2 (not_not.1 hrow)
    obtain ⟨-, hrole, -, -, hn, -, -⟩ := not_not.1 hrow
    have hn : 0 < n := by omega
    obtain ⟨r, hr⟩ := Option.isSome_iff_exists.1 (roleOf_isSome.2 hrole)
    rw [hr] at hargs
    split
    · rename_i hc
      exact ⟨fun reason h => by cases h; exact streamOpenAct_unknownClip hr hargs hc, nofun⟩
    · rename_i hc
      obtain ⟨c, hc⟩ := Option.ne_none_iff_exists'.1 hc
      split
      · rename_i hf
        exact ⟨fun reason h => by cases h; exact streamOpenAct_noRoom hr hargs hc (freeStream_none.2 hf), nofun⟩
      · rename_i hf
        obtain ⟨id, hf⟩ := Option.ne_none_iff_exists'.1 (mt freeStream_none.1 hf)
        have hact := streamOpenAct_free (x := x) hr hargs hc hf
        rw [roleRows_eq _ hc hr]
        simp only [overlaps_windowSet hn] at hact
        refine ⟨fun reason h => by rw [hact, h]; rfl, fun c' id' h _ hid => ⟨r, hr, ?_⟩⟩
        obtain rfl : id = id' := Option.some.inj (hf.symm.trans hid)
        rw [hact, h]
        rfl

/-! ### What an opening does (R33, R53, R56) -/

theorem told_clipAt {s t x : State} {l : List ReportBody} (h : Told s t l x) (i : Nat) : clipAt t i = clipAt x i :=
  clipAt_ct (by rw [h.effect.fields.2.2.1]) i

/-- A CLIP_STATE report after what was told (R59). -/
theorem Told.reportClip {s t x : State} {l : List ReportBody} {i : Nat} {c : Clip} (h : Told s t l x)
    (hx : x.time = s.time) (old : Option ClipState) (cause : ClipCause) (hc : clipAt x i = some c) :
    Told s (reportClip i old cause t) (l ++ [.clipState i c old (some c.state) cause]) x := by
  unfold Machine.reportClip
  simp only [told_clipAt h, hc]
  exact (h.trans (told_one (x := t) _ rfl rfl rfl rfl) hx).seen h.effect

/-- The lamp of a clip's slot, computed after what was told (R64, R65). -/
theorem Told.clipLamp {s t x : State} {l : List ReportBody} {i : Nat} {c : Clip} (h : Told s t l x)
    (hx : x.time = s.time) (hc : clipAt x i = some c) :
    Told s (computeClipLamp i t) (l ++ lampReport c.slot x) (relit c.slot x) := by
  unfold computeClipLamp
  simp only [told_clipAt h, hc]
  exact h.lamp hx c.slot

theorem Told.setClip {s t x : State} {l : List ReportBody} (h : Told s t l x) (i : Nat) (e : Option Clip) :
    Told s (setClip i e t) l (setClip i e x) := by
  refine h.after rfl rfl ?_
  unfold Machine.setClip
  rw [h.effect.fields.2.2.1]
  exact h.effect.withCt _

section
variable {s t x : State} {l : List ReportBody} {i : Nat} {c : Clip} (h : Told s t l x) (hx : x.time = s.time)
  (hc : clipAt x i = some c)
include h hx hc

/-- A destination whose read-back is opened is PENDING (R56). -/
theorem Told.destOpened (d : Nat) :
    let asked := withDest c d { verdict := .pending, held := none }
    Told s (destOpened i d t) (l ++ [.clipState i asked (some c.state) (some c.state) .verdict])
      (Machine.setClip i (some asked) x) := by
  intro asked
  unfold Machine.destOpened
  simp only [told_clipAt h, hc]
  exact (h.setClip i (some asked)).reportClip hx (some c.state) .verdict (by rw [clipAt_set hc, if_pos rfl])

/-- A SPOILED clip whose source is opened again is OPEN, with the present session of its slot (R53). -/
theorem Told.sourceReopened (hs : c.state = .spoiled) :
    let y := Machine.setClip i (some (reopenedClip x c)) x
    Told s (sourceOpened i t)
      (l ++ [.clipState i (reopenedClip x c) (some .spoiled) (some .opened) .sourceReopened] ++ lampReport c.slot y)
      (relit c.slot y) := by
  intro y
  have hr : reopenedClip t c = reopenedClip x c := by
    unfold reopenedClip cardSlotAt
    rw [h.effect.fields.2.2.1]
  have hy : clipAt y i = some (reopenedClip x c) := by rw [clipAt_set hc, if_pos rfl]
  unfold sourceOpened
  simp only [told_clipAt h, hc, hs, if_true, hr]
  exact ((h.setClip i _).reportClip hx (some .spoiled) .sourceReopened hy).clipLamp (c := reopenedClip x c) hx hy

/-- Any other clip whose source is opened keeps its record (R53). -/
theorem Told.sourceOpened (hs : ¬c.state = .spoiled) :
    Told s (sourceOpened i t) (l ++ lampReport c.slot x) (relit c.slot x) := by
  unfold Machine.sourceOpened
  simp only [told_clipAt h, hc, if_neg hs]
  exact h.clipLamp hx hc

end

/-- The state with stream id made and the serial advanced, before the Clip Tracker is told (R33). -/
def enteredStream (id : Nat) (e : Stream) (s : State) : State :=
  s.withSu { s.su with table := s.su.table.set id (some e), openSerial := (s.su.openSerial + 1) % 2 ^ 32 }

theorem openStream_source {id : Nat} {e : Stream} {s : State} (h : e.role = .source) :
    openStream id e s = sourceOpened e.clip (enteredStream id e s) := by
  unfold openStream
  rw [h]
  rfl

theorem openStream_dest {id d : Nat} {e : Stream} {s : State} (h : e.role = .dest d) :
    openStream id e s = destOpened e.clip d (enteredStream id e s) := by
  unfold openStream
  rw [h]
  rfl

/-- Settles O14: the tests of Table 3-2 in order, and then the opening by the role and the clip's state. -/
theorem streamOpenTestsAndOpens : Obligations.StreamOpenTestsAndOpens := by
  unfold Obligations.StreamOpenTestsAndOpens
  intro s clip role destination base length expected i d a n held verdict test
  obtain ⟨hrefused, hopened⟩ := streamOpenAct_spec (advanceSequence s) i role d a n expected.toNat
  refine ⟨takeStreamOpen clip role destination base length expected s, rfl,
    fun r hr => answered_refused (hrefused r hr), ?_⟩
  intro c id hnone hc hlt hid hlow e u x reopened asked
  obtain ⟨r, hr, hact⟩ := hopened c id hnone hc (freeStream_lowest hlt hid hlow)
  have hu : Told (advanceSequence s) (enteredStream id e (advanceSequence s)) [] u := told_quiet rfl rfl rfl
  have hanswered : ∀ l y, Told (advanceSequence s) (openStream id (openedStream (advanceSequence s) i r a n expected.toNat)
      (advanceSequence s)) l y → y.time = s.time →
      Answered s (takeStreamOpen clip role destination base length expected s) l 0x10 (.done id) y := by
    intro l y ht hy
    exact answered_told (by rw [hact]) (by rw [hact]; exact ht) hy
  obtain ⟨rfl, rfl⟩ | ⟨rfl, hd, rfl⟩ := roleOf_eq_some.1 hr
  · have ho := openStream_source (id := id) (s := advanceSequence s) (e := e) rfl
    rw [if_neg (by decide)]
    split
    · exact hanswered _ _ (ho ▸ hu.sourceReopened rfl hc ‹_›) (relit_time _ _)
    · exact hanswered _ _ (ho ▸ hu.sourceOpened rfl hc ‹_›) (relit_time _ _)
  · have ho := openStream_dest (id := id) (d := d) (s := advanceSequence s) (e := e) rfl
    rw [if_pos rfl]
    exact hanswered _ _ (ho ▸ hu.destOpened rfl hc d) rfl

end Sys2Proof.Machine
end

section
/-! PROOFS. The operations that several laws follow through: what a key's action and a write response of a frame
keep, whatever the law is. -/

namespace Sys2Proof.Machine

section
variable {P : State → Prop} (hpu : ∀ u x, P u → P (u.withPu x)) (hact : ∀ k e x u, P u → P (actAndReport k e x u))
include hpu hact

/-- A press marks the key and carries its action out, or changes nothing (R159). -/
theorem keyPress_keeps (k : Nat) {s : State} (h : P s) : P (keyPress k s) := by
  unfold keyPress
  split
  · exact hact k _ _ _ (hpu s _ h)
  · exact h

/-- A repeat sets the key's next due time and carries its action out, stops repeating, or changes nothing (R160). -/
theorem keyRepeat_keeps (k : Nat) {s : State} (h : P s) : P (keyRepeat k s) := by
  unfold keyRepeat
  split
  · split
    · exact hact k _ _ _ (hpu s _ h)
    · exact hpu s _ h
  · exact h

end

/-- A write response shown to FIU marks the slot and raises FRAME_WRITE_FAULT, or changes nothing (R79). -/
theorem frameResponse_keeps {P : State → Prop} (hfiu : ∀ u x, P u → P (u.withFiu x))
    (hraise : ∀ kind f k u, P u → P (raiseFrame kind f k u)) (a k g : Nat) (ok : Bool) {s : State} (h : P s) :
    P (frameResponse a k g ok s) := by
  unfold frameResponse
  dsimp only
  split
  · exact h
  · split
    · exact hraise _ _ _ _ (hfiu s _ h)
    · split
      · exact h
      · exact hraise _ _ _ _ (hfiu s _ h)
    · exact h
    · exact h

end Sys2Proof.Machine
end

section
/-! PROOFS. The card lamps: what every move keeps of them (R64, R65). -/

namespace Sys2Proof.Machine

/-- A move that touches neither the clips, the card slots nor the stream table keeps the lamps as they are. -/
theorem LampLaw.of_units {s t : State} (h : LampLaw s) (hc : t.ct = s.ct) (hs : t.su.table = s.su.table) : LampLaw t :=
  (SameLamps.of hc hs).law h

/-- A hard reset leaves no card in a reader, and every lamp OFF (R66). -/
theorem hardReset_lamps (n : Nat) (s : State) : LampLaw (hardReset n s) := by
  intro k _
  have hslot : (cardSlotAt (hardReset n s) k).present = false ∧ (cardSlotAt (hardReset n s) k).lamp = .off := by
    unfold cardSlotAt hardReset
    rw [List.getD_eq_getElem?_getD, List.getElem?_map]
    cases s.ct.slots[k]? <;> exact ⟨rfl, rfl⟩
  unfold lampOf
  rw [hslot.2, if_pos hslot.1]

/-- ENGINE_RESET computes all eight lamps at its end (R29, R66). -/
theorem engineResetAct_lamps (s : State) : LampLaw (engineResetAct s).1 := by
  unfold engineResetAct
  dsimp only
  exact computeLamps_lamps _ _ fun _ hj => .inl (List.mem_range.2 hj)

theorem actAndReport_lamps (k : Nat) (e : PanelEvent) (x : Option Nat) (s : State) (h : LampLaw s) :
    LampLaw (actAndReport k e x s) :=
  create_lamps (doAction_lamps h)


/-- Every move leaves each lamp as Table 4-6 gives it: what changes a clip, a card slot or a running SOURCE stream computes
the lamp of its slot, and the other moves touch none of them. -/
theorem move_lamps {s t : State} (m : Move s t) (h : LampLaw s) : LampLaw t := by
  cases m with
  | hardReset n => exact hardReset_lamps n s
  | engineReset => exact engineResetAct_lamps s
  | streamOpen c r d b l x => exact streamOpen_lamps h
  | endStream i o a => exact endStream_lamps h
  | streamBeat i a d st l => exact streamBeat_lamps h
  | streamResponse n ok => exact streamResponse_lamps h
  | clipOpen l k c r => exact clipOpen_lamps h
  | clipRetire i => exact clipRetire_lamps h
  | faultAck i => exact faultAck_lamps h
  | clipFaultsAck i => exact clipFaultsAck_lamps h
  | frameResponse a k g ok =>
    exact frameResponse_keeps (P := LampLaw) (fun _ _ => fiu_lamps) (fun _ _ _ _ => raiseFrame_lamps) a k g ok h
  | poolBeat r b i d st p => exact poolBeat_lamps h
  | cardDetChange k b => exact cardDet_lamps h
  | cardInsertion k => exact cardInsertion_lamps h
  | cardRemoval k => exact cardRemoval_lamps h
  | keyPress k => exact keyPress_keeps (fun _ _ hu => hu.of_units rfl rfl) actAndReport_lamps k h
  | keyRepeat k => exact keyRepeat_keeps (fun _ _ hu => hu.of_units rfl rfl) actAndReport_lamps k h
  | quiet k => exact h.of_units k.ct (by rw [k.su])
  | _ => exact h.of_units (by simp) (by simp)

/-- Settles O58: what every move keeps, every step keeps. -/
theorem everyStepKeepsLampsByTheTable : Obligations.EveryStepKeepsLampsByTheTable := by
  unfold Obligations.EveryStepKeepsLampsByTheTable
  intro s t
  exact step_keeps (fun _ _ k h => h.of_units k.ct (by rw [k.su])) (fun _ _ => move_lamps)

end Sys2Proof.Machine
end

section
/-! PROOFS. The clips' verdicts and the fault list: what every move keeps of them (R51 to R58, R104, R105). -/

namespace Sys2Proof.Machine

/-! ### Clips and their streams (Sections 4.3, 4.4) -/

theorem ClipLaw.of_units {s t : State} (h : ClipLaw s) (hc : t.ct = s.ct) (hs : t.su = s.su) : ClipLaw t :=
  (SameClips.of (by rw [hc]) (by rw [hs])).law h

/-- ENGINE_RESET frees every clip and drops every stream (R48, R66). -/
theorem engineResetAct_clips (s : State) : ClipLaw (engineResetAct s).1 := by
  unfold engineResetAct
  dsimp only
  refine (computeLamps_sameClips _ _).law (ClipLaw.none (fun i => ?_) (fun i => ?_))
  · exact none_map s.ct.clips i
  · exact none_map s.su.table i

theorem actAndReport_clips (k : Nat) (e : PanelEvent) (x : Option Nat) (s : State) (h : ClipLaw s) :
    ClipLaw (actAndReport k e x s) :=
  (create_sameClips _ _).law (doAction_verdicts h)

/-- Every move keeps the law of clips and streams: an opening is tested against the clip and the streams that run (Table
3-2), an end settles the verdict it was running for, and the other moves touch no clip's verdicts and no stream. -/
theorem move_clips {s t : State} (m : Move s t) (h : ClipLaw s) : ClipLaw t := by
  cases m with
  | hardReset n => exact ClipLaw.none (fun i => replicate_getD 64 i) (fun i => replicate_getD 24 i)
  | engineReset => exact engineResetAct_clips s
  | streamOpen c r d b l x => exact streamOpen_verdicts h
  | endStream i o a => exact endStream_verdicts h
  | streamBeat i a d st l => exact streamBeat_verdicts h
  | streamResponse n ok => exact streamResponse_verdicts h
  | clipOpen l k c r => exact clipOpen_verdicts h
  | clipRetire i => exact clipRetire_verdicts h
  | faultAck i => exact faultAck_verdicts h
  | clipFaultsAck i => exact clipFaultsAck_verdicts h
  | frameResponse a k g ok =>
    exact frameResponse_keeps (P := ClipLaw) (fun _ _ hu => hu.of_units rfl rfl)
      (fun _ _ _ _ => (raiseFrame_sameClips _ _ _ _).law) a k g ok h
  | poolBeat r b i d st p => exact (poolBeat_sameClips r b i d st p s).law h
  | cardDetChange k b => exact SameClips.law (s := s) (.of rfl rfl) h
  | cardInsertion k => exact cardInsertion_verdicts h
  | cardRemoval k => exact cardRemoval_verdicts h
  | keyPress k => exact keyPress_keeps (fun _ _ hu => hu.of_units rfl rfl) actAndReport_clips k h
  | keyRepeat k => exact keyRepeat_keeps (fun _ _ hu => hu.of_units rfl rfl) actAndReport_clips k h
  | quiet k => exact h.of_units k.ct k.su
  | _ => exact h.of_units (by simp) (by simp)

/-! ### The fault list and crit_open (R104, R105) -/

theorem FaultLaw.of_units {s t : State} (h : FaultLaw s) (hf : t.fl = s.fl) (hc : t.ct = s.ct) (hs : t.su = s.su) :
    FaultLaw t :=
  h.same (by rw [hf]) (by rw [hc]) hs

/-- A hard reset empties the fault list, the stream table and the closing list (R30). -/
theorem hardReset_faults (n : Nat) (s : State) : FaultLaw (hardReset n s) where
  size := Nat.zero_le _
  streams i e h := by
    have hn : streamAt (hardReset n s) i = none := replicate_getD 24 i
    rw [hn] at h
    cases h
  notes := nofun
  critical _ := Nat.zero_le _

/-- ENGINE_RESET empties the fault list and drops every stream (R29). -/
theorem engineResetAct_faults (s : State) : FaultLaw (engineResetAct s).1 := by
  unfold engineResetAct
  dsimp only
  exact (computeLamps_keepsFaultLaw _ (.refl _)).2 (resetUnits_L s)

/-- A card is pulled: each SOURCE stream of its session ends, and the lamp is computed (R63). -/
theorem cardRemoval_faults (k : Nat) {s : State} (h : FaultLaw s) : FaultLaw (cardRemoval k s) := by
  have pulled : ∀ (ids : List Nat) (t : State), FaultLaw t →
      FaultLaw (ids.foldl (fun t i => endStream i .aborted none (some k) t) t) := by
    intro ids
    induction ids with
    | nil => exact fun t ht => ht
    | cons i ids ih => exact fun t ht => ih _ ((endStream_keepsNamedClips i _ _ _ (.refl t) ht).2 ht)
  unfold cardRemoval
  dsimp only
  split
  · exact (computeLamp_keepsFaultLaw k (.refl _)).2 ((pulled _ s h).same rfl rfl rfl)
  · exact h

theorem cardInsertion_faults (k : Nat) {s : State} (h : FaultLaw s) : FaultLaw (cardInsertion k s) := by
  unfold cardInsertion
  dsimp only
  split
  · exact (computeLamp_keepsFaultLaw k (.refl _)).2 (h.same rfl rfl rfl)
  · exact h

theorem actAndReport_faults (k : Nat) (e : PanelEvent) (x : Option Nat) (s : State) :
    FaultLaw s → FaultLaw (actAndReport k e x s) :=
  (act_keepsFaultLaw k e x (.refl s)).2

/-- Every move keeps the law of the fault list: a CRITICAL fault listed is counted in crit_open, an acknowledgement takes
off no more than it makes ACKED, a retired clip's records are marked, and the other moves touch neither. -/
theorem move_faults {s t : State} (m : Move s t) (h : FaultLaw s) : FaultLaw t := by
  cases m with
  | hardReset n => exact hardReset_faults n s
  | engineReset => exact engineResetAct_faults s
  | streamOpen c r d b l x => exact (streamOpen_keepsNamedClips c r d b l x s).2 h
  | endStream i o a => exact (endStream_keepsNamedClips i o a none (.refl s) h).2 h
  | streamBeat i a d st l => exact (streamBeat_keepsNamedClips i a d st l (.refl s) h).2 h
  | streamResponse n ok => exact (streamResponse_keepsNamedClips n ok (.refl s) h).2 h
  | clipOpen l k c r => exact (clipOpen_keepsNamedClips l k c r s).2 h
  | clipRetire i => exact clipRetire_L i s h
  | faultAck i => exact (faultAck_keepsFaultLaw i s).2 h
  | clipFaultsAck i => exact (clipFaultsAck_keepsFaultLaw i s).2 h
  | frameResponse a k g ok => exact (frameResponse_keepsFaultLaw a k g ok (.refl s)).2 h
  | poolBeat r b i d st p => exact (poolBeat_keepsFaultLaw r b i d st p (.refl s)).2 h
  | cardDetChange k b => exact h.same rfl rfl rfl
  | cardInsertion k => exact cardInsertion_faults k h
  | cardRemoval k => exact cardRemoval_faults k h
  | keyPress k => exact keyPress_keeps (fun _ _ hu => hu.of_units rfl rfl rfl) actAndReport_faults k h
  | keyRepeat k => exact keyRepeat_keeps (fun _ _ hu => hu.of_units rfl rfl rfl) actAndReport_faults k h
  | quiet k => exact h.of_units k.fl k.ct k.su
  | _ => exact h.of_units (by simp) (by simp) (by simp)

/-- Settles O59, law by law: what every move keeps, every step keeps. -/
theorem everyStepKeepsVerdictsAndCriticalFaults : Obligations.EveryStepKeepsVerdictsAndCriticalFaults := by
  unfold Obligations.EveryStepKeepsVerdictsAndCriticalFaults
  exact ⟨fun _ _ => step_keeps (fun _ _ k h => h.of_units k.ct k.su) (fun _ _ => move_clips),
    fun _ _ => step_keeps (fun _ _ k h => h.of_units k.fl k.ct k.su) (fun _ _ => move_faults)⟩

end Sys2Proof.Machine
end

section
/-! PROOFS. The card lamps by Table 4-6, and their outputs (R64, R65). -/

namespace Sys2Proof.Machine

/-! ### What each line of Table 4-6 asks -/

section
variable (s : State) (k : Nat)

theorem mem_sessionSet (i : Nat) : i ∈ sessionSet s k ↔
    ∃ c, clipAt s i = some c ∧ c.slot = k ∧ c.session = (cardSlotAt s k).session := by
  unfold sessionSet
  rw [List.mem_filter, List.mem_range, inSession_iff]
  exact ⟨And.right, fun h => ⟨clipAt_lt h.choose_spec.1, h⟩⟩

theorem session_critical : (sessionSet s k).any (clipCritical s) = true ↔
    ∃ i c, (clipAt s i = some c ∧ c.slot = k ∧ c.session = (cardSlotAt s k).session) ∧
      (c.state = .spoiled ∨ 0 < c.critOpen) := by
  refine sessionSet_any_iff s k _ _ fun i c hc => ?_
  unfold clipCritical
  rw [hc]
  simp

theorem session_running : (sessionSet s k).any (sourceRunning s) = true ↔
    ∃ i c j e, (clipAt s i = some c ∧ c.slot = k ∧ c.session = (cardSlotAt s k).session) ∧
      streamAt s j = some e ∧ e.clip = i ∧ e.role = .source := by
  rw [sessionSet_any_iff s k _ (fun i _ => ∃ j e, streamAt s j = some e ∧ e.clip = i ∧ e.role = .source)
    fun i _ _ => sourceRunning_iff s i]
  simp only [exists_and_left]

theorem session_nonempty : sessionSet s k ≠ [] ↔
    ∃ i c, clipAt s i = some c ∧ c.slot = k ∧ c.session = (cardSlotAt s k).session := by
  simp only [ne_eq, List.eq_nil_iff_forall_not_mem, not_forall_not, mem_sessionSet]

theorem session_verified : (sessionSet s k).all (clipVerified s) = true ↔
    ∀ i c, clipAt s i = some c ∧ c.slot = k ∧ c.session = (cardSlotAt s k).session → c.state = .verified := by
  have hclip : ∀ i c, clipAt s i = some c → (clipVerified s i = true ↔ c.state = .verified) := by
    intro i c hc
    unfold clipVerified
    rw [hc]
    simp
  rw [List.all_eq_true]
  simp only [mem_sessionSet]
  constructor
  · exact fun h i c hm => (hclip i c hm.1).1 (h i ⟨c, hm⟩)
  · rintro h i ⟨c, hm⟩
    exact (hclip i c hm.1).2 (h i c hm)

/-! ### The computation and the outputs -/

/-- A computation that changes the lamp sets it and creates one LAMP report (R65). -/
theorem computeLamp_changed (hk : k < 8) (hl : (cardSlotAt s k).lamp ≠ lampOf s k) :
    Told s (computeLamp k s) [.lamp k (cardSlotAt s k).lamp (lampOf s k) (cardSlotAt s k).session]
      (setCardSlot k { cardSlotAt s k with lamp := lampOf s k } s) := by
  unfold computeLamp
  rw [if_pos ⟨hk, hl.symm⟩]
  exact told_one _ rfl rfl rfl rfl

/-- Any other computation does nothing; slot 8 has no lamp (R65). -/
theorem computeLamp_unchanged (h : 8 ≤ k ∨ (cardSlotAt s k).lamp = lampOf s k) : computeLamp k s = s :=
  if_neg fun ⟨hk, hl⟩ => h.elim (fun h => by omega) fun h => hl h.symm

theorem flashOn_iff : flashOn s = true ↔ s.time / 250 % 2 = 0 := beq_iff_eq

theorem lampRed_iff : lampRed s k = true ↔ (cardSlotAt s k).lamp = .red ∨ (cardSlotAt s k).lamp = .amber ∨
    (cardSlotAt s k).lamp = .amberFlash ∧ s.time / 250 % 2 = 0 := by
  unfold lampRed
  cases (cardSlotAt s k).lamp <;> simp [flashOn_iff]

theorem lampGreen_iff : lampGreen s k = true ↔ (cardSlotAt s k).lamp = .green ∨ (cardSlotAt s k).lamp = .amber ∨
    (cardSlotAt s k).lamp = .amberFlash ∧ s.time / 250 % 2 = 0 := by
  unfold lampGreen
  cases (cardSlotAt s k).lamp <;> simp [flashOn_iff]

end

/-- Settles O23, line by line of Table 4-6. -/
theorem lampsByTheTable : Obligations.LampsByTheTable := by
  unfold Obligations.LampsByTheTable
  intro s k x member red flash green
  have hpresent : x.present = true → ¬x.present = false := by simp
  have hred : (sessionSet s k).any (clipCritical s) = true ↔ red := session_critical s k
  have hflash : (sessionSet s k).any (sourceRunning s) = true ↔ flash := session_running s k
  have hgreen : sessionSet s k ≠ [] ∧ (sessionSet s k).all (clipVerified s) = true ↔ green :=
    and_congr (session_nonempty s k) (session_verified s k)
  unfold lampOf at *
  refine ⟨fun hp => if_pos hp, fun hp hr => ?_, fun hp hr hf => ?_, fun hp hr hf hg => ?_, fun hp hr hf hg => ?_,
    computeLamp_changed s k, computeLamp_unchanged s k, lampRed_iff s k, lampGreen_iff s k⟩
  · rw [if_neg (hpresent hp), if_pos (hred.2 hr)]
  · rw [if_neg (hpresent hp), if_neg (mt hred.1 hr), if_pos (hflash.2 hf)]
  · rw [if_neg (hpresent hp), if_neg (mt hred.1 hr), if_neg (mt hflash.1 hf), if_pos (hgreen.2 hg)]
  · rw [if_neg (hpresent hp), if_neg (mt hred.1 hr), if_neg (mt hflash.1 hf), if_neg (mt hgreen.1 hg)]

end Sys2Proof.Machine
end

section
/-! PROOFS. CLIP_OPEN and CLIP_RETIRE: the tests of Table 4-2 and of R60, and what they leave (R46, R51, R60, R108). -/

namespace Sys2Proof.Machine

/-! ### Searching the clip table -/

theorem clipAt_eq_getElem {s : State} {j : Nat} (hj : j < s.ct.clips.length) : clipAt s j = s.ct.clips[j] :=
  List.getD_eq_getElem _ _ hj

theorem mem_clips_iff (s : State) (c : Clip) : some c ∈ s.ct.clips ↔ ∃ i, clipAt s i = some c := by
  constructor
  · intro h
    obtain ⟨i, hi, e⟩ := List.getElem_of_mem h
    exact ⟨i, (clipAt_eq_getElem hi).trans e⟩
  · rintro ⟨i, hi⟩
    have hlt := clipAt_lt hi
    rw [clipAt_eq_getElem hlt] at hi
    exact hi ▸ List.getElem_mem hlt

/-- The label is in use (R51, Table 4-2). -/
theorem clipOfLabel_isSome (s : State) (label : Nat) :
    (clipOfLabel s label).isSome = true ↔ ∃ i c, clipAt s i = some c ∧ c.label = label := by
  unfold clipOfLabel
  rw [List.findIdx?_isSome, List.any_eq_true, exists_comm]
  constructor
  · rintro ⟨e, he, h⟩
    obtain ⟨c, rfl, hc⟩ := (Option.any_eq_true _ _).1 h
    obtain ⟨i, hi⟩ := (mem_clips_iff s c).1 he
    exact ⟨c, i, hi, by simpa using hc⟩
  · rintro ⟨c, i, hi, hc⟩
    exact ⟨some c, (mem_clips_iff s c).2 ⟨i, hi⟩, by simpa using hc⟩

theorem freeClip_none {s : State} (h : ∀ i, i < s.ct.clips.length → clipAt s i ≠ none) : freeClip s = none := by
  unfold freeClip
  rw [List.findIdx?_eq_none_iff]
  intro e he
  obtain ⟨i, hi, rfl⟩ := List.getElem_of_mem he
  rw [← clipAt_eq_getElem hi]
  simpa [Option.isSome_iff_ne_none] using h i hi

theorem freeClip_lowest {s : State} {i : Nat} (hlt : i < s.ct.clips.length) (hi : clipAt s i = none)
    (hlow : ∀ j, j < i → clipAt s j ≠ none) : freeClip s = some i := by
  unfold freeClip
  rw [List.findIdx?_eq_some_iff_getElem]
  refine ⟨hlt, by rw [← clipAt_eq_getElem hlt, hi]; rfl, fun j hj => ?_⟩
  rw [← clipAt_eq_getElem (hj.trans hlt)]
  simpa using hlow j hj

theorem streamRunning_iff (s : State) (i : Nat) :
    streamRunning s i = true ↔ ∃ j e, streamAt s j = some e ∧ e.clip = i := by
  constructor
  · intro h
    obtain ⟨o, ho, h⟩ := List.any_eq_true.1 h
    obtain ⟨e, rfl, he⟩ := (Option.any_eq_true _ _).1 h
    obtain ⟨j, hj, e'⟩ := List.getElem_of_mem ho
    exact ⟨j, e, (streamAt_eq_getElem hj).trans e', by simpa using he⟩
  · rintro ⟨j, e, he, hc⟩
    exact running_true he (by simpa using hc)

/-! ### CLIP_OPEN, test by test of Table 4-2 (R51) -/

section
variable {s : State} {label slot camera required i : Nat}

theorem clipOpenAct_badArgument (h : 8 < slot ∨ 15 < camera ∨ (clipOfLabel s label).isSome = true) :
    clipOpenAct label slot camera required s = refuse .badArgument s := by
  unfold clipOpenAct
  by_cases hargs : slot ≤ 8 ∧ camera ≤ 15
  · have hl : (clipOfLabel s label).isSome = true := (h.resolve_left (by omega)).resolve_left (by omega)
    rw [if_neg (not_not.2 hargs), if_pos hl]
  · rw [if_pos hargs]

variable (hs : slot ≤ 8) (hc : camera ≤ 15) (hl : ¬(clipOfLabel s label).isSome = true)
include hs hc hl

theorem clipOpenAct_noCard (h : slot < 8 ∧ (cardSlotAt s slot).present = false) :
    clipOpenAct label slot camera required s = refuse .noCard s := by
  unfold clipOpenAct
  rw [if_neg (not_not.2 ⟨hs, hc⟩), if_neg hl, if_pos h]

variable (hp : ¬(slot < 8 ∧ (cardSlotAt s slot).present = false))
include hp

theorem clipOpenAct_noRoom (h : freeClip s = none) :
    clipOpenAct label slot camera required s = refuse .noRoom s := by
  unfold clipOpenAct
  rw [if_neg (not_not.2 ⟨hs, hc⟩), if_neg hl, if_neg hp, h]

theorem clipOpenAct_opens (h : freeClip s = some i) :
    clipOpenAct label slot camera required s =
      (computeLamp slot (reportClip i none .opened (setClip i (some (openedClip s label slot camera required)) s)),
        carriedOut [(4, clamp 1 3 required != required)] i) := by
  unfold clipOpenAct
  rw [if_neg (not_not.2 ⟨hs, hc⟩), if_neg hl, if_neg hp, h]

end

/-- The answer names payload field 4 when the required copies were clamped to 1-3 (R20, R51). -/
theorem carriedOut_clamped (a n i : Nat) : carriedOut [(4, a != n)] i = if a = n then .done i else .clamped 4 i := by
  unfold carriedOut
  by_cases h : a = n <;> simp [h]

/-- A clip record stored and reported: one CLIP_STATE report (R59). -/
theorem told_setClip {s : State} {i : Nat} (hi : i < s.ct.clips.length) (c : Clip) (old : Option ClipState)
    (cause : ClipCause) : Told s (reportClip i old cause (setClip i (some c) s))
      [.clipState i c old (some c.state) cause] (setClip i (some c) s) := by
  have hset : Told s (setClip i (some c) s) [] (setClip i (some c) s) := told_quiet rfl rfl rfl
  exact hset.reportClip rfl old cause (by rw [clipAt_setClip, if_pos ⟨rfl, hi⟩])

/-- Settles O18: the tests of Table 4-2 in order, and then the lowest FREE entry opened. -/
theorem clipOpenTestsAndOpens : Obligations.ClipOpenTestsAndOpens := by
  unfold Obligations.ClipOpenTestsAndOpens
  intro s label slot camera required k x copies c used
  have hused : (clipOfLabel (advanceSequence s) label.toNat).isSome = true ↔ used := clipOfLabel_isSome s label.toNat
  have hcard : (k < 8 → x.present = true) → ¬(k < 8 ∧ x.present = false) := by
    rintro h ⟨hk, hp⟩
    exact Bool.false_ne_true (hp.symm.trans (h hk))
  refine ⟨takeClipOpen label slot camera required s, rfl, fun h => ?_, fun h => ?_, fun hk hc hl hp => ?_,
    fun hk hc hl hp hfull => ?_, ?_⟩
  · exact answered_refused (clipOpenAct_badArgument (h.imp_right .inl))
  · exact answered_refused (clipOpenAct_badArgument (.inr (.inr (hused.2 h))))
  · exact answered_refused (clipOpenAct_noCard (by omega) hc (mt hused.1 hl) ⟨hk, hp⟩)
  · exact answered_refused (clipOpenAct_noRoom hk hc (mt hused.1 hl) (hcard hp) (freeClip_none hfull))
  · intro i hk hc hl hp hlt hi hlow u
    have hact := clipOpenAct_opens (required := required.toNat) hk hc (mt hused.1 hl) (hcard hp)
      (freeClip_lowest (s := advanceSequence s) hlt hi hlow)
    have htold : Told (advanceSequence s) _ _ u := (told_setClip (s := advanceSequence s) hlt c none .opened).seen rfl
    refine answered_told ?_ ?_ (relit_time k u)
    · rw [hact]
      exact carriedOut_clamped copies required.toNat i
    · rw [hact]
      exact htold.lamp rfl k

/-! ### CLIP_RETIRE (R60) -/

/-- A record of the clip is marked retired, whether it was marked or not (R108). -/
theorem markRetired_eq (i : Nat) (s : State) : markRetired i s = s.withFl { s.fl with
    records := s.fl.records.map (fun r => if r.clip = some i then { r with retired := true } else r) } := by
  have hmark : ∀ r : FaultRecord, (if r.clip == some i && !r.retired then { r with retired := true } else r) =
      if r.clip = some i then { r with retired := true } else r := by
    intro r
    cases hr : r.retired with
    | false => simp
    | true => simp [← hr]
  unfold markRetired
  simp only [hmark]

section
variable {s : State} {i : Nat} {c : Clip}

theorem clipRetireAct_badArgument (h : 63 < i) : clipRetireAct i s = refuse .badArgument s := if_pos h

theorem clipRetireAct_unknownClip (hi : i ≤ 63) (hc : clipAt s i = none) :
    clipRetireAct i s = refuse .unknownClip s := by
  unfold clipRetireAct
  rw [if_neg (by omega), hc]

theorem clipRetireAct_busy (hi : i ≤ 63) (hc : clipAt s i = some c) (hr : streamRunning s i = true) :
    clipRetireAct i s = refuse .busy s := by
  simp only [clipRetireAct, hc, hr, if_true, if_neg (show ¬63 < i by omega)]

theorem clipRetireAct_retires (hi : i ≤ 63) (hc : clipAt s i = some c) (hr : ¬streamRunning s i = true) :
    clipRetireAct i s = (retireClip i c s, .done i) := by
  simp only [clipRetireAct, hc, if_neg hr, if_neg (show ¬63 < i by omega)]

end

/-- The state with the records of clip i marked retired, its closing notes without it, and its entry FREE (R60). -/
def retiredClip (i : Nat) (s : State) : State :=
  setClip i none (forgetClip i (markRetired i s))

section
variable {s t x : State} {l : List ReportBody} (h : Told s t l x) (i : Nat)
include h

theorem Told.markRetired : Told s (markRetired i t) l (markRetired i x) := by
  refine h.after rfl rfl ?_
  unfold Machine.markRetired
  rw [h.effect.fields.2.2.2.2.2.1]
  exact h.effect.withFl _

theorem Told.forgetClip : Told s (forgetClip i t) l (forgetClip i x) := by
  refine h.after rfl rfl ?_
  unfold Machine.forgetClip
  rw [h.effect.fields.2.1]
  exact h.effect.withSu _

end

/-- The CLIP_STATE report comes first, the lamp of the clip's slot last (R60). -/
theorem told_retireClip (i : Nat) (c : Clip) (s : State) : Told s (retireClip i c s)
    ([.clipState i c (some c.state) none .retired] ++ lampReport c.slot (retiredClip i s))
    (relit c.slot (retiredClip i s)) := by
  have hreport : Told s (createReport (.clipState i c (some c.state) none .retired) s)
      [.clipState i c (some c.state) none .retired] s := told_one _ rfl rfl rfl rfl
  exact (((hreport.markRetired i).forgetClip i).setClip i none).lamp rfl c.slot

/-- Settles O19: the three tests of R60 in order, and then the retirement. -/
theorem clipRetireFreesTheClip : Obligations.ClipRetireFreesTheClip := by
  unfold Obligations.ClipRetireFreesTheClip
  intro s clip i mark forget
  refine ⟨takeClipRetire clip s, rfl, fun h => ?_, fun hi hc => ?_, fun c j e hi hc he hclip => ?_, ?_⟩
  · exact answered_refused (clipRetireAct_badArgument h)
  · exact answered_refused (clipRetireAct_unknownClip hi hc)
  · exact answered_refused (clipRetireAct_busy hi hc ((streamRunning_iff (advanceSequence s) i).2 ⟨j, e, he, hclip⟩))
  · intro c hi hc hfree u
    have hidle : ¬streamRunning (advanceSequence s) i = true := by
      rw [streamRunning_iff]
      rintro ⟨j, e, he, hclip⟩
      exact hfree j e he hclip
    have hact := clipRetireAct_retires (s := advanceSequence s) hi hc hidle
    have hu : SameButReports u (retiredClip i (advanceSequence s)) := by
      unfold retiredClip
      rw [markRetired_eq]
      rfl
    have htold := told_retireClip i c (advanceSequence s)
    rw [lampReport_congr (s := u) hu.fields.2.2.1 hu.fields.2.1] at htold
    exact answered_told (by rw [hact]) (by rw [hact]; exact htold.seen (hu.relit c.slot)) (relit_time c.slot u)

end Sys2Proof.Machine
end

section
/-! PROOFS. What the ends of streams do to their clips (R54, R55, R57, R58). -/

namespace Sys2Proof.Machine

/-! ### A clip in use: its report, its lamp, a fault that names it -/

section
variable {s : State} {i : Nat} {c : Clip} (h : clipAt s i = some c)
include h

theorem reportClip_eq (old : Option ClipState) (cause : ClipCause) :
    reportClip i old cause s = createReport (.clipState i c old (some c.state) cause) s := by
  unfold reportClip
  rw [h]

theorem computeClipLamp_eq : computeClipLamp i s = computeLamp c.slot s := by
  unfold computeClipLamp
  rw [h]

theorem clipAt_setClip_same (c' : Clip) : clipAt (setClip i (some c') s) i = some c' := by
  rw [clipAt_set h, if_pos rfl]

/-- A record stored and reported (R59). -/
theorem reportClip_setClip (c' : Clip) (old : Option ClipState) (cause : ClipCause) :
    reportClip i old cause (setClip i (some c') s) =
      createReport (.clipState i c' old (some c'.state) cause) (setClip i (some c') s) :=
  reportClip_eq (clipAt_setClip_same h c') old cause

theorem clipAt_report_setClip (c' : Clip) (b : ReportBody) :
    clipAt (createReport b (setClip i (some c') s)) i = some c' := by
  rw [clipAt_createReport, clipAt_setClip_same h]

/-- A fault counts once against the clip it names, by its severity (R52, R103). -/
theorem clipAt_reportFault {f : Finding} (hf : f.clip = some i) :
    clipAt (reportFault f s) i = some (countedClip (severityOf f.kind) c) := by
  have hcount : clipAt (countFault f (takeFaultId s)) i = some (countedClip (severityOf f.kind) c) := by
    have hi : clipAt (takeFaultId s) i = some c := h
    unfold countFault
    simp only [hf, hi]
    exact clipAt_setClip_same hi _
  unfold reportFault
  rw [clipAt_createReport]
  exact hcount

end

/-- A fault raised inside a handling of CT's leaves the lamp to that handling's end (R103 step 5). -/
theorem raiseFault_within (f : Finding) (s : State) : raiseFault false f s = reportFault f s := by
  unfold raiseFault
  cases f.clip with
  | none => rfl
  | some i => exact if_neg fun h => Bool.false_ne_true h.1

theorem raiseMismatches_eq (i : Nat) (ds : List Nat) (s : State) : raiseMismatches i ds s =
    ds.foldl (fun t d => reportFault (clipFinding .copyMismatch (some i) d) t) s := by
  unfold raiseMismatches
  simp only [raiseFault_within]

/-- Each COPY_MISMATCH counts once against the clip's warn count, which stops at 65535 (R52, R54 step 4). -/
theorem clipAt_raiseMismatches {i : Nat} (ds : List Nat) {c : Clip} {s : State} (h : clipAt s i = some c)
    (hw : c.warnCount ≤ 65535) : clipAt (raiseMismatches i ds s) i =
      some { c with warnCount := min 65535 (c.warnCount + ds.length) } := by
  rw [raiseMismatches_eq]
  induction ds generalizing c s with
  | nil =>
    have e : min 65535 c.warnCount = c.warnCount := Nat.min_eq_right hw
    simpa [e] using h
  | cons d ds ih =>
    have hd := clipAt_reportFault h (f := clipFinding .copyMismatch (some i) d) rfl
    rw [List.foldl_cons, ih hd (Nat.min_le_left _ _)]
    have e : min 65535 (min 65535 (c.warnCount + 1) + ds.length) = min 65535 (c.warnCount + (d :: ds).length) := by
      rw [List.length_cons]
      omega
    rw [← e]
    rfl

/-! ### Held results against the source (R54) -/

theorem heldEquals_eq (fp : Fingerprint) : heldEquals fp = fun x => decide (x.held = some fp) := by
  funext x
  unfold heldEquals
  cases x.held <;> simp [beq_eq_decide]

theorem heldDiffers_eq (fp : Fingerprint) (x : Dest) :
    heldDiffers fp x = decide (x.held ≠ none ∧ x.held ≠ some fp) := by
  unfold heldDiffers
  cases x.held <;> simp [bne, beq_eq_decide]

/-- The record of a clip whose source ended GOOD: the fingerprint stored, every held result compared (R54). -/
theorem sourcedClip_eq (fp : Fingerprint) (c : Clip) : sourcedClip fp c = { c with
    state := .sourced, source := some fp
    dests := c.dests.map (fun x => match x.held with
      | none => x
      | some h => { verdict := if h = fp then .matched else .mismatch, held := none })
    matchCount := c.matchCount + c.dests.countP (fun x => decide (x.held = some fp)) } := by
  unfold sourcedClip
  rw [heldEquals_eq]
  rfl

section
variable {s : State} {i : Nat} {c : Clip} (h : clipAt s i = some c)
include h

/-- A SOURCED clip with its required copies becomes VERIFIED (R54 step 5). -/
theorem verifyIfEnough_enough (hr : c.required ≤ c.matchCount) :
    verifyIfEnough i s =
      createReport (.clipState i { c with state := .verified } (some .sourced) (some .verified) .verified)
        (setClip i (some { c with state := .verified }) s) := by
  unfold verifyIfEnough
  rw [h]
  dsimp only
  rw [if_pos hr, reportClip_setClip h]

theorem verifyIfEnough_short (hr : c.matchCount < c.required) : verifyIfEnough i s = s := by
  unfold verifyIfEnough
  rw [h]
  exact if_neg (by omega)

end

/-- Settles O20: both ends of a SOURCE stream, step by step of R54 and R55. -/
theorem sourceEndsSettleTheClip : Obligations.SourceEndsSettleTheClip := by
  unfold Obligations.SourceEndsSettleTheClip
  intro s i stream fp c fault compared final differing lamp t1 t2 settled verified spoiled t3 hc hw
  have hfinal : sourcedClip fp c = final := sourcedClip_eq fp c
  have hdiffering : (List.range c.dests.length).filter (fun d => heldDiffers fp (destAt c d)) = differing := by
    simp only [heldDiffers_eq]
    rfl
  have ht1 : reportClip i (some c.state) .sourceFinal (setClip i (some final) s) = t1 := reportClip_setClip hc _ _ _
  have ht2 : raiseMismatches i differing t1 = t2 := raiseMismatches_eq i differing t1
  have hsettled : clipAt t2 i = some settled := by
    rw [← ht2]
    exact clipAt_raiseMismatches differing (clipAt_report_setClip hc final _) hw
  have hgood : sourceGood i fp s = computeClipLamp i (verifyIfEnough i t2) := by
    unfold sourceGood
    simp only [hc, hfinal, hdiffering, ht1, ht2]
  have ht3 : reportClip i (some c.state) .sourceFailed (setClip i (some (spoiledClip s i c)) s) = t3 :=
    reportClip_setClip hc _ _ _
  have hu : clipAt (fault .sourceUnverifiable stream t3) i = some (countedClip .critical spoiled) :=
    clipAt_reportFault (f := clipFinding .sourceUnverifiable (some i) stream) (clipAt_report_setClip hc spoiled _) rfl
  have hfailed : ∀ pulled, sourceFailed i stream pulled s = match pulled with
      | none => computeClipLamp i (fault .sourceUnverifiable stream t3)
      | some k => fault .cardPulled k (fault .sourceUnverifiable stream t3) := by
    intro pulled
    unfold sourceFailed
    simp only [hc, ht3, raiseFault_within]
    rfl
  refine ⟨hsettled, fun hr => ?_, fun hr => ?_, ?_, fun k => hfailed (some k)⟩
  · rw [hgood, verifyIfEnough_enough hsettled hr, computeClipLamp_eq (clipAt_report_setClip hsettled _ _)]
  · rw [hgood, verifyIfEnough_short hsettled hr, computeClipLamp_eq hsettled]
  · exact (hfailed none).trans (computeClipLamp_eq (c := countedClip .critical spoiled) hu)

/-! ### Destination ends (R57, R58) -/

section
variable {s : State} {i d : Nat} {fp : Fingerprint} {c : Clip}

theorem comparedClip_match (h : c.source = some fp) : comparedClip c d fp =
    { withDest c d { verdict := .matched, held := none } with matchCount := c.matchCount + 1 } := if_pos h

theorem comparedClip_mismatch (h : c.source ≠ some fp) :
    comparedClip c d fp = withDest c d { verdict := .mismatch, held := none } := if_neg h

variable (hc : clipAt s i = some c)
include hc

theorem destGood_opened (h : c.state = .opened) : destGood i d fp s = reportClip i (some .opened) .held
    (setClip i (some (withDest c d { verdict := .pending, held := some fp })) s) := by
  simp only [destGood, hc, h]

theorem destGood_spoiled (h : c.state = .spoiled) : destGood i d fp s = reportClip i (some .spoiled) .verdict
    (setClip i (some (withDest c d Dest.empty)) s) := by
  simp only [destGood, hc, h]

/-- Once the source is final a GOOD result is compared at once (R57). -/
theorem destGood_final (h : c.state = .sourced ∨ c.state = .verified) :
    destGood i d fp s = compareDest i c d fp s := by
  rcases h with h | h <;> simp only [destGood, hc, h]

theorem destFailed_eq : destFailed i d s = reportClip i (some c.state) .verdict (setClip i
    (some (withDest c d { verdict := if c.state = .spoiled then .unset else .unverifiable, held := none })) s) := by
  simp only [destFailed, hc]

end

section
variable {s : State} {i d : Nat} {fp : Fingerprint} {c : Clip} (hsource : c.source = some fp)
include hsource

/-- The match that completes the required copies makes the clip VERIFIED and computes the lamp (R57). -/
theorem compareDest_verifies (hstate : c.state = .sourced) (hr : c.required ≤ c.matchCount + 1) :
    compareDest i c d fp s = computeClipLamp i (reportClip i (some .sourced) .verified (setClip i
      (some { withDest c d { verdict := .matched, held := none } with
        matchCount := c.matchCount + 1, state := .verified }) s)) := by
  simp only [compareDest, comparedClip_match hsource]
  exact if_pos ⟨hstate, hr, hsource⟩

/-- Any other match is reported alone (R57). -/
theorem compareDest_matches (h : c.state = .verified ∨ c.matchCount + 1 < c.required) :
    compareDest i c d fp s = reportClip i (some c.state) .verdict (setClip i
      (some { withDest c d { verdict := .matched, held := none } with matchCount := c.matchCount + 1 }) s) := by
  have hn : ¬(c.state = .sourced ∧ c.required ≤ c.matchCount + 1 ∧ c.source = some fp) := by
    rintro ⟨hs, hr, -⟩
    rcases h with h | h
    · rw [hs] at h
      cases h
    · omega
  simp only [compareDest, comparedClip_match hsource]
  exact (if_neg hn).trans (if_pos hsource)

end

/-- A result that differs is a MISMATCH and raises COPY_MISMATCH (R57). -/
theorem compareDest_differs {s : State} {i d : Nat} {fp : Fingerprint} {c : Clip} (h : c.source ≠ some fp) :
    compareDest i c d fp s = reportFault (clipFinding .copyMismatch (some i) d) (reportClip i (some c.state) .verdict
      (setClip i (some (withDest c d { verdict := .mismatch, held := none })) s)) := by
  simp only [compareDest, comparedClip_mismatch h, raiseFault_within]
  exact (if_neg fun hn => h hn.2.2).trans (if_neg h)

/-- Settles O21, by the state of the clip and the result. -/
theorem destinationEndsSettleTheVerdict : Obligations.DestinationEndsSettleTheVerdict := by
  unfold Obligations.DestinationEndsSettleTheVerdict
  intro s i d fp c with_ told hit verified miss final hc
  have htold : ∀ x cause, told (reportClip i (some c.state) cause (setClip i (some x) s)) x cause :=
    fun x cause => told_setClip (clipAt_lt hc) x (some c.state) cause
  refine ⟨fun hs => ?_, fun hs => ?_, ?_, fun hs hsource h => ?_, fun hs hsource => ?_, fun hs => ?_, fun hs => ?_⟩
  · rw [destGood_opened hc hs, ← hs]
    exact htold (with_ .pending (some fp)) .held
  · rw [destGood_spoiled hc hs, ← hs]
    exact htold (with_ .unset none) .verdict
  · intro hs hsource hr u
    rw [destGood_final hc (.inl hs), compareDest_verifies hsource hs hr]
    have hset := told_setClip (clipAt_lt hc) verified (some .sourced) .verified
    exact hset.clipLamp (c := verified) rfl (clipAt_setClip_same hc verified)
  · rw [destGood_final hc hs, compareDest_matches hsource h]
    exact htold hit .verdict
  · rw [destGood_final hc hs, compareDest_differs hsource, reportClip_setClip hc]
    rfl
  · rw [destFailed_eq hc, if_neg hs]
    exact htold (with_ .unverifiable none) .verdict
  · rw [destFailed_eq hc, if_pos hs]
    exact htold (with_ .unset none) .verdict

end Sys2Proof.Machine
end

section
/-! PROOFS. POOL_SET: the tests of Table 5-1, and the pool made anew (R67). -/

namespace Sys2Proof.Machine

/-! ### What each row of Table 5-1 asks -/

section
variable {s : State} {a n z : Nat}

theorem poolSetArguments_iff : poolSetArguments a n z = true ↔
    1 ≤ n ∧ n ≤ 256 ∧ z % 4096 = 0 ∧ 4096 ≤ z ∧ a % 4096 = 0 ∧ a + n * z ≤ 2 ^ 40 := by
  unfold poolSetArguments
  rw [decide_eq_true_eq]
  rfl

theorem anyPinned_iff : anyPinned s = true ↔ (viewAt s 0).pin ≠ none ∨ (viewAt s 1).pin ≠ none := by
  unfold anyPinned
  simp [Option.isSome_iff_ne_none]

/-- The overlap test of a pool, against every window but the present pool (R13, Table 5-1). -/
theorem overlaps_otherWindows (hpos : 0 < n * z) :
    overlapsAny (poolSpan { base := a, count := n, size := z })
        (controlPage s :: viewWindows s 0 ++ viewWindows s 1 ++ streamWindows s) = true ↔
      ∃ w ∈ controlPage s :: (viewWindows s 0 ++ viewWindows s 1 ++ streamWindows s),
        0 < w.size ∧ w.base < a + n * z ∧ a < w.base + w.size := by
  rw [overlapsAny_iff]
  unfold Span.overlaps poolSpan
  simp only [decide_eq_true_eq, hpos, true_and]
  exact exists_congr fun w => and_congr_right fun _ => and_congr_right fun _ => and_comm

/-! ### POOL_SET, row by row -/

theorem poolSetAct_badArgument (h : ¬poolSetArguments a n z = true) :
    poolSetAct a n z s = refuse .badArgument s :=
  if_pos (Bool.eq_false_iff.2 h)

variable (hargs : poolSetArguments a n z = true)
include hargs

theorem poolSetAct_busy (hpin : anyPinned s = true) : poolSetAct a n z s = refuse .busy s := by
  unfold poolSetAct
  rw [if_neg (by simp [hargs]), if_pos hpin]

variable (hfree : ¬anyPinned s = true)
include hfree

theorem poolSetAct_overlap (h : overlapsAny (poolSpan { base := a, count := n, size := z })
    (controlPage s :: viewWindows s 0 ++ viewWindows s 1 ++ streamWindows s) = true) :
    poolSetAct a n z s = refuse .overlap s := by
  unfold poolSetAct
  rw [if_neg (by simp [hargs]), if_neg hfree, if_pos h]

theorem poolSetAct_places (h : ¬overlapsAny (poolSpan { base := a, count := n, size := z })
    (controlPage s :: viewWindows s 0 ++ viewWindows s 1 ++ streamWindows s) = true) :
    poolSetAct a n z s =
      (s.withFiu (placedPool { base := a, count := n, size := z } s.fiu), .done (slotsIn s .filling)) := by
  unfold poolSetAct
  rw [if_neg (by simp [hargs]), if_neg hfree, if_neg h]

end

/-- Settles O24: the three rows of Table 5-1 in order, and then the new pool. -/
theorem poolSetReplacesThePool : Obligations.PoolSetReplacesThePool := by
  unfold Obligations.PoolSetReplacesThePool
  intro s base slotCount slotSize a n z fits pinned others overlap
  have hfits : poolSetArguments a n z = true ↔ fits := poolSetArguments_iff
  have hpinned : anyPinned (advanceSequence s) = true ↔ pinned := anyPinned_iff
  refine ⟨takePoolSet base slotCount slotSize s, rfl, ?_⟩
  by_cases hf : fits
  · rw [if_neg (not_not.2 hf)]
    have hargs := hfits.2 hf
    obtain ⟨hn, -, -, hz, -, -⟩ := hf
    have hoverlap := overlaps_otherWindows (s := advanceSequence s) (a := a)
      (Nat.mul_pos hn (show 0 < z by omega))
    split_ifs with hp ho
    · exact answered_refused (poolSetAct_busy hargs (hpinned.2 hp))
    · exact answered_refused (poolSetAct_overlap hargs (mt hpinned.1 hp) (hoverlap.2 ho))
    · exact answered_by (poolSetAct_places hargs (mt hpinned.1 hp) (mt hoverlap.1 ho)) rfl rfl rfl rfl
  · rw [if_pos hf]
    exact answered_refused (poolSetAct_badArgument (mt hfits.1 hf))

end Sys2Proof.Machine
end

section
/-! PROOFS. Header writes: when a header is whole, what its tests ask, and what it leaves of its slot (R70 to R73). -/

namespace Sys2Proof.Machine

/-! ### The judgement of a request's header beats (R70) -/

theorem isWholeHeader_iff (beats : List WriteBeat) (i o : Nat) : isWholeHeader beats i o = true ↔
    o = 224 ∧ 7 ≤ i ∧ ∀ b ∈ (beats.drop (i - 7)).take 8, b.strobes = BitVec.allOnes 32 := by
  unfold isWholeHeader
  simp only [Bool.and_eq_true, decide_eq_true_eq, List.all_eq_true, fullStrobes_iff, and_assoc]

section
variable {s : State} {req : Request} {beats : List WriteBeat} {i k o : Nat}

theorem headerBeat_early (h : i + 1 < beatCount req ∧ o + 32 < 256) : headerBeat req beats i k o s = (s, none) :=
  if_pos h

variable (h : ¬(i + 1 < beatCount req ∧ o + 32 < 256))
include h

theorem headerBeat_spoils (hw : ¬isWholeHeader beats i o = true) :
    headerBeat req beats i k o s = (spoilHeader k s, none) :=
  (if_neg h).trans (if_neg hw)

theorem headerBeat_takes {b : WriteBeat} (hw : isWholeHeader beats i o = true) (hb : beats[i - 7]? = some b) :
    headerBeat req beats i k o s = (takeHeader k b.data s, some (frameMark (takeHeader k b.data s) k)) := by
  refine (if_neg h).trans ((if_pos hw).trans ?_)
  rw [hb]
  rfl

end

/-! ### Reading a header (R71 steps 1 to 3) -/

theorem eyeOf_getD (code : Nat) (old : Eye) : (eyeOf code).getD old =
    if code = 0 then .mono else if code = 1 then .left else if code = 2 then .right else old := by
  unfold eyeOf
  split
  · rfl
  · rfl
  · rfl
  · rename_i h0 h1 h2
    rw [if_neg h0, if_neg h1, if_neg h2]
    rfl

/-- A header is read from its first beat (R71 steps 2 and 3, Table 12-7). -/
theorem readHeader_eq (s : State) (d : BeatData) (f : FrameSlot) :
    let field := fun (byte bits : Nat) => d.toNat / 2 ^ (8 * byte) % 2 ^ bits
    readHeader s d f = { f with
      generation := (f.generation + 1) % 256, lateFault := false, camera := field 0 8
      eye := if field 1 8 = 0 then .mono else if field 1 8 = 1 then .left else if field 1 8 = 2 then .right else f.eye
      label := field 4 32, clip := clipOfLabel s (field 4 32), frame := field 8 32
      timecode := { hh := field 12 8, mm := field 13 8, ss := field 14 8, ff := field 15 8 }
      width := field 16 16, height := field 18 16, stride := field 20 32 } := by
  intro field
  simp only [readHeader, headerTimecode, eyeOf_getD, beatField_eq]
  rfl

theorem abandonFrame_fiu (k : Nat) (s : State) : (abandonFrame k s).fiu = s.fiu := by simp

theorem abandonFrame_ctu (k : Nat) (s : State) : (abandonFrame k s).ctu = s.ctu := by simp

/-! ### The tests of Table 5-4 and what they leave (R71 steps 4 and 5, R72) -/

theorem slotSizeOf_eq (s : State) : slotSizeOf s = (s.fiu.pool.map (fun p => p.size)).getD 0 := by
  unfold slotSizeOf
  cases s.fiu.pool <;> rfl

theorem geometryPasses_iff (size eye : Nat) (f : FrameSlot) : geometryPasses size eye f = true ↔
    16 ≤ f.width ∧ f.width ≤ 8192 ∧ 16 ≤ f.height ∧ f.height ≤ 4320 ∧ f.stride % 32 = 0 ∧ f.width * 8 ≤ f.stride ∧
      eye ≤ 2 ∧ 256 + f.height * f.stride ≤ size :=
  decide_eq_true_iff

theorem cameraPasses_iff (s : State) (f : FrameSlot) :
    cameraPasses s f = true ↔ f.camera ≤ 15 ∧ (cameraAt s f.camera).configured = true := by
  unfold cameraPasses
  rw [Bool.and_eq_true, decide_eq_true_eq]

section
variable {s : State} {k eye : Nat} {f : FrameSlot}

theorem settleHeader_fails {kind : FaultKind} (h : headerFault s (slotSizeOf s) eye f = some kind) :
    settleHeader k eye f s = raiseFault true (headerFinding s kind k f) (setFrameSlot k { f with state := .bad } s) := by
  unfold settleHeader
  rw [h]

theorem headerFault_geometry (hg : ¬geometryPasses (slotSizeOf s) eye f = true) :
    headerFault s (slotSizeOf s) eye f = some .frameGeometry :=
  if_pos (Bool.eq_false_iff.2 hg)

variable (hg : geometryPasses (slotSizeOf s) eye f = true)
include hg

theorem headerFault_camera (hc : ¬cameraPasses s f = true) :
    headerFault s (slotSizeOf s) eye f = some .cameraUnknown := by
  unfold headerFault
  rw [if_neg (by simp [hg]), if_pos (Bool.eq_false_iff.2 hc)]

/-- A header that passes both tests makes its slot FILLING, and raises ORPHAN_FRAME with no clip (R71 step 5, R72). -/
theorem settleHeader_passes (hc : cameraPasses s f = true) : settleHeader k eye f s =
    if f.clip = none then raiseFrame .orphanFrame f k (setFrameSlot k (fillingSlot f) s)
    else setFrameSlot k (fillingSlot f) s := by
  have hfault : headerFault s (slotSizeOf s) eye f = none := by
    unfold headerFault
    rw [if_neg (by simp [hg]), if_neg (by simp [hc])]
  unfold settleHeader
  rw [hfault]
  simp only [Option.isNone_iff_eq_none]

end

/-- Settles O25: the judgement of the header beats, and then the steps of R71 with the tests of Table 5-4 in order. -/
theorem headersAreTakenOrSpoilTheSlot : Obligations.HeadersAreTakenOrSpoilTheSlot := by
  unfold Obligations.HeadersAreTakenOrSpoilTheSlot
  intro s req beats i k o d more whole field x size lost spoilt t f geometry known fails filling taken
  have hwhole : isWholeHeader beats i o = true ↔ whole := isWholeHeader_iff beats i o
  have ht : abandonFrame k s = t := rfl
  have hfiu : t.fiu = s.fiu := abandonFrame_fiu k s
  have hctu : t.ctu = s.ctu := abandonFrame_ctu k s
  have hx : frameSlotAt t k = x := congrArg (fun u => u.slots.getD k FrameSlot.empty) hfiu
  have hread : readHeader t d (frameSlotAt t k) = f := by
    rw [hx]
    exact readHeader_eq t d x
  have heye : beatField d 1 8 = field d 1 8 := beatField_eq d 1 8
  have htake : takeHeader k d s = noticeViews k (settleHeader k (field d 1 8) f t) := by
    unfold takeHeader
    simp only [ht, hread, heye]
  have hgeometry : geometryPasses (slotSizeOf t) (field d 1 8) f = true ↔ geometry := by
    rw [slotSizeOf_eq, hfiu]
    exact geometryPasses_iff size (field d 1 8) f
  have hknown : cameraPasses t f = true ↔ known := by
    rw [cameraPasses_iff]
    unfold cameraAt
    rw [hctu]
    rfl
  refine ⟨headerBeat_early, fun h hw => headerBeat_spoils h (mt hwhole.1 hw),
    fun b h hw hb => headerBeat_takes h (hwhole.2 hw) hb, fun hg => ?_, fun hg hc => ?_, fun hg hc hclip => ?_,
    fun hg hc hclip => ?_⟩
  · rw [htake, settleHeader_fails (headerFault_geometry (mt hgeometry.1 hg))]
    rfl
  · rw [htake, settleHeader_fails (headerFault_camera (hgeometry.2 hg) (mt hknown.1 hc))]
    rfl
  · rw [htake, settleHeader_passes (hgeometry.2 hg) (hknown.2 hc), if_neg hclip]
    rfl
  · rw [htake, settleHeader_passes (hgeometry.2 hg) (hknown.2 hc), if_pos hclip]
    rfl

end Sys2Proof.Machine
end

section
/-! PROOFS. Raster beats: what a beat behind the header does, and what counting and measuring it leaves (R74 to R78). -/

namespace Sys2Proof.Machine

theorem frameSlotAt_setFrameSlot {s : State} {k : Nat} (f : FrameSlot) (hk : k < s.fiu.slots.length) :
    frameSlotAt (setFrameSlot k f s) k = f := by
  unfold frameSlotAt setFrameSlot
  simp [hk]

/-! ### The zone of a luma (R86) -/

/-- The last number below n that passes a test. -/
theorem getLast?_filter_range {p : Nat → Bool} {n z : Nat} (hz : z < n) (hp : p z = true)
    (hlast : ∀ j, z < j → j < n → p j = false) : ((List.range n).filter p).getLast? = some z := by
  obtain ⟨m, rfl⟩ : ∃ m, n = z + 1 + m := ⟨n - (z + 1), by omega⟩
  have hrest : ((List.range m).map (z + 1 + ·)).filter p = [] := by
    rw [List.filter_eq_nil_iff]
    intro j hj
    obtain ⟨i, hi, rfl⟩ := List.mem_map.1 hj
    rw [List.mem_range] at hi
    rw [hlast (z + 1 + i) (by omega) (by omega)]
    exact Bool.false_ne_true
  rw [List.range_add, List.filter_append, hrest, List.append_nil, List.range_succ, List.filter_append,
    List.filter_cons_of_pos hp, List.filter_nil, List.getLast?_concat]

theorem zoneOf_highest {zones : List Zone} {y z : Nat} (hz : z < zones.length)
    (hin : ∀ w, zones[z]? = some w → w.bound ≤ y) (hover : ∀ j w, z < j → zones[j]? = some w → y < w.bound) :
    zoneOf zones y = z := by
  unfold zoneOf
  rw [getLast?_filter_range hz, Option.getD_some]
  · rw [List.getElem?_eq_getElem hz]
    simpa using hin _ (List.getElem?_eq_getElem hz)
  · intro j hzj hj
    rw [List.getElem?_eq_getElem hj]
    simpa using hover j _ hzj (List.getElem?_eq_getElem hj)

/-! ### What counting and measuring a beat leaves (R74, R76 to R78) -/

theorem rasterPixel_eq (d : BeatData) (j : Nat) : rasterPixel d j =
    { r := d.toNat / 2 ^ (8 * (8 * j)) % 65536, g := d.toNat / 2 ^ (8 * (8 * j + 2)) % 65536
      b := d.toNat / 2 ^ (8 * (8 * j + 4)) % 65536 } := by
  unfold rasterPixel
  simp only [beatField_eq]
  rfl

theorem addCandidate_eq : addCandidate = fun f p => if p ∈ f.candidates then f
    else if f.candidates.length < 8 then { f with candidates := f.candidates ++ [p] }
    else { f with candidatesOver := true } := by
  funext f p
  unfold addCandidate
  simp only [List.contains_iff_mem]

theorem isCandidate_eq (hot : Nat) (pixels : List (Nat × Rgb Nat)) : isCandidate hot pixels = fun p =>
    decide (hot ≤ luma p.2) && pixels.all (fun q => decide (q.1 = p.1) || decide (luma q.2 < hot / 2)) := by
  funext p
  unfold isCandidate
  simp only [beq_eq_decide]

theorem foldl_generation {α : Type} {f : FrameSlot → α → FrameSlot}
    (h : ∀ g a, (f g a).generation = g.generation) (l : List α) (g : FrameSlot) :
    (l.foldl f g).generation = g.generation := by
  induction l generalizing g with
  | nil => rfl
  | cons a l ih => rw [List.foldl_cons, ih, h]

theorem addCandidate_generation (f : FrameSlot) (p : Nat × Nat) : (addCandidate f p).generation = f.generation := by
  unfold addCandidate
  split_ifs <;> rfl

/-- A beat counted and measured belongs to the frame it found (R79). -/
theorem countBeat_generation (s : State) (d : BeatData) (st : Strobes) (b : Nat) (f : FrameSlot) :
    (countBeat s d st b f).generation = f.generation :=
  (foldl_generation addCandidate_generation _ _).trans
    (foldl_generation (f := measurePixel s.ctu.zones (cameraAt s f.camera).clipLevel) (fun _ _ => rfl) _ _)

/-- What counting leaves, over the written pixels, the candidates among them, the slot that has listed these, and the sum. -/
theorem countBeat_eq {s : State} {d : BeatData} {st : Strobes} {b sum : Nat} {f listed : FrameSlot}
    {pixels hot : List (Nat × Rgb Nat)} (hpixels : writtenPixels d st (b * 32 % f.stride / 8) f.width = pixels)
    (hhot : pixels.filter (isCandidate (cameraAt s f.camera).hotLevel pixels) = hot)
    (hlisted : (hot.map (fun p => (p.1, b * 32 / f.stride))).foldl addCandidate
      (pixels.foldl (measurePixel s.ctu.zones (cameraAt s f.camera).clipLevel) { f with counted := f.counted + 1 }) = listed)
    (hsum : beatSum d st = sum) :
    countBeat s d st b f = { listed with signature := (listed.signature + sum * (b + 1)) % 2 ^ 32 } := by
  subst hpixels hhot hlisted hsum
  rfl

/-! ### A beat behind the header, case by case -/

section
variable {s : State} {req : Request} {i k o : Nat} (d : BeatData) (st : Strobes)

theorem bodyBeat_stray (h : (frameSlotAt s k).state ≠ .filling ∨ frameEnd (frameSlotAt s k) ≤ o) :
    bodyBeat req i k o d st s = (countStray s, none) :=
  if_pos h

variable (hs : (frameSlotAt s k).state = .filling) (ho : o < frameEnd (frameSlotAt s k))
include hs ho

theorem raster_not_stray : ¬((frameSlotAt s k).state ≠ .filling ∨ frameEnd (frameSlotAt s k) ≤ o) := by
  rintro (h | h)
  · exact h hs
  · omega

theorem bodyBeat_overwrites (hc : (frameSlotAt s k).expected ≤ (frameSlotAt s k).counted) :
    bodyBeat req i k o d st s = (overwriteFrame k s, none) :=
  (if_neg (raster_not_stray hs ho)).trans (if_pos hc)

/-- A raster beat counted and measured is marked with the frame it found, and may end it (R74, R79, R80). -/
theorem bodyBeat_counted {g : FrameSlot} (hc : (frameSlotAt s k).counted < (frameSlotAt s k).expected)
    (hk : k < s.fiu.slots.length) (hg : countBeat s d st ((o - 256) / 32) (frameSlotAt s k) = g) :
    bodyBeat req i k o d st s =
      (if g.counted = g.expected ∧ ¬(i + 1 < beatCount req ∧ o + 32 < frameEnd (frameSlotAt s k)) then endFrame k g s
        else setFrameSlot k g s,
        some (.frame s.fiu.serial k (frameSlotAt s k).generation)) := by
  have hmark : frameMark (setFrameSlot k g s) k = .frame s.fiu.serial k (frameSlotAt s k).generation := by
    unfold frameMark
    rw [frameSlotAt_setFrameSlot g hk, ← hg, countBeat_generation]
    rfl
  refine (if_neg (raster_not_stray hs ho)).trans ((if_neg (by omega)).trans ?_)
  dsimp only
  rw [hg, hmark]

end

/-- Settles O26: a stray beat, a beat past the count, and a beat counted and measured. -/
theorem rasterBeatsAreCountedAndMeasured : Obligations.RasterBeatsAreCountedAndMeasured := by
  unfold Obligations.RasterBeatsAreCountedAndMeasured
  intro s req i k o d st f cam beat last b row x0 byte code written pixels y measured hot listed kept word sum g u spoilt ends
  have hpixels : writtenPixels d st x0 f.width = pixels := by
    unfold writtenPixels
    simp only [rasterPixel_eq]
    rfl
  have hhot : pixels.filter (isCandidate cam.hotLevel pixels) = hot := by
    rw [isCandidate_eq]
    rfl
  have hsum : beatSum d st = sum := by
    unfold beatSum maskedWord
    simp only [maskedByte_eq]
    rfl
  have hlisted : (hot.map (fun p => (p.1, row))).foldl addCandidate
      (pixels.foldl (measurePixel s.ctu.zones cam.clipLevel) { f with counted := f.counted + 1 }) = listed := by
    rw [addCandidate_eq]
    rfl
  have hg : countBeat s d st b f = g := countBeat_eq hpixels hhot hlisted hsum
  exact ⟨bodyBeat_stray d st, fun hs ho hc => bodyBeat_overwrites d st hs ho hc,
    fun hs ho hc hk => bodyBeat_counted d st hs ho hc hk hg, fun z hz hin hover => zoneOf_highest hz hin hover⟩

end Sys2Proof.Machine
end

section
/-! PROOFS. The end of a frame, and the write responses shown to the Frame Inspection Unit (R79, R80). -/

namespace Sys2Proof.Machine

/-! ### The end of a frame (R80) -/

/-- A frame counts once to the clip that its header named, while that clip holds the frame's label (R52, R80). -/
theorem countFrame_eq (clip : Option Nat) (label : Nat) (s : State) : countFrame clip label s =
    match heldClip s clip label with
    | none => s
    | some i => ((clipAt s i).map (fun c =>
        setClip i (some { c with frames := min (2 ^ 32 - 1) (c.frames + 1) }) s)).getD s := by
  unfold countFrame
  cases heldClip s clip label with
  | none => rfl
  | some i =>
    dsimp only
    cases clipAt s i <;> rfl

theorem cameraAt_countFrame (clip : Option Nat) (label : Nat) (s : State) (c : Nat) :
    cameraAt (countFrame clip label s) c = cameraAt s c := by
  unfold cameraAt
  simp

theorem meanLuma_eq (f : FrameSlot) : meanLuma f = min 65535 (f.lumaSum / (f.width * f.height)) :=
  Nat.zero_max _

theorem clipFraction_eq (f : FrameSlot) : clipFraction f = min 1024 (f.clipped * 1024 / (f.width * f.height)) :=
  Nat.zero_max _

/-! ### Write responses (R79) -/

section
variable {s : State} {k serial generation : Nat} {ok : Bool}

theorem frameResponse_ignored (h : ¬(ok = false ∧ serial = s.fiu.serial ∧ generation = (frameSlotAt s k).generation)) :
    frameResponse serial k generation ok s = s := by
  refine if_pos ?_
  by_contra hn
  simp only [not_or, Bool.not_eq_true, not_not] at hn
  exact h hn

variable (h : ok = false ∧ serial = s.fiu.serial ∧ generation = (frameSlotAt s k).generation)
include h

theorem present_not_ignored : ¬(ok = true ∨ serial ≠ s.fiu.serial ∨ generation ≠ (frameSlotAt s k).generation) := by
  obtain ⟨hok, hserial, hgeneration⟩ := h
  simp [hok, hserial, hgeneration]

theorem frameResponse_filling (hs : (frameSlotAt s k).state = .filling) : frameResponse serial k generation ok s =
    raiseFrame .frameWriteFault (frameSlotAt s k) k (setFrameSlot k { frameSlotAt s k with state := .bad } s) := by
  simp only [frameResponse, if_neg (present_not_ignored h), hs]

/-- Late fault raised keeps a COMPLETE frame from being told of twice (R79). -/
theorem frameResponse_complete (hs : (frameSlotAt s k).state = .complete) : frameResponse serial k generation ok s =
    if (frameSlotAt s k).lateFault = true then s
    else raiseFrame .frameWriteFault (frameSlotAt s k) k
      (setFrameSlot k { frameSlotAt s k with lateFault := true } s) := by
  simp only [frameResponse, if_neg (present_not_ignored h), hs]

theorem frameResponse_unused (hs : (frameSlotAt s k).state = .bad ∨ (frameSlotAt s k).state = .empty) :
    frameResponse serial k generation ok s = s := by
  rcases hs with hs | hs <;> simp only [frameResponse, if_neg (present_not_ignored h), hs]

end

/-- Settles O27: the steps of R80, and R79's table row by row. -/
theorem framesEndAndHearResponses : Obligations.FramesEndAndHearResponses := by
  unfold Obligations.FramesEndAndHearResponses
  intro s k serial generation f ok g mean clipped u counted reported x told answer present
  refine ⟨?_, frameResponse_ignored, fun h hs => frameResponse_filling h hs, fun h hs hl => ?_, fun h hs hl => ?_,
    fun h hs => frameResponse_unused h hs⟩
  · have hcounted : countFrame g.clip g.label u = counted := countFrame_eq g.clip g.label u
    have hcamera : cameraAt counted g.camera = cameraAt s f.camera := by
      rw [← hcounted]
      exact cameraAt_countFrame g.clip g.label u g.camera
    have hmean : meanLuma g = mean := meanLuma_eq g
    have hclipped : clipFraction g = clipped := clipFraction_eq g
    calc endFrame k f s
        = trackFrame g (clipFraction g) (meanLuma g) (reportFrame k g (countFrame g.clip g.label u)) := rfl
      _ = trackFrame g clipped mean reported := by
        rw [hcounted, reportFrame, hcamera, hmean, hclipped]
  · exact (frameResponse_complete h hs).trans (if_neg (by rw [hl]; exact Bool.false_ne_true))
  · exact (frameResponse_complete h hs).trans (if_pos hl)

end Sys2Proof.Machine
end

section
/-! PROOFS. Own reads that return, fetch faults, and pins that are lost (R73, R138, R140, R141). -/

namespace Sys2Proof.Machine

/-! ### Finding the read that a return names (log entry 5) -/

section
variable {s : State} {tag index : Nat}

theorem viewAt_eq_getElem {v : Nat} (hv : v < s.ve.length) : viewAt s v = s.ve[v] :=
  List.getD_eq_getElem _ _ hv

/-- A place of the table of views that has a read with a tag in service. -/
theorem viewServes_iff {v : Nat} (hv : v < s.ve.length) :
    s.ve[v].reads.any (fun r => r.tag == tag) = true ↔ ∃ r ∈ (viewAt s v).reads, r.tag = tag := by
  rw [viewAt_eq_getElem hv]
  simp only [List.any_eq_true, beq_iff_eq]

theorem viewOfRead_none (h : ∀ v, v < s.ve.length → ¬∃ r ∈ (viewAt s v).reads, r.tag = tag) :
    viewOfRead s tag = none := by
  unfold viewOfRead
  rw [List.findIdx?_eq_none_iff]
  intro x hx
  obtain ⟨v, hv, rfl⟩ := List.getElem_of_mem hx
  exact Bool.eq_false_iff.2 (mt (viewServes_iff hv).1 (h v hv))

theorem viewOfRead_first {v : Nat} (hv : v < s.ve.length) (h : ∃ r ∈ (viewAt s v).reads, r.tag = tag)
    (hfirst : ∀ u, u < v → ¬∃ r ∈ (viewAt s u).reads, r.tag = tag) : viewOfRead s tag = some v := by
  unfold viewOfRead
  rw [List.findIdx?_eq_some_iff_getElem]
  exact ⟨hv, (viewServes_iff hv).2 h, fun u hu => mt (viewServes_iff (hu.trans hv)).1 (hfirst u hu)⟩

theorem ownReadSent_iff {r : ServedRead} : ownReadSent s r index = true ↔
    ArrivalItem.viewRead r.tag index ∉ s.tu.arrival ∧ ∃ o, r.reads[index]? = some o ∧ o.data.length < o.beats := by
  unfold ownReadSent
  simp [Option.any_eq_true]

theorem viewFetchReturn_unserved (beats : List ReadBeat)
    (h : ∀ v, v < s.ve.length → ¬∃ r ∈ (viewAt s v).reads, r.tag = tag) : viewFetchReturn tag index beats s = s := by
  unfold viewFetchReturn
  rw [viewOfRead_none h]

theorem viewFetchReturn_served {v : Nat} {before behind : List ServedRead} {r : ServedRead} (beats : List ReadBeat)
    (hv : v < s.ve.length) (hfirst : ∀ u, u < v → ¬∃ r' ∈ (viewAt s u).reads, r'.tag = r.tag)
    (hl : (viewAt s v).reads = before ++ r :: behind) (hbefore : ∀ y ∈ before, y.tag ≠ r.tag) :
    viewFetchReturn r.tag index beats s = if ownReadSent s r index = true then returnBeats v index beats r s else s := by
  have hview : viewOfRead s r.tag = some v := viewOfRead_first hv ⟨r, by simp [hl], rfl⟩ hfirst
  have hread : (viewAt s v).reads.find? (fun y => y.tag == r.tag) = some r := by
    rw [hl]
    exact find?_of_first (fun y hy => by simpa using hbefore y hy) (by simp)
  unfold viewFetchReturn
  simp only [hview, hread]

end

/-! ### What returned beats leave (R138, R140) -/

theorem fetchFailed_iff (r : ServedRead) :
    fetchFailed r = true ↔ ∃ o ∈ r.reads, ∃ b ∈ o.data, b.resp = .slverr ∨ b.resp = .decerr := by
  have hbad : ∀ resp : Resp, (!respOk resp) = true ↔ resp = .slverr ∨ resp = .decerr := by
    intro resp
    cases resp <;> decide
  unfold fetchFailed
  simp only [List.any_eq_true, hbad]

theorem allReturned_iff (r : ServedRead) : allReturned r = true ↔ ∀ o ∈ r.reads, o.beats ≤ o.data.length := by
  unfold allReturned
  simp only [List.all_eq_true, decide_eq_true_eq]

/-- A read with beats returned to one of its own reads (R138). -/
def returnedTo (index : Nat) (beats : List ReadBeat) (r : ServedRead) : ServedRead :=
  { r with reads := r.reads.modify index (appendBeats beats) }

/-- The reads in service once a read has beats returned: without it, when it has returned whole (R138). -/
def stillServed (before : List ServedRead) (q : ServedRead) (behind : List ServedRead) : List ServedRead :=
  before ++ (if allReturned q = true then [] else [q]) ++ behind

/-- A read that has returned whole has its answer in the order book (R138). -/
def answerIfWhole (q : ServedRead) (s : State) : State :=
  if allReturned q = true then setAnswer q.tag (.read (answerRead q)) s else s

section
variable {before behind : List ServedRead} {r : ServedRead} (h : ∀ y ∈ before ++ behind, y.tag ≠ r.tag)
include h

theorem filter_others : (before ++ r :: behind).filter (fun y => y.tag != r.tag) = before ++ behind := by
  have hkeep : (before ++ behind).filter (fun y => y.tag != r.tag) = before ++ behind :=
    List.filter_eq_self.2 fun y hy => bne_iff_ne.2 (h y hy)
  rw [List.filter_append, List.filter_cons_of_neg (by simp), ← List.filter_append, hkeep]

theorem map_replace (q : ServedRead) :
    (before ++ r :: behind).map (fun y => if y.tag = r.tag then q else y) = before ++ q :: behind := by
  have same : ∀ l : List ServedRead, (∀ y ∈ l, y ∈ before ++ behind) →
      l.map (fun y => if y.tag = r.tag then q else y) = l := fun l hl =>
    (List.map_congr_left fun y hy => if_neg (h y (hl y hy))).trans (List.map_id' l)
  rw [List.map_append, List.map_cons, if_pos rfl, same before fun y => List.mem_append_left _,
    same behind fun y => List.mem_append_right _]

end

/-- Beats returned: the fetch fault, if it is the read's first ERROR, and then the read's place and answer. -/
theorem returnBeats_eq {s t : State} {v index : Nat} {beats : List ReadBeat} {before behind : List ServedRead}
    {r : ServedRead}
    (ht : (if fetchFailed r = false ∧ fetchFailed (returnedTo index beats r) = true then fetchFault v r s else s) = t)
    (hl : (viewAt t v).reads = before ++ r :: behind) (hu : ∀ y ∈ before ++ behind, y.tag ≠ r.tag) :
    returnBeats v index beats r s = answerIfWhole (returnedTo index beats r)
      (setView v { viewAt t v with reads := stillServed before (returnedTo index beats r) behind } t) := by
  subst ht
  have hq : ({ r with reads := r.reads.modify index (appendBeats beats) } : ServedRead) = returnedTo index beats r := rfl
  unfold returnBeats answerIfWhole stillServed
  simp only [hq, hl, filter_others hu, map_replace hu]
  split_ifs <;> simp [returnedTo]

section
variable {s : State} {v : Nat} {r : ServedRead}

/-- A fetch fault in a display frame that has reported one is counted alone (R140). -/
theorem fetchFault_again (h : (viewAt s v).lastFetchFault = some r.frameCount) : fetchFault v r s =
    setView v { viewAt s v with fetchFaults := min (2 ^ 32 - 1) ((viewAt s v).fetchFaults + 1) } s :=
  if_pos h

/-- The first fetch fault of a display frame is counted and reported (R140). -/
theorem fetchFault_first (h : (viewAt s v).lastFetchFault ≠ some r.frameCount) : fetchFault v r s =
    createReport (.view v .fetchFault r.frameCount (viewAt s v).pin
        (min (2 ^ 32 - 1) ((viewAt s v).fetchFaults + 1)))
      (setView v { viewAt s v with
        fetchFaults := min (2 ^ 32 - 1) ((viewAt s v).fetchFaults + 1), lastFetchFault := some r.frameCount } s) :=
  if_neg h

end

theorem viewAt_setView_same {s : State} {v : Nat} (x : View) (hv : v < s.ve.length) :
    viewAt (setView v x s) v = x := by
  rw [viewAt_setView, if_pos ⟨rfl, hv⟩]

/-- A view changed, reported, and changed again. -/
theorem told_report_between_setViews (s : State) (v : Nat) (b : ReportBody) (x y : View) :
    Told s (setView v y (createReport b (setView v x s))) [b] (setView v y s) := by
  have hreport : Told s (createReport b (setView v x s)) [b] (setView v x s) := told_one b rfl rfl rfl rfl
  have hset := told_setView hreport (List.length_set ..) v y
  rwa [setView_setView] at hset

theorem Told.answerIfWhole {s t x : State} {l : List ReportBody} (h : Told s t l x) (q : ServedRead) :
    Told s (answerIfWhole q t) l (answerIfWhole q x) := by
  unfold Machine.answerIfWhole
  split
  · exact h.after rfl rfl (h.effect.withBook _)
  · exact h

/-! ### The loss of a pin (R73, R141) -/

section
variable {s : State} {k v : Nat}

theorem noticeView_other (h : ∀ p, (viewAt s v).pin = some p → p.slot ≠ k) : noticeView k v s = s := by
  unfold noticeView
  dsimp only
  split
  · rfl
  · rename_i p hp
    exact if_neg (h p hp)

theorem noticeView_pinned {p : Pin} (hp : (viewAt s v).pin = some p) (hk : p.slot = k) : noticeView k v s =
    createReport (.view v .slotLost (viewAt s v).frameCount (some p) (slotStateCode (frameSlotAt s k).state))
      (setView v { viewAt s v with
        pin := none, reads := (viewAt s v).reads.map (loseRead (viewAt s v).frameCount) } s) := by
  unfold noticeView
  simp only [hp]
  exact if_pos hk

theorem loseRead_eq (n : Nat) : loseRead n = fun r =>
    if r.pin ≠ none ∧ r.frameCount = n then { r with pinLost := true } else r := by
  funext r
  unfold loseRead
  simp only [Option.isSome_iff_ne_none]

/-! ### The views that have notice (R73, log entry 9) -/

theorem pins_iff : (viewAt s v).pin.any (fun p => p.slot == k) = true ↔
    ∃ p, (viewAt s v).pin = some p ∧ p.slot = k := by
  simp [Option.any_eq_true]

theorem viewsPinning_none (h : ∀ u p, (viewAt s u).pin = some p → p.slot ≠ k) : viewsPinning s k = [] := by
  unfold viewsPinning
  rw [List.filter_eq_nil_iff]
  intro u _ hu
  obtain ⟨p, hp, hk⟩ := pins_iff.1 hu
  exact h u p hp hk

variable (h2 : s.ve.length = 2)
include h2

theorem viewsPinning_one (hv : v < 2) (h : ∃ p, (viewAt s v).pin = some p ∧ p.slot = k)
    (hothers : ∀ u, u < 2 → u ≠ v → ∀ p, (viewAt s u).pin = some p → p.slot ≠ k) : viewsPinning s k = [v] := by
  have hnot : ∀ u, u < 2 → u ≠ v → ¬(viewAt s u).pin.any (fun p => p.slot == k) = true := by
    intro u hu hne hp
    obtain ⟨p, hp, hk⟩ := pins_iff.1 hp
    exact hothers u hu hne p hp hk
  have hpin := pins_iff.2 h
  unfold viewsPinning
  rw [h2, show List.range 2 = [0, 1] from rfl]
  obtain rfl | rfl : v = 0 ∨ v = 1 := by omega
  · simp only [List.filter_cons, List.filter_nil, hpin, hnot 1 (by omega) (by omega), if_true, Bool.false_eq_true, if_false]
  · simp only [List.filter_cons, List.filter_nil, hpin, hnot 0 (by omega) (by omega), if_true, Bool.false_eq_true, if_false]

theorem viewsPinning_both (h0 : ∃ p, (viewAt s 0).pin = some p ∧ p.slot = k)
    (h1 : ∃ p, (viewAt s 1).pin = some p ∧ p.slot = k) : viewsPinning s k = [0, 1] := by
  unfold viewsPinning
  rw [h2, show List.range 2 = [0, 1] from rfl]
  simp only [List.filter_cons, List.filter_nil, pins_iff.2 h0, pins_iff.2 h1, if_true]

end

section
variable {s : State} {k : Nat}

theorem noticeViews_none (h : viewsPinning s k = []) : noticeViews k s = s := by
  unfold noticeViews
  rw [h]
  rfl

theorem noticeViews_one {v : Nat} (h : viewsPinning s k = [v]) : noticeViews k s = noticeView k v s := by
  unfold noticeViews
  rw [h]
  rfl

theorem noticeViews_both (h : viewsPinning s k = [0, 1]) : noticeViews k s =
    if Config.reverseOrder s.free = true then noticeView k 0 (noticeView k 1 (s.withFree (s.free + 1)))
    else noticeView k 1 (noticeView k 0 (s.withFree (s.free + 1))) := by
  unfold noticeViews chooseOrder
  rw [h, if_neg (by simp)]
  split_ifs <;> rfl

end

/-- Settles O44: the return of beats by the cases of R138 and R140, then the notice of a header judgement view by view. -/
theorem ownReadsReturnAndPinsAreLost : Obligations.OwnReadsReturnAndPinsAreLost := by
  unfold Obligations.OwnReadsReturnAndPinsAreLost
  intro s tag index v k beats x put serves bad failed
  have hfailed : ∀ r, fetchFailed r = true ↔ failed r := fetchFailed_iff
  refine ⟨⟨viewFetchReturn tag index beats s, rfl, viewFetchReturn_unserved beats, ?_⟩,
    fun hv => ⟨noticeView_other, fun p hp hk => ?_⟩, fun p h2 hp hk hothers hv => ?_,
    fun p q h2 hp hpk hq hqk => ?_, fun h => noticeViews_none (viewsPinning_none h)⟩
  · intro before r behind hv hfirst hl htag hothers sent q whole n first reads answered leave
    obtain rfl : tag = r.tag := htag.symm
    have hserved := viewFetchReturn_served (index := index) beats hv hfirst hl
      (fun y hy => hothers y (List.mem_append_left _ hy))
    have hsent : ownReadSent s r index = true ↔ sent := ownReadSent_iff
    have hwhole : allReturned q = true ↔ whole := allReturned_iff q
    have hreads : stillServed before q behind = reads := by
      unfold stillServed
      simp only [hwhole]
      rfl
    have hdone : ∀ z, answerIfWhole q z = leave z := by
      intro z
      unfold answerIfWhole
      simp only [hwhole]
      rfl
    have hcond : fetchFailed r = false ∧ fetchFailed q = true ↔ first :=
      and_congr (Bool.eq_false_iff.trans (not_congr (hfailed r))) (hfailed q)
    have hreturn : sent → ∀ t y, (if fetchFailed r = false ∧ fetchFailed q = true then fetchFault v r s else s) = t →
        viewAt t v = y → y.reads = before ++ r :: behind →
        viewFetchReturn r.tag index beats s = answerIfWhole q (setView v { y with reads := reads } t) := by
      rintro hs t y ht rfl hy
      rw [hserved, if_pos (hsent.2 hs), returnBeats_eq ht hy hothers]
      simp only [← hreads]
      rfl
    refine ⟨fun hs => ?_, fun hs hf => ?_, fun hs hf hagain => ?_, fun hs hf hfirst => ?_⟩
    · rw [hserved, if_neg (mt hsent.1 hs)]
    · rw [hreturn hs s x (if_neg (mt hcond.1 hf)) rfl hl, hdone]
      rfl
    · have hfault := fetchFault_again hagain
      rw [hreturn hs (fetchFault v r s) { x with fetchFaults := n } (if_pos (hcond.2 hf))
        (by rw [hfault, viewAt_setView_same _ hv]) hl, hdone, hfault, setView_setView]
      rfl
    · have hfault := fetchFault_first hfirst
      rw [hreturn hs (fetchFault v r s) { x with fetchFaults := n, lastFetchFault := some r.frameCount }
        (if_pos (hcond.2 hf)) (by rw [hfault, viewAt_createReport, viewAt_setView_same _ hv]) hl, hfault, ← hdone]
      exact (told_report_between_setViews s v _ _ _).answerIfWhole q
  · intro lost
    rw [noticeView_pinned hp hk, loseRead_eq]
    exact told_one _ rfl rfl rfl rfl
  · exact noticeViews_one (viewsPinning_one h2 hv ⟨p, hp, hk⟩ hothers)
  · exact noticeViews_both (viewsPinning_both h2 ⟨p, hp, hpk⟩ ⟨q, hq, hqk⟩)

end Sys2Proof.Machine
end

section
/-! PROOFS. CAMERA_SET and PAIR_SET: the tests of R85 and of R96, and what they leave. -/

namespace Sys2Proof.Machine

/-- The answer of a command carried out names the first payload field that was clamped (R20). -/
theorem carriedOut_cons (n a b d : Nat) (fields : List (Nat × Bool)) :
    carriedOut ((n, a != b) :: fields) d = if a ≠ b then .clamped n d else carriedOut fields d := by
  unfold carriedOut
  by_cases h : a = b <;> simp [h]

theorem flagOf_toNat {n : Nat} (x : BitVec n) : flagOf x.toNat = decide (x ≠ 0) := by
  unfold flagOf
  rw [Bool.eq_iff_iff, bne_iff_ne, decide_eq_true_eq, ne_eq, ne_eq, ← BitVec.toNat_inj]
  rfl

theorem pairAt_of_getElem? {s : State} {k : Nat} {q : StereoPair} (h : s.ctu.pairs[k]? = some q) : pairAt s k = q := by
  unfold pairAt
  rw [List.getD_eq_getElem?_getD, h, Option.getD_some]

/-! ### The set pair of a camera (R96) -/

section
variable {s : State} {c k : Nat}

theorem pairOfCamera_some (h : pairOfCamera s c = some k) :
    ∃ q, s.ctu.pairs[k]? = some q ∧ q.isSet = true ∧ (q.left = c ∨ q.right = c) := by
  obtain ⟨hk, hset, -⟩ := List.findIdx?_eq_some_iff_getElem.1 h
  exact ⟨s.ctu.pairs[k], List.getElem?_eq_getElem hk, by simpa using hset⟩

/-- A camera in one set pair only belongs to that pair. -/
theorem pairOfCamera_only {q : StereoPair} (hq : s.ctu.pairs[k]? = some q) (hset : q.isSet = true)
    (hc : q.left = c ∨ q.right = c)
    (honly : ∀ j r, s.ctu.pairs[j]? = some r → r.isSet = true → r.left = c ∨ r.right = c → j = k) :
    pairOfCamera s c = some k := by
  cases h : pairOfCamera s c with
  | none =>
    have hout := List.findIdx?_eq_none_iff.1 h q (List.mem_of_getElem? hq)
    simp only [hset, Bool.true_and, Bool.or_eq_false_iff, beq_eq_false_iff_ne] at hout
    exact absurd hc (not_or.2 hout)
  | some j =>
    obtain ⟨r, hr, hrset, hrc⟩ := pairOfCamera_some h
    rw [honly j r hr hrset hrc]

/-- Whether a camera belongs to a set pair other than pair k (R96). -/
theorem inOtherPair_iff : inOtherPair s k c = true ↔
    ∃ j q, j ≠ k ∧ s.ctu.pairs[j]? = some q ∧ q.isSet = true ∧ (q.left = c ∨ q.right = c) := by
  unfold inOtherPair
  rw [List.any_eq_true]
  constructor
  · rintro ⟨j, hj, h⟩
    have hq := List.getElem?_eq_getElem (List.mem_range.1 hj)
    rw [pairAt_of_getElem? hq] at h
    simp only [Bool.and_eq_true, Bool.or_eq_true, bne_iff_ne, beq_iff_eq, and_assoc] at h
    obtain ⟨hne, hset, hc⟩ := h
    exact ⟨j, _, hne, hq, hset, hc⟩
  · rintro ⟨j, q, hne, hq, hset, hc⟩
    refine ⟨j, List.mem_range.2 (List.getElem?_eq_some_iff.1 hq).1, ?_⟩
    simp [pairAt_of_getElem? hq, hne, hset, hc]

/-! ### CAMERA_SET (R85) -/

/-- The camera at an index is configured with a timecode base. -/
def HasBase (s : State) (b k : Nat) : Prop :=
  (cameraAt s k).configured = true ∧ (cameraAt s k).base = b

/-- The pair test of R85, for a camera of pair k: it asks about the other camera of the pair. -/
theorem pairBaseAgrees_of_pair {b : Nat} {q : StereoPair} (h : pairOfCamera s c = some k)
    (hq : s.ctu.pairs[k]? = some q) :
    pairBaseAgrees s c b = true ↔ HasBase s b (if q.left = c then q.right else q.left) := by
  unfold pairBaseAgrees HasBase
  rw [h]
  simp only [pairAt_of_getElem? hq, Bool.and_eq_true, beq_iff_eq]

theorem pairBaseAgrees_of_all {b : Nat} (h : ∀ q ∈ s.ctu.pairs, q.isSet = true →
    (q.left = c → HasBase s b q.right) ∧ (q.right = c → HasBase s b q.left)) : pairBaseAgrees s c b = true := by
  cases hk : pairOfCamera s c with
  | none =>
    unfold pairBaseAgrees
    rw [hk]
  | some k =>
    obtain ⟨q, hq, hset, hc⟩ := pairOfCamera_some hk
    obtain ⟨hleft, hright⟩ := h q (List.mem_of_getElem? hq) hset
    rw [pairBaseAgrees_of_pair hk hq]
    split_ifs with hl
    · exact hleft hl
    · exact hright (hc.resolve_left hl)

variable {clipLevel hotLevel b exposureHigh hysteresis persistence : Nat} {frameReports : Bool}

theorem cameraSetAct_badArgument (h : 15 < c ∨ b ∉ timecodeBases) :
    cameraSetAct c clipLevel hotLevel b exposureHigh hysteresis persistence frameReports s = refuse .badArgument s := by
  refine if_pos ?_
  rintro ⟨hc, hb⟩
  rcases h with h | h
  · omega
  · exact h (List.contains_iff_mem.1 hb)

theorem cameraSetAct_partner (h : ¬pairBaseAgrees s c b = true) :
    cameraSetAct c clipLevel hotLevel b exposureHigh hysteresis persistence frameReports s = refuse .badArgument s := by
  unfold cameraSetAct
  rw [if_pos (Bool.eq_false_iff.2 h), ite_self]

/-- The configuration written, field by field; the running fields are cleared (R85). -/
theorem cameraSetAct_configures (hc : c ≤ 15) (hb : b ∈ timecodeBases) (h : pairBaseAgrees s c b = true) :
    let e := max 1 (min 1023 exposureHigh)
    let y := min e hysteresis
    let p := max 2 (min 15 persistence)
    let seen := (cameraAt s c).framesSeen
    cameraSetAct c clipLevel hotLevel b exposureHigh hysteresis persistence frameReports s =
      (setCamera c
        { configured := true, clipLevel := clipLevel, hotLevel := hotLevel, base := b, exposureHigh := e, hysteresis := y,
          persistence := p, frameReports := frameReports, firstFrame := true, lastNumber := none, lastCount := none,
          lastSignature := none, warning := false, framesSeen := 0, framesDropped := 0 } s,
        if e ≠ exposureHigh then .clamped 5 seen else if y ≠ hysteresis then .clamped 6 seen
          else if p ≠ persistence then .clamped 7 seen else .done seen) := by
  intro e y p seen
  have hy : clamp 0 e hysteresis = y := Nat.zero_max _
  unfold cameraSetAct
  rw [if_neg (not_not.2 ⟨hc, List.contains_iff_mem.2 hb⟩), if_neg (by simp [h])]
  simp only [carriedOut_cons]
  rw [← hy]
  rfl

end

/-- Settles O28: the tests of R85 in order, and then the configuration written. -/
theorem cameraSetConfigures : Obligations.CameraSetConfigures := by
  unfold Obligations.CameraSetConfigures
  intro s camera clipLevel hotLevel base exposureHigh hysteresis persistence frameReports c b x agrees e h p
  refine ⟨takeCameraSet camera clipLevel hotLevel base exposureHigh hysteresis persistence frameReports s, rfl,
    fun hargs => ?_, fun k q hq hset hdiffers honly => ?_, fun hc hb hagrees => ?_⟩
  · exact answered_refused (cameraSetAct_badArgument hargs)
  · have hmember : q.left = c ∨ q.right = c := hdiffers.imp And.left fun ⟨_, hr, _⟩ => hr
    have hpair : pairOfCamera (advanceSequence s) c = some k := pairOfCamera_only hq hset hmember honly
    refine answered_refused (cameraSetAct_partner (mt (pairBaseAgrees_of_pair hpair hq).1 ?_))
    rcases hdiffers with ⟨hl, hr⟩ | ⟨hl, -, hr⟩
    · rwa [if_pos hl]
    · rwa [if_neg hl]
  · have hpair : pairBaseAgrees (advanceSequence s) c b = true := pairBaseAgrees_of_all hagrees
    have hreports : flagOf frameReports.toNat = decide (frameReports ≠ 0) := flagOf_toNat frameReports
    rw [← hreports]
    exact answered_by (cameraSetAct_configures hc hb hpair) rfl rfl rfl rfl

/-! ### PAIR_SET (R96) -/

section
variable {s : State} {k l r tolerance : Nat}

theorem pairSetAct_badArgument (h : 7 < k ∨ ¬(l ≤ 15 ∧ r ≤ 15 ∨ l = 16 ∧ r = 16)) :
    pairSetAct k l r tolerance s = refuse .badArgument s := by
  refine if_pos ?_
  rintro ⟨hk, hcameras⟩
  rcases h with h | h
  · omega
  · exact h hcameras

variable (hk : k ≤ 7)
include hk

theorem pairSetAct_clears (hl : l = 16) (hr : r = 16) : pairSetAct k l r tolerance s =
    (setPair k { pairAt s k with isSet := false, left := 16, right := 16, queue := [] } s,
      .done (pairAt s k).queue.length) := by
  unfold pairSetAct
  rw [if_neg (not_not.2 ⟨hk, .inr ⟨hl, hr⟩⟩), if_pos hl]

variable (hl : l ≤ 15) (hr : r ≤ 15)
include hl hr

theorem pairSetAct_of_cameras : pairSetAct k l r tolerance s =
    if l = r ∨ inOtherPair s k l = true ∨ inOtherPair s k r = true then refuse .badArgument s
    else if ¬((cameraAt s l).configured = true ∧ (cameraAt s r).configured = true) then refuse .notConfigured s
    else if (cameraAt s l).base ≠ (cameraAt s r).base then refuse .badArgument s
    else
      (setPair k { isSet := true, left := l, right := r, tolerance := clamp 0 65535 tolerance, queue := [] } s,
        carriedOut [(4, clamp 0 65535 tolerance != tolerance)] (pairAt s k).queue.length) := by
  unfold pairSetAct
  rw [if_neg (not_not.2 ⟨hk, .inl ⟨hl, hr⟩⟩), if_neg (show l ≠ 16 by omega)]

theorem pairSetAct_taken (h : l = r ∨ inOtherPair s k l = true ∨ inOtherPair s k r = true) :
    pairSetAct k l r tolerance s = refuse .badArgument s :=
  (pairSetAct_of_cameras hk hl hr).trans (if_pos h)

variable (hfree : ¬(l = r ∨ inOtherPair s k l = true ∨ inOtherPair s k r = true))
include hfree

theorem pairSetAct_notConfigured (h : ¬((cameraAt s l).configured = true ∧ (cameraAt s r).configured = true)) :
    pairSetAct k l r tolerance s = refuse .notConfigured s := by
  rw [pairSetAct_of_cameras hk hl hr, if_neg hfree, if_pos h]

variable (hboth : (cameraAt s l).configured = true ∧ (cameraAt s r).configured = true)
include hboth

theorem pairSetAct_bases (h : (cameraAt s l).base ≠ (cameraAt s r).base) :
    pairSetAct k l r tolerance s = refuse .badArgument s := by
  rw [pairSetAct_of_cameras hk hl hr, if_neg hfree, if_neg (not_not.2 hboth), if_pos h]

theorem pairSetAct_sets (h : (cameraAt s l).base = (cameraAt s r).base) : pairSetAct k l r tolerance s =
    (setPair k { isSet := true, left := l, right := r, tolerance := min 65535 tolerance, queue := [] } s,
      if 65535 < tolerance then .clamped 4 (pairAt s k).queue.length else .done (pairAt s k).queue.length) := by
  have hclamp : clamp 0 65535 tolerance = min 65535 tolerance := Nat.zero_max _
  have hkept : min 65535 tolerance ≠ tolerance ↔ 65535 < tolerance := by omega
  rw [pairSetAct_of_cameras hk hl hr, if_neg hfree, if_neg (not_not.2 hboth), if_neg (not_not.2 h), hclamp,
    carriedOut_cons]
  simp only [hkept]
  rfl

end

/-- Settles O29: the tests of R96 in order, the pair cleared, and the pair set. -/
theorem pairSetSetsOrClears : Obligations.PairSetSetsOrClears := by
  unfold Obligations.PairSetSetsOrClears
  intro s pair left right tolerance k l r x n elsewhere clear cameras both sameBase
  have hin : ∀ c, inOtherPair (advanceSequence s) k c = true ↔ elsewhere c := fun c => inOtherPair_iff
  have hfree : l ≠ r → ¬elsewhere l → ¬elsewhere r →
      ¬(l = r ∨ inOtherPair (advanceSequence s) k l = true ∨ inOtherPair (advanceSequence s) k r = true) :=
    fun hne hel her => not_or.2 ⟨hne, not_or.2 ⟨mt (hin l).1 hel, mt (hin r).1 her⟩⟩
  refine ⟨takePairSet pair left right tolerance s, rfl, fun h => ?_, fun hk ⟨hl, hr⟩ => ?_, fun hk ⟨hl, hr⟩ h => ?_,
    fun hk ⟨hl, hr⟩ hne hel her hb => ?_, fun hk ⟨hl, hr⟩ hne hel her hb hbase => ?_,
    fun hk ⟨hl, hr⟩ hne hel her hb hbase => ?_⟩
  · exact answered_refused (pairSetAct_badArgument h)
  · exact answered_by (pairSetAct_clears hk hl hr) rfl rfl rfl rfl
  · rw [← hin, ← hin] at h
    exact answered_refused (pairSetAct_taken hk hl hr h)
  · exact answered_refused (pairSetAct_notConfigured hk hl hr (hfree hne hel her) hb)
  · exact answered_refused (pairSetAct_bases hk hl hr (hfree hne hel her) hb hbase)
  · exact answered_by (pairSetAct_sets hk hl hr (hfree hne hel her) hb hbase) rfl rfl rfl rfl

end Sys2Proof.Machine
end

section
/-! PROOFS. ZONES_SET and TRACKER_CLEAR: the test of a zone table, and what they leave (R86, R95). -/

namespace Sys2Proof.Machine

theorem boundsRise_iff (zones : List Zone) :
    boundsRise zones = true ↔ zones.Pairwise (fun a b => a.bound < b.bound) := by
  have htrans : IsTrans Zone (fun a b => a.bound < b.bound) := ⟨fun _ _ _ => Nat.lt_trans⟩
  rw [← List.isChain_iff_pairwise]
  induction zones with
  | nil => simp [boundsRise]
  | cons a rest ih =>
    cases rest with
    | nil => simp [boundsRise]
    | cons b rest =>
      rw [boundsRise, Bool.and_eq_true, decide_eq_true_eq, List.isChain_cons_cons]
      exact and_congr_right fun _ => ih

/-- The test of R86 on a zone table with a zone 0. -/
theorem zonesValid_cons (z : Zone) (rest : List Zone) : zonesValid (z :: rest) = true ↔
    z.bound = 0 ∧ (z :: rest).Pairwise (fun a b => a.bound < b.bound) ∧
      ∀ y ∈ z :: rest, y.colour.r ≤ 1023 ∧ y.colour.g ≤ 1023 ∧ y.colour.b ≤ 1023 := by
  unfold zonesValid
  simp only [Bool.and_eq_true, boundsRise_iff, List.all_eq_true, decide_eq_true_eq, List.head?_cons, Option.any_some,
    beq_iff_eq, and_assoc]

theorem zonesSetAct_replaces {zones : List Zone} {s : State} (h : zonesValid zones = true) :
    zonesSetAct zones s = (s.withCtu { s.ctu with zones := zones }, .done 0) :=
  if_pos h

theorem zonesSetAct_badArgument {zones : List Zone} {s : State} (h : ¬zonesValid zones = true) :
    zonesSetAct zones s = refuse .badArgument s :=
  if_neg h

/-- Settles O30: ZONES_SET by R86's test of its table, and TRACKER_CLEAR in every state. -/
theorem zonesSetAndTrackerClear : Obligations.ZonesSetAndTrackerClear := by
  unfold Obligations.ZonesSetAndTrackerClear
  intro s bounds colours zone zones valid
  have hzero : bounds.z0 = 0 ↔ bounds.z0.toNat = 0 := by
    rw [← BitVec.toNat_inj]
    rfl
  have hvalid : zonesValid (zonesOf bounds colours) = true ↔ valid :=
    (zonesValid_cons _ _).trans (and_congr_left' hzero.symm)
  refine ⟨⟨takeZonesSet bounds colours s, rfl, fun h => ?_, fun h => ?_⟩, takeTrackerClear s, rfl, ?_⟩
  · exact answered_by (zonesSetAct_replaces (hvalid.2 h)) rfl rfl rfl rfl
  · exact answered_refused (zonesSetAct_badArgument (mt hvalid.1 h))
  · exact answered_quiet rfl rfl rfl rfl rfl

end Sys2Proof.Machine
end

section
/-! PROOFS. A completed frame: its checks against the camera's last frame, and the order of its processing (R87 to R91). -/

namespace Sys2Proof.Machine

/-- The clip that a fault of a frame names: the one taken at the header, while it still holds the label (R80, R87). -/
theorem heldClip_eq (s : State) (clip : Option Nat) (label : Nat) : heldClip s clip label =
    clip.bind (fun i => if (clipAt s i).any (fun c => c.label == label) then some i else none) := by
  cases clip <;> rfl

theorem isContinuous_iff (n l : Nat) : isContinuous n l = true ↔ n = (l + 1) % 2 ^ 32 :=
  beq_iff_eq

/-! ### The frame-number check (R88) -/

section
variable {f : FrameSlot} {l : Nat} {s : State}

theorem checkNumber_continuous (h : isContinuous f.frame l = true) : checkNumber f l s = s := if_pos h

variable (h : ¬isContinuous f.frame l = true)
include h

theorem checkNumber_duplicate (hn : f.frame = l) : checkNumber f l s = raiseFrame .duplicateNumber f f.frame s :=
  (if_neg h).trans (if_pos hn)

theorem checkNumber_gap (hn : l < f.frame) : checkNumber f l s = raiseFrame .gap f (f.frame - l - 1) s := by
  unfold checkNumber
  rw [if_neg h, if_neg (by omega), if_pos hn]

theorem checkNumber_backstep (hn : f.frame < l) : checkNumber f l s = raiseFrame .backstep f (l - f.frame) s := by
  unfold checkNumber
  rw [if_neg h, if_neg (by omega), if_neg (by omega)]

end

/-! ### The exposure check (R91) -/

section
variable {f : FrameSlot} {q : Nat} {s : State}

theorem checkExposure_unwarned (hw : (cameraAt s f.camera).warning = false) : checkExposure f q s =
    if (cameraAt s f.camera).exposureHigh ≤ q then
      raiseFrame .exposureClip f q (setCamera f.camera { cameraAt s f.camera with warning := true } s)
    else s :=
  if_neg (by simp [hw])

/-- A warning ends once the clip fraction is below the threshold by more than the hysteresis. -/
theorem checkExposure_warned (hw : (cameraAt s f.camera).warning = true) : checkExposure f q s =
    if q < (cameraAt s f.camera).exposureHigh - (cameraAt s f.camera).hysteresis then
      setCamera f.camera { cameraAt s f.camera with warning := false } s
    else s :=
  if_pos hw

end

/-- Settles O31: each check by its cases, with the faults of the frame. -/
theorem frameEndChecks : Obligations.FrameEndChecks := by
  unfold Obligations.FrameEndChecks
  intro s f base l lastCount lastSignature q clip raise n tc hh mm ss ff t e follows cam
  have hraise : ∀ kind detail, raiseFrame kind f detail s = raise kind detail s := by
    intro kind detail
    unfold raiseFrame frameFinding
    rw [heldClip_eq]
  have hwarned : raiseFrame .exposureClip f q (setCamera f.camera { cam with warning := true } s) =
      raise .exposureClip q (setCamera f.camera { cam with warning := true } s) := by
    unfold raiseFrame frameFinding
    rw [heldClip_eq]
    rfl
  have hfollows : isContinuous f.frame l = true ↔ follows := isContinuous_iff n l
  refine ⟨rfl, ?_, fun h => checkNumber_continuous (hfollows.2 h), fun h hn => ?_, fun h hn => ?_, fun h hn => ?_, ?_, ?_,
    fun hw hq => ?_, fun hw hq => ?_, fun hw hq => ?_, fun hw hq => ?_⟩
  · rw [← hraise]
    exact if_congr eq_comm rfl rfl
  · rw [← hraise]
    exact checkNumber_duplicate (mt hfollows.1 h) hn
  · rw [← hraise]
    exact checkNumber_gap (mt hfollows.1 h) hn
  · rw [← hraise]
    exact checkNumber_backstep (mt hfollows.1 h) hn
  · rw [← hraise]
    exact if_congr (and_congr_left' hfollows) rfl rfl
  · rw [← hraise]
    rfl
  · rw [← hwarned, checkExposure_unwarned hw, if_pos hq]
  · rw [checkExposure_unwarned hw, if_neg (Nat.not_le.2 hq)]
  · rw [checkExposure_warned hw, if_pos hq]
  · rw [checkExposure_warned hw, if_neg (Nat.not_lt.2 hq)]

/-! ### The order of the processing (R87) -/

section
variable {f : FrameSlot} {cam : Camera} {s : State}

theorem checkHistory_first (h : cam.firstFrame = true) : checkHistory f cam s = s := if_pos h

theorem checkHistory_later (h : cam.firstFrame = false) : checkHistory f cam s =
    checkFrozen f (cam.lastNumber.getD 0) (cam.lastSignature.getD 0)
      (checkTimecode f cam.base (cam.lastNumber.getD 0) (cam.lastCount.getD 0)
        (checkNumber f (cam.lastNumber.getD 0) s)) :=
  if_neg (by simp [h])

theorem stereoStep_first (mean : Nat) (h : cam.firstFrame = true) : stereoStep f cam mean s = s := if_pos h

end

/-- Settles O32: the steps of R87 in order, for a first frame and for a later one. -/
theorem framesAreTrackedInOrder : Obligations.FramesAreTrackedInOrder := by
  unfold Obligations.FramesAreTrackedInOrder
  intro s f q mean cam s1 s2 rest remember
  have hsteps : trackFrame f q mean s = remember (stereoStep f cam mean (rest (checkHistory f cam s1))) := rfl
  refine ⟨fun h => ?_, fun h => ?_⟩
  · rw [hsteps, checkHistory_first h, stereoStep_first mean h]
  · rw [hsteps, checkHistory_later h]

end Sys2Proof.Machine
end

section
/-! PROOFS. The pixel tracker: its two passes over a frame's candidates, and STUCK_PIXEL (R93, R94). -/

namespace Sys2Proof.Machine

theorem entryAt_iff {c : Nat} {p : Nat × Nat} {e : TrackerEntry} :
    entryAt c p e = true ↔ e.camera = c ∧ (e.x, e.y) = p := by
  unfold entryAt
  rw [Bool.and_eq_true, Bool.and_eq_true, beq_iff_eq, beq_iff_eq, beq_iff_eq, and_assoc, Prod.ext_iff]

/-! ### The first pass: one candidate (R93) -/

section
variable {c : Nat} {p : Nat × Nat} {l : List TrackerEntry} {full : Bool}

theorem trackCandidate_matches (h : ∃ e ∈ l, entryAt c p e = true) : trackCandidate c (l, full) p =
    (l.map (fun e => if entryAt c p e = true then { e with hits := min 255 (e.hits + 1), misses := 0 } else e), full) :=
  if_pos (List.any_eq_true.2 h)

variable (h : ¬∃ e ∈ l, entryAt c p e = true)
include h

theorem trackCandidate_adds (hl : l.length < 32) : trackCandidate c (l, full) p =
    (l ++ [{ camera := c, x := p.1, y := p.2, hits := 1, misses := 0, reported := false }], full) :=
  (if_neg (mt List.any_eq_true.1 h)).trans (if_pos hl)

theorem trackCandidate_drops (hl : 32 ≤ l.length) : trackCandidate c (l, full) p = (l, true) :=
  (if_neg (mt List.any_eq_true.1 h)).trans (if_neg (Nat.not_lt.2 hl))

end

/-! ### The second pass: one entry (R93) -/

section
variable {c : Nat} {candidates : List (Nat × Nat)} {e : TrackerEntry}

theorem missEntry_kept (h : e.camera ≠ c ∨ (e.x, e.y) ∈ candidates) : missEntry c candidates e = some e := by
  refine if_neg ?_
  rintro ⟨hc, hlisted⟩
  rw [← Bool.not_eq_true, List.contains_iff_mem] at hlisted
  exact h.elim (fun hne => hne hc) hlisted

theorem missEntry_misses (hc : e.camera = c) (h : (e.x, e.y) ∉ candidates) : missEntry c candidates e =
    if e.misses < 2 then some { e with misses := e.misses + 1 } else none := by
  have hlisted : candidates.contains (e.x, e.y) = false := by
    rwa [← Bool.not_eq_true, List.contains_iff_mem]
  refine (if_pos ⟨hc, hlisted⟩).trans (if_congr ?_ rfl rfl)
  omega

end

/-! ### STUCK_PIXEL (R94) -/

section
variable {f : FrameSlot} {p : Nat × Nat} {s : State}

theorem checkStuck_untracked (h : ∀ e ∈ s.ctu.tracker, ¬entryAt f.camera p e = true) : checkStuck f p s = s := by
  unfold checkStuck
  rw [List.find?_eq_none.2 h]

/-- No two entries of one camera and position: the search finds the one there is (R92). -/
theorem find?_entryAt {c : Nat} {l : List TrackerEntry} {e : TrackerEntry}
    (hdistinct : l.Pairwise (fun a b => ¬(a.camera = b.camera ∧ a.x = b.x ∧ a.y = b.y))) (he : e ∈ l)
    (hat : entryAt c p e = true) : l.find? (entryAt c p) = some e := by
  obtain ⟨g, hg⟩ := Option.isSome_iff_exists.1 (List.find?_isSome.2 ⟨e, he, hat⟩)
  obtain ⟨hcg, hpg⟩ := entryAt_iff.1 (List.find?_some hg)
  obtain ⟨hce, hpe⟩ := entryAt_iff.1 hat
  obtain ⟨hx, hy⟩ := Prod.ext_iff.1 (hpg.trans hpe.symm)
  have hsymm : Std.Symm fun a b : TrackerEntry => ¬(a.camera = b.camera ∧ a.x = b.x ∧ a.y = b.y) :=
    ⟨fun _ _ hab ⟨hc, hx, hy⟩ => hab ⟨hc.symm, hx.symm, hy.symm⟩⟩
  rw [hg]
  by_contra hne
  exact hdistinct.forall (List.mem_of_find?_eq_some hg) he (fun h => hne (congrArg some h))
    ⟨hcg.trans hce.symm, hx, hy⟩

theorem checkStuck_tracked {e : TrackerEntry} (h : s.ctu.tracker.find? (entryAt f.camera p) = some e) :
    checkStuck f p s =
      if (cameraAt s f.camera).persistence ≤ e.hits ∧ e.reported = false then
        raiseFault true (frameFinding s .stuckPixel f (some p) e.hits)
          (s.withCtu { s.ctu with tracker := s.ctu.tracker.map (fun x =>
            if entryAt f.camera p x = true then { x with reported := true } else x) })
      else s := by
  unfold checkStuck
  rw [h]

end

/-- Settles O33: the first pass by candidate, the second by entry, and STUCK_PIXEL by the entry at the position. -/
theorem trackerFollowsCandidates : Obligations.TrackerFollowsCandidates := by
  unfold Obligations.TrackerFollowsCandidates
  intro s f p l full e c mine listed first kept u cam
  have hmine : ∀ x, entryAt c p x = true ↔ mine x := fun x => entryAt_iff
  have hnone : (∀ x ∈ l, ¬mine x) → ¬∃ x ∈ l, entryAt c p x = true :=
    fun h ⟨x, hx, hat⟩ => h x hx ((hmine x).1 hat)
  refine ⟨fun ⟨x, hx, hm⟩ => ?_, fun h => trackCandidate_adds (hnone h), fun h => trackCandidate_drops (hnone h),
    missEntry_kept, missEntry_misses, rfl, rfl, fun h => ?_, fun hdistinct he hm => ?_⟩
  · rw [trackCandidate_matches ⟨x, hx, (hmine x).2 hm⟩]
    simp only [hmine]
  · exact checkStuck_untracked fun x hx hat => h x hx ((hmine x).1 hat)
  · rw [checkStuck_tracked (find?_entryAt hdistinct he ((hmine e).2 hm))]
    simp only [← hmine]
    rfl

end Sys2Proof.Machine
end

section
/-! PROOFS. Stereo pairing: frames held, unpaired and paired (R97, R98). -/

namespace Sys2Proof.Machine

/-! ### A frame held (R97) -/

section
variable {k : Nat} {p : StereoPair} {h : HeldRecord} {s : State}

theorem holdFrame_room (hp : p.queue.length < 8) : holdFrame k p h s = setQueue k (p.queue ++ [h]) s := by
  unfold holdFrame
  cases hq : p.queue with
  | nil => rfl
  | cons x q =>
    dsimp only
    rw [← hq, if_neg (Nat.not_le.2 hp)]

theorem holdFrame_full {x : HeldRecord} {q : List HeldRecord} (hq : p.queue = x :: q) (hp : 8 ≤ p.queue.length) :
    holdFrame k p h s = setQueue k (q ++ [h]) (raiseUnpaired k p x (setQueue k q s)) := by
  unfold holdFrame
  rw [hq] at hp ⊢
  exact if_pos hp

end

/-! ### The records earlier than a frame (R97, R98) -/

theorem isEarlier_iff (day t : Nat) (x : HeldRecord) : isEarlier day t x = true ↔
    1 ≤ modularDifference day t x.count ∧ modularDifference day t x.count ≤ day / 2 :=
  decide_eq_true_iff

/-- The state once the records before the rest have gone unpaired (R98 step 1). -/
def passEarlier (k : Nat) (p : StereoPair) (before behind : List HeldRecord) (s : State) : State :=
  before.foldl (fun x r => raiseUnpaired k p r x) (setQueue k behind s)

section
variable {k day : Nat} {p : StereoPair} {f : FrameSlot} {h : HeldRecord} {before behind : List HeldRecord} {s : State}
  (hq : p.queue = before ++ behind) (hbefore : ∀ x ∈ before, isEarlier day h.count x = true)
include hq hbefore

/-- Every record of the queue is earlier: the frame is held in the queue now empty. -/
theorem pairFrame_all_earlier (hbehind : behind = []) :
    pairFrame k p f h day s = setQueue k [h] (passEarlier k p before behind s) := by
  unfold pairFrame
  rw [hq, hbehind, List.takeWhile_append_of_pos hbefore, List.dropWhile_append_of_pos hbefore, List.takeWhile_nil,
    List.dropWhile_nil, List.append_nil]
  rfl

/-- A record that is not earlier stays at the front: it pairs with the frame, or the frame goes unpaired. -/
theorem pairFrame_front {x : HeldRecord} {q : List HeldRecord} (hbehind : behind = x :: q)
    (hx : ¬isEarlier day h.count x = true) : pairFrame k p f h day s =
      if modularDifference day h.count x.count = 0 then
        checkExposurePair f p x h.mean (setQueue k q (passEarlier k p before behind s))
      else raiseUnpaired k p h (passEarlier k p before behind s) := by
  unfold pairFrame
  rw [hq, hbehind, List.takeWhile_append_of_pos hbefore, List.dropWhile_append_of_pos hbefore,
    List.takeWhile_cons_of_neg hx, List.dropWhile_cons_of_neg hx, List.append_nil]
  rfl

end

/-! ### The pairing of a frame of a set pair (R97) -/

/-- The held record of a frame that comes to pair k. -/
def incoming (s : State) (f : FrameSlot) (cam : Camera) (mean k : Nat) : HeldRecord :=
  heldRecord f ((pairAt s k).left != f.camera) (timecodeCount cam.base f.timecode) mean

section
variable {f : FrameSlot} {cam : Camera} {mean k : Nat} {s : State}
  (hfirst : cam.firstFrame = false) (hk : pairOfCamera s f.camera = some k)
include hfirst hk

theorem stereoStep_holds (hown : ∀ x ∈ (pairAt s k).queue, x.right = (incoming s f cam mean k).right) :
    stereoStep f cam mean s = holdFrame k (pairAt s k) (incoming s f cam mean k) s := by
  unfold stereoStep
  rw [if_neg (by simp [hfirst]), hk]
  dsimp only
  cases hq : (pairAt s k).queue with
  | nil => rfl
  | cons x q => exact if_pos (hown x (by simp [hq]))

theorem stereoStep_pairs (hne : (pairAt s k).queue ≠ [])
    (hother : ∀ x ∈ (pairAt s k).queue, x.right ≠ (incoming s f cam mean k).right) :
    stereoStep f cam mean s = pairFrame k (pairAt s k) f (incoming s f cam mean k) (dayLength cam.base) s := by
  unfold stereoStep
  rw [if_neg (by simp [hfirst]), hk]
  dsimp only
  cases hq : (pairAt s k).queue with
  | nil => exact absurd hq hne
  | cons x q => exact if_neg (hother x (by simp [hq]))

end

/-- The two means that STEREO_EXPOSURE compares, by the eye of the frame that finds its partner (R98 step 2). -/
theorem checkExposurePair_eq {x : HeldRecord} {right : Bool} (hx : x.right ≠ right) (f : FrameSlot) (p : StereoPair)
    (mean : Nat) (s : State) :
    let left := if right then x.mean else mean
    let rightMean := if right then mean else x.mean
    checkExposurePair f p x mean s =
      if p.tolerance < max left rightMean - min left rightMean then
        raiseFrame .stereoExposure f (65536 * left + rightMean) s
      else s := by
  have hother : x.right = !right := Bool.eq_not_of_ne hx
  unfold checkExposurePair
  rw [hother]
  cases right <;> rfl

/-- Settles O34: the frame held while its own eye waits, and else paired after the records earlier than it. -/
theorem stereoFramesPair : Obligations.StereoFramesPair := by
  unfold Obligations.StereoFramesPair
  intro s f cam mean k before behind p day right t h ahead earlier queue unpaired passed left rightMean step hfirst hk
  have hincoming : incoming s f cam mean k = h := by
    have hright : (p.left != f.camera) = right := Bool.eq_iff_iff.2 (bne_iff_ne.trans decide_eq_true_iff.symm)
    unfold incoming
    rw [hright]
    rfl
  have hholds : (∀ x ∈ p.queue, x.right = right) → step = holdFrame k p h s := by
    intro hown
    rw [← hincoming]
    exact stereoStep_holds hfirst hk (by rwa [hincoming])
  have hpairs : p.queue ≠ [] → (∀ x ∈ p.queue, x.right ≠ right) → step = pairFrame k p f h day s := by
    intro hne hother
    rw [← hincoming]
    exact stereoStep_pairs hfirst hk hne (by rwa [hincoming])
  have hearlier : ∀ x, isEarlier day h.count x = true ↔ earlier x := isEarlier_iff day t
  have hpassed : passEarlier k p before behind s = passed := rfl
  refine ⟨fun hown hroom => (hholds hown).trans (holdFrame_room hroom),
    fun x q hq hown hfull => (hholds hown).trans (holdFrame_full hq hfull), fun hq hne hother hbefore => ?_⟩
  have hpass : ∀ x ∈ before, isEarlier day h.count x = true := fun x hx => (hearlier x).2 (hbefore x hx)
  refine ⟨fun hbehind => ?_, fun x q hbehind hx => ?_, fun x q hbehind hx hahead => ?_⟩
  · rw [hpairs hne hother, pairFrame_all_earlier hq hpass hbehind, hpassed]
    rfl
  · have hlate : ¬earlier x := fun ⟨hpos, _⟩ => by omega
    have hmember : x ∈ p.queue := by simp [hq, hbehind]
    rw [hpairs hne hother, pairFrame_front hq hpass hbehind (mt (hearlier x).1 hlate), hpassed]
    exact (if_pos hx).trans (checkExposurePair_eq (hother x hmember) f p mean _)
  · rw [hpairs hne hother, pairFrame_front hq hpass hbehind (mt (hearlier x).1 hx), hpassed]
    exact if_neg hahead

end Sys2Proof.Machine
end

section
/-! PROOFS. A fault raised: its number, its count, its place in the list and its report (R101 to R104, R106). -/

namespace Sys2Proof.Machine

/-! ### Severities (Table 7-2) -/

theorem severityOf_critical_iff (k : FaultKind) :
    severityOf k = .critical ↔ k ∈ [.gap, .sourceUnverifiable, .cardPulled, .copyWriteFault] := by
  cases k <;> decide

theorem severityOf_note_iff (k : FaultKind) :
    severityOf k = .note ↔ k ∈ [.tcInvalid, .cameraUnknown, .orphanFrame] := by
  cases k <;> decide

theorem newCritical_iff (r : FaultRecord) :
    newCritical r = true ↔ r.acked = false ∧ severityOf r.kind = .critical := by
  simp [newCritical]

/-! ### The counts of the clip named (R52, R103 step 2) -/

/-- The clip in use that a finding names, with its index. -/
def namedClip (f : Finding) (s : State) : Option (Nat × Clip) :=
  f.clip.bind fun i => (clipAt s i).map fun c => (i, c)

/-- A clip's counts by the lists of kinds of Table 7-2. -/
theorem countedClip_eq (k : FaultKind) (c : Clip) : countedClip (severityOf k) c =
    if k ∈ [.gap, .sourceUnverifiable, .cardPulled, .copyWriteFault] then
      { c with critOpen := min 65535 (c.critOpen + 1) }
    else if k ∈ [.tcInvalid, .cameraUnknown, .orphanFrame] then c
    else { c with warnCount := min 65535 (c.warnCount + 1) } := by
  simp only [← severityOf_critical_iff, ← severityOf_note_iff]
  cases severityOf k <;> rfl

theorem countedClip_slot (v : Severity) (c : Clip) : (countedClip v c).slot = c.slot := by
  cases v <;> rfl

/-- Only a CRITICAL fault changes crit_open. -/
theorem countedClip_critOpen {v : Severity} (h : v ≠ .critical) (c : Clip) : (countedClip v c).critOpen = c.critOpen := by
  cases v with
  | note => rfl
  | warn => rfl
  | critical => exact absurd rfl h

section
variable {f : Finding} {s : State}

theorem namedClip_some {i : Nat} {c : Clip} : namedClip f s = some (i, c) ↔ f.clip = some i ∧ clipAt s i = some c := by
  unfold namedClip
  simp only [Option.bind_eq_some_iff, Option.map_eq_some_iff, Prod.mk.injEq]
  constructor
  · rintro ⟨j, hf, d, hd, rfl, rfl⟩
    exact ⟨hf, hd⟩
  · rintro ⟨hf, hc⟩
    exact ⟨i, hf, c, hc, rfl, rfl⟩

theorem countFault_unnamed (h : namedClip f s = none) : countFault f s = s := by
  unfold namedClip at h
  unfold countFault
  cases hf : f.clip with
  | none => rfl
  | some i => simp_all

theorem countFault_named {i : Nat} {c : Clip} (h : namedClip f s = some (i, c)) :
    countFault f s = setClip i (some (countedClip (severityOf f.kind) c)) s := by
  obtain ⟨hf, hc⟩ := namedClip_some.1 h
  unfold countFault
  simp only [hf, hc]

theorem clipCounts_unnamed (h : namedClip f s = none) : clipCounts f.clip s = none := by
  unfold namedClip at h
  unfold clipCounts
  cases hf : f.clip with
  | none => rfl
  | some i => simp_all

end

/-! ### Listing (R104) -/

section
variable {r : FaultRecord} {l : FaultList}

theorem listFault_room (h : l.records.length < 256) :
    listFault r l = ({ l with records := l.records ++ [r] }, true, none) := if_pos h

/-- The oldest record that is not both NEW and CRITICAL goes. -/
theorem listFault_evicts {i : Nat} {x : FaultRecord} (h : 256 ≤ l.records.length) (hx : l.records[i]? = some x)
    (hopen : newCritical x = false) (hbefore : ∀ j y, j < i → l.records[j]? = some y → newCritical y = true) :
    listFault r l = ({ l with records := l.records.eraseIdx i ++ [r] }, true, some x.id) := by
  obtain ⟨hi, hget⟩ := List.getElem?_eq_some_iff.1 hx
  have hfind : l.records.findIdx? (fun x => !newCritical x) = some i := by
    rw [List.findIdx?_eq_some_iff_getElem]
    refine ⟨hi, by simp [hget, hopen], fun j hj => ?_⟩
    simp [hbefore j _ hj (List.getElem?_eq_getElem (hj.trans hi))]
  unfold listFault
  rw [if_neg (Nat.not_lt.2 h), hfind]
  simp only [hx, Option.map_some]

theorem listFault_unlisted (h : 256 ≤ l.records.length) (hopen : ∀ x ∈ l.records, newCritical x = true) :
    listFault r l = ({ l with unlisted := satAdd 4294967295 l.unlisted 1 }, false, none) := by
  have hfind : l.records.findIdx? (fun x => !newCritical x) = none := by
    rw [List.findIdx?_eq_none_iff]
    exact fun x hx => by simp [hopen x hx]
  unfold listFault
  rw [if_neg (Nat.not_lt.2 h), hfind]

end

/-! ### Raising (R103) -/

/-- Giving the next id (R102) leaves what the counting of step 2 reads and writes. -/
theorem countFault_takeFaultId (f : Finding) (s : State) :
    countFault f (takeFaultId s) = (countFault f s).withFl { s.fl with nextId := nextFaultId s.fl.nextId } := by
  unfold countFault
  cases f.clip with
  | none => rfl
  | some i =>
    have hi : clipAt (takeFaultId s) i = clipAt s i := rfl
    simp only [hi]
    cases clipAt s i <;> rfl

/-- Counting a fault is no report. -/
theorem countFault_reports (f : Finding) (s : State) :
    (countFault f s).cir = s.cir ∧ (countFault f s).tu.background = s.tu.background := by
  cases h : namedClip f s with
  | none => rw [countFault_unnamed h]; exact ⟨rfl, rfl⟩
  | some x => rw [countFault_named h]; exact ⟨rfl, rfl⟩

theorem reportFault_ct (f : Finding) (s : State) : (reportFault f s).ct = (countFault f s).ct := by
  unfold reportFault
  rw [createReport_ct, countFault_takeFaultId]
  rfl

/-- Steps 1 to 4 of R103, by what R104 does with the record. -/
theorem told_reportFault {f : Finding} {s : State} {l : FaultList} {listed : Bool} {evicted : Option Nat}
    (h : listFault (faultRecord s.fl.nextId f) { s.fl with nextId := nextFaultId s.fl.nextId } = (l, listed, evicted)) :
    Told s (reportFault f s)
      [.fault (faultRecord s.fl.nextId f) listed evicted (clipCounts f.clip (countFault f s))]
      ((countFault f s).withFl l) := by
  have hreport : reportFault f s =
      createReport (.fault (faultRecord s.fl.nextId f) listed evicted (clipCounts f.clip (countFault f s)))
        ((countFault f s).withFl l) := by
    unfold reportFault storeFault
    rw [countFault_takeFaultId]
    simp only [State.withFl_fl, h]
    rfl
  obtain ⟨hcir, hbackground⟩ := countFault_reports f s
  rw [hreport]
  exact told_one _ hcir hbackground (by simp) rfl

section
variable {f : Finding} {s : State}

theorem critOpenOf_reportFault {i : Nat} {c : Clip} (h : namedClip f s = some (i, c)) :
    critOpenOf f.clip s = c.critOpen ∧
      critOpenOf f.clip (reportFault f s) = (countedClip (severityOf f.kind) c).critOpen := by
  obtain ⟨hf, hc⟩ := namedClip_some.1 h
  rw [hf, critOpen_eq, critOpen_eq, clipAt_reportFault hc hf, hc]
  exact ⟨rfl, rfl⟩

/-- A fault that names no clip in use, or is not CRITICAL, changes no crit_open: no lamp is computed (R103 step 5). -/
theorem raiseFault_quiet (h : namedClip f s = none ∨ severityOf f.kind ≠ .critical) (b : Bool) :
    raiseFault b f s = reportFault f s := by
  have hsame : critOpenOf f.clip s = critOpenOf f.clip (reportFault f s) := by
    cases hn : namedClip f s with
    | none =>
      have hct : (reportFault f s).ct = s.ct := by rw [reportFault_ct, countFault_unnamed hn]
      unfold critOpenOf clipCounts clipAt
      rw [hct]
    | some x =>
      obtain ⟨hbefore, hafter⟩ := critOpenOf_reportFault hn
      rw [hbefore, hafter, countedClip_critOpen (h.resolve_left (by simp [hn]))]
  unfold raiseFault
  cases hf : f.clip with
  | none => rfl
  | some i =>
    rw [hf] at hsame
    exact if_neg fun hlamp => hlamp.2 hsame

/-- A CRITICAL fault raises the crit_open of the clip it names: the lamp of the clip's slot follows (R103 step 5). -/
theorem raiseFault_lamp {i : Nat} {c : Clip} (h : namedClip f s = some (i, c)) (hcrit : severityOf f.kind = .critical)
    (hc : c.critOpen < 65535) : raiseFault true f s = computeLamp c.slot (reportFault f s) := by
  obtain ⟨hf, hi⟩ := namedClip_some.1 h
  obtain ⟨hbefore, hafter⟩ := critOpenOf_reportFault h
  have hchanged : critOpenOf f.clip s ≠ critOpenOf f.clip (reportFault f s) := by
    rw [hbefore, hafter, hcrit]
    simp only [countedClip, satAdd]
    omega
  have hlamp : computeClipLamp i (reportFault f s) = computeLamp c.slot (reportFault f s) := by
    rw [computeClipLamp_eq (clipAt_reportFault hi hf), countedClip_slot]
  unfold raiseFault
  rw [hf] at hchanged ⊢
  exact (if_pos ⟨rfl, hchanged⟩).trans hlamp

end

/-- Settles O35: the record listed, evicting or unlisted by R104, and the lamp by whether crit_open changed. -/
theorem faultsAreRaised : Obligations.FaultsAreRaised := by
  unfold Obligations.FaultsAreRaised
  intro s f r critical note open_ counted named u counts l list t
  have hopen : ∀ x, open_ x ↔ newCritical x = true := fun x =>
    ((newCritical_iff x).trans (and_congr_right fun _ => severityOf_critical_iff x.kind)).symm
  have hcounted : ∀ c, countedClip (severityOf f.kind) c = counted c := countedClip_eq f.kind
  have hcount : countFault f s = u ∧ clipCounts f.clip (countFault f s) = counts := by
    cases h : namedClip f s with
    | none =>
      have hnamed : named = none := h
      simp only [u, counts, hnamed, countFault_unnamed h, clipCounts_unnamed h]
      exact ⟨rfl, rfl⟩
    | some x =>
      have hnamed : named = some x := h
      obtain ⟨hf, hc⟩ := namedClip_some.1 h
      simp only [u, counts, hnamed, countFault_named h, hcounted, Option.map_some, Option.getD_some, true_and]
      unfold clipCounts
      simp only [hf, clipAt_setClip_same hc, Option.map_some]
  obtain ⟨hu, hcounts⟩ := hcount
  have htold : ∀ {k : FaultList} {listed : Bool} {evicted : Option Nat},
      listFault r { s.fl with nextId := nextFaultId s.fl.nextId } = (k, listed, evicted) →
        Told s t [.fault r listed evicted counts] (u.withFl k) := fun h => by
    rw [← hcounts, ← hu]
    exact told_reportFault h
  refine ⟨fun hroom => htold (listFault_room hroom), fun i x hfull hx hgoes hbefore => ?_, fun hfull hall => ?_,
    raiseFault_within f s, fun h => ?_, fun i c h hcrit => ?_⟩
  · exact htold (listFault_evicts hfull hx (Bool.eq_false_iff.2 (mt (hopen x).2 hgoes))
      fun j y hj hy => (hopen y).1 (hbefore j y hj hy))
  · exact htold (listFault_unlisted hfull fun x hx => (hopen x).1 (hall x hx))
  · exact raiseFault_quiet (h.imp_right (mt (severityOf_critical_iff f.kind).1)) true
  · exact raiseFault_lamp h ((severityOf_critical_iff f.kind).2 hcrit)

end Sys2Proof.Machine
end

section
/-! PROOFS. Faults acknowledged by id, by clip and by frame, and the searches of the fault list (R107, R109). -/

namespace Sys2Proof.Machine

/-! ### Acknowledgement by id and by clip (R107) -/

theorem acknowledgedClip_counted {r : FaultRecord} (hnew : r.acked = false) (hcrit : severityOf r.kind = .critical)
    (hretired : r.retired = false) : acknowledgedClip r = r.clip :=
  if_pos ⟨(newCritical_iff r).2 ⟨hnew, hcrit⟩, hretired⟩

theorem acknowledgedClip_uncounted {r : FaultRecord}
    (h : severityOf r.kind ≠ .critical ∨ r.clip = none ∨ r.retired = true) : acknowledgedClip r = none := by
  unfold acknowledgedClip
  split
  · next hcounted =>
    obtain ⟨hcritical, hretired⟩ := hcounted
    rcases h with h | h | h
    · exact absurd ((newCritical_iff r).1 hcritical).2 h
    · exact h
    · simp [hretired] at h
  · rfl

theorem subtractCrit_used {s : State} {i : Nat} {c : Clip} (h : clipAt s i = some c) :
    subtractCrit (some i) s = setClip i (some { c with critOpen := c.critOpen - 1 }) s := by
  unfold subtractCrit
  simp only [h]

section
variable {s : State} {id : Nat}

theorem faultAckAct_unknown (h : ∀ r ∈ s.fl.records, r.id ≠ id) : faultAckAct id s = refuse .badArgument s := by
  have hfind : s.fl.records.find? (fun r => r.id == id) = none :=
    List.find?_eq_none.2 fun r hr => by simp [h r hr]
  unfold faultAckAct
  rw [hfind]

variable {r : FaultRecord} (h : s.fl.records.find? (fun x => x.id == id) = some r)
include h

theorem faultAckAct_acked (hacked : r.acked = true) : faultAckAct id s = (s, .done 0) := by
  unfold faultAckAct
  rw [h]
  exact if_pos hacked

theorem faultAckAct_uncounted (hnew : r.acked = false)
    (huncounted : severityOf r.kind ≠ .critical ∨ r.clip = none ∨ r.retired = true) :
    faultAckAct id s = (ackRecords (fun x => x.id == id) s, .done 1) := by
  unfold faultAckAct
  rw [h]
  simp only [hnew, acknowledgedClip_uncounted huncounted]
  rfl

theorem faultAckAct_counted {j : Nat} {c : Clip} (hnew : r.acked = false) (hcrit : severityOf r.kind = .critical)
    (hclip : r.clip = some j) (hretired : r.retired = false) (hc : clipAt s j = some c) :
    faultAckAct id s = (computeLamp c.slot
      (setClip j (some { c with critOpen := c.critOpen - 1 }) (ackRecords (fun x => x.id == id) s)), .done 1) := by
  have hacked : clipAt (ackRecords (fun x => x.id == id) s) j = some c := hc
  unfold faultAckAct
  rw [h]
  simp only [hnew, acknowledgedClip_counted hnew hcrit hretired, hclip, subtractCrit_used hacked,
    computeClipLamp_eq (clipAt_setClip_same hacked _)]
  rfl

end

section
variable {s : State} {i : Nat}

theorem clipFaultsAckAct_badArgument (h : 63 < i) : clipFaultsAckAct i s = refuse .badArgument s := if_pos h

theorem clipFaultsAckAct_unknown (h : i ≤ 63) (hi : clipAt s i = none) :
    clipFaultsAckAct i s = refuse .unknownClip s := by
  unfold clipFaultsAckAct
  rw [if_neg (Nat.not_lt.2 h), hi]

/-- A clip's records acknowledged and its crit_open set to 0. -/
def ackClip (i : Nat) (c : Clip) (s : State) : State :=
  setClip i (some { c with critOpen := 0 }) (ackRecords (clipFaultTest i) s)

variable {c : Clip} (h : i ≤ 63) (hi : clipAt s i = some c)
include h hi

theorem clipFaultsAckAct_uncounted (hzero : c.critOpen = 0) :
    clipFaultsAckAct i s = (ackClip i c s, .done (s.fl.records.countP (clipFaultTest i))) := by
  unfold clipFaultsAckAct
  rw [if_neg (Nat.not_lt.2 h), hi]
  dsimp only
  rw [if_pos hzero]
  rfl

theorem clipFaultsAckAct_counted (hopen : c.critOpen ≠ 0) :
    clipFaultsAckAct i s = (computeLamp c.slot (ackClip i c s), .done (s.fl.records.countP (clipFaultTest i))) := by
  have hacked : clipAt (ackRecords (clipFaultTest i) s) i = some c := hi
  have hcleared : clipAt (ackClip i c s) i = some { c with critOpen := 0 } := clipAt_setClip_same hacked _
  have hlamp : computeClipLamp i (ackClip i c s) = computeLamp c.slot (ackClip i c s) := by
    rw [computeClipLamp_eq hcleared]
  rw [← hlamp]
  unfold clipFaultsAckAct
  rw [if_neg (Nat.not_lt.2 h), hi]
  dsimp only
  rw [if_neg hopen]
  rfl

end

theorem clipFaultTest_eq (i : Nat) :
    clipFaultTest i = fun r => decide (r.acked = false ∧ r.clip = some i ∧ r.retired = false) := by
  funext r
  simp [clipFaultTest, beq_eq_decide, Bool.and_assoc]

/-! ### Acknowledgement by frame (R109) -/

/-- Each clip's crit_open lowered by its own number, not below 0. -/
def lowerCrit (n : Nat → Nat) (s : State) : State :=
  s.withCt { s.ct with
    clips := s.ct.clips.mapIdx fun i e => e.map fun c => { c with critOpen := c.critOpen - n i } }

theorem clipAt_lowerCrit (n : Nat → Nat) (s : State) (i : Nat) :
    clipAt (lowerCrit n s) i = (clipAt s i).map fun c => { c with critOpen := c.critOpen - n i } := by
  unfold clipAt lowerCrit
  simp only [State.withCt_ct, List.getD_eq_getElem?_getD, List.getElem?_mapIdx]
  cases s.ct.clips[i]? <;> rfl

/-- A change of the clip table alone that lowers every crit_open by its number. -/
theorem eq_lowerCrit {n : Nat → Nat} {s t : State} (hrest : t = s.withCt { s.ct with clips := t.ct.clips })
    (hlength : t.ct.clips.length = s.ct.clips.length)
    (hclips : ∀ i, clipAt t i = (clipAt s i).map fun c => { c with critOpen := c.critOpen - n i }) :
    t = lowerCrit n s := by
  have htable : t.ct.clips = (lowerCrit n s).ct.clips := by
    refine List.ext_getElem (by simp [lowerCrit, hlength]) fun i hi hi' => ?_
    have hentry : clipAt t i = clipAt (lowerCrit n s) i := (hclips i).trans (clipAt_lowerCrit n s i).symm
    unfold clipAt at hentry
    rwa [List.getD_eq_getElem _ _ hi, List.getD_eq_getElem _ _ hi'] at hentry
  exact hrest.trans (congrArg (fun l => s.withCt { s.ct with clips := l }) htable)

theorem lowerCrit_zero (s : State) : lowerCrit (fun _ => 0) s = s :=
  (eq_lowerCrit rfl rfl fun i => by cases clipAt s i <;> rfl).symm

theorem lowerCrit_lowerCrit (m n : Nat → Nat) (s : State) :
    lowerCrit m (lowerCrit n s) = lowerCrit (fun i => n i + m i) s := by
  refine eq_lowerCrit rfl (by simp [lowerCrit]) fun i => ?_
  simp only [clipAt_lowerCrit, Option.map_map, Function.comp_def, Nat.sub_sub]

theorem subtractCrit_eq_lowerCrit (o : Option Nat) (s : State) :
    subtractCrit o s = lowerCrit (fun i => if o = some i then 1 else 0) s := by
  cases o with
  | none => exact (lowerCrit_zero s).symm
  | some j =>
    cases hj : clipAt s j with
    | none =>
      have hsame : subtractCrit (some j) s = s := by
        unfold subtractCrit
        simp only [hj]
      rw [hsame]
      refine eq_lowerCrit rfl rfl fun i => ?_
      by_cases h : j = i
      · rw [← h, hj]
        rfl
      · cases clipAt s i <;> simp [h]
    | some c =>
      rw [subtractCrit_used hj]
      refine eq_lowerCrit rfl (by simp [setClip]) fun i => ?_
      rw [clipAt_set hj]
      by_cases h : i = j
      · simp [h, hj]
      · cases clipAt s i <;> simp [h, Ne.symm h]

/-- Acknowledging records one by one lowers each clip's crit_open by the number of those that count toward it. -/
theorem foldl_subtractCrit (l : List FaultRecord) (s : State) :
    l.foldl (fun x r => subtractCrit (acknowledgedClip r) x) s = lowerCrit (fun i => l.countP (countsOpen i)) s := by
  induction l generalizing s with
  | nil => exact (lowerCrit_zero s).symm
  | cons r l ih =>
    rw [List.foldl_cons, ih, subtractCrit_eq_lowerCrit, lowerCrit_lowerCrit]
    congr 1
    funext i
    rw [List.countP_cons, Nat.add_comm]
    simp only [ackd_iff]

theorem frameFaultTest_eq (camera frame : Nat) : frameFaultTest camera frame = fun r =>
    decide (r.acked = false ∧ r.camera = some camera ∧ r.frame.map (fun x => x.1) = some frame) := by
  funext r
  simp [frameFaultTest, beq_eq_decide, Bool.and_assoc]

/-- Among NEW records, those that a clip's crit_open counts. -/
theorem countP_filter_countsOpen (p : FaultRecord → Bool) (hp : ∀ r, p r = true → r.acked = false)
    (l : List FaultRecord) (i : Nat) : (l.filter p).countP (countsOpen i) =
      l.countP fun r => p r && decide (severityOf r.kind = .critical ∧ r.clip = some i ∧ r.retired = false) := by
  rw [List.countP_filter]
  refine List.countP_congr fun r _ => ?_
  simp only [countsOpen, Bool.and_eq_true, newCritical_iff, beq_iff_eq, Bool.not_eq_true', decide_eq_true_eq]
  constructor
  · rintro ⟨⟨⟨⟨-, hcrit⟩, hclip⟩, hretired⟩, hr⟩
    exact ⟨hr, hcrit, hclip, hretired⟩
  · rintro ⟨hr, hcrit, hclip, hretired⟩
    exact ⟨⟨⟨⟨hp r hr, hcrit⟩, hclip⟩, hretired⟩, hr⟩

/-- The slots whose lamps an acknowledgement by frame computes: those of clips whose crit_open fell. -/
theorem ackFrame_lowered (camera frame : Nat) (s : State) (slots : List Nat) (off : Nat → Nat)
    (hoff : ∀ i, (s.fl.records.filter (frameFaultTest camera frame)).countP (countsOpen i) = off i)
    (hsorted : slots.Pairwise (· < ·))
    (hslots : ∀ k, k ∈ slots ↔ k < 8 ∧ ∃ i c, clipAt s i = some c ∧ c.slot = k ∧ 0 < c.critOpen ∧ 0 < off i) :
    ackFrame camera frame s = (computeLamps slots (lowerCrit off (ackRecords (frameFaultTest camera frame) s)),
      s.fl.records.countP (frameFaultTest camera frame)) := by
  have hfold := foldl_subtractCrit (s.fl.records.filter (frameFaultTest camera frame))
    (ackRecords (frameFaultTest camera frame) s)
  simp only [hoff] at hfold
  unfold ackFrame
  dsimp only
  rw [hfold, List.countP_eq_length_filter]
  congr 2
  refine ((List.pairwise_lt_range.filter _).eq_of_mem_iff hsorted fun k => ?_)
  rw [hslots, List.mem_filter, List.mem_range, List.any_eq_true]
  refine and_congr_right fun _ => ?_
  have hclip : ∀ i, clipAt (lowerCrit off (ackRecords (frameFaultTest camera frame) s)) i =
      (clipAt s i).map fun c => { c with critOpen := c.critOpen - off i } := clipAt_lowerCrit off _
  simp only [critOpen_eq, hclip, List.mem_range]
  constructor
  · rintro ⟨i, -, h⟩
    cases hc : clipAt s i with
    | none => simp [hc] at h
    | some c =>
      obtain ⟨hslot, hlowered⟩ : c.slot = k ∧ c.critOpen ≠ c.critOpen - off i := by simpa [hc] using h
      exact ⟨i, c, hc, hslot, by omega, by omega⟩
  · rintro ⟨i, c, hc, hslot, hopen, hoff⟩
    have hlowered : c.critOpen ≠ c.critOpen - off i := by omega
    exact ⟨i, clipAt_lt hc, by simpa [hc, hslot] using hlowered⟩

/-! ### Searches (Table 7-3) -/

theorem mem_newFaultFrames_pair (s : State) (camera : Nat) (x : Severity × Nat) :
    x ∈ newFaultFrames s camera ↔ ∃ r ∈ s.fl.records, r.acked = false ∧ r.camera = some camera ∧
      (∃ tc, r.frame = some (x.2, tc)) ∧ severityOf r.kind = x.1 := by
  unfold newFaultFrames
  rw [List.mem_filterMap]
  refine exists_congr fun r => and_congr_right fun _ => ?_
  by_cases hconsidered : r.acked = false ∧ r.camera = some camera
  · simp [hconsidered, Prod.ext_iff]
  · rw [if_neg (by simpa using hconsidered)]
    simp only [reduceCtorEq, false_iff]
    exact fun ⟨hnew, hcamera, _⟩ => hconsidered ⟨hnew, hcamera⟩

/-- The frames that stop-on-fault considers: those of WARN and CRITICAL records (Table 7-3). -/
theorem mem_graveFrames (s : State) (camera f : Nat) :
    f ∈ ((newFaultFrames s camera).filter (fun x => x.1 != .note)).map (fun x => x.2) ↔
      ∃ r, (r ∈ s.fl.records ∧ r.acked = false ∧ r.camera = some camera ∧ ∃ tc, r.frame = some (f, tc)) ∧
        (severityOf r.kind = .warn ∨ severityOf r.kind = .critical) := by
  have hgrave : ∀ v : Severity, (v != .note) = true ↔ v = .warn ∨ v = .critical := by intro v; cases v <;> decide
  simp only [List.mem_map, List.mem_filter, mem_newFaultFrames_pair, hgrave]
  constructor
  · rintro ⟨x, ⟨⟨r, hr, hnew, hcamera, hframe, hseverity⟩, hx⟩, rfl⟩
    exact ⟨r, ⟨hr, hnew, hcamera, hframe⟩, by rwa [hseverity]⟩
  · rintro ⟨r, ⟨hr, hnew, hcamera, hframe⟩, hseverity⟩
    exact ⟨(severityOf r.kind, f), ⟨⟨r, hr, hnew, hcamera, hframe, rfl⟩, hseverity⟩, rfl⟩

/-- An answer that is in a list, and is the best of the list wherever there is a best, is the best of what the list holds. -/
theorem best_of_list {r : Nat → Nat → Prop} {P : Nat → Prop} {l : List Nat} {x : Option Nat}
    (hl : ∀ f, f ∈ l ↔ P f) (hmem : ∀ f, x = some f → f ∈ l) (hbest : ∀ f ∈ l, (∀ g ∈ l, r f g) → x = some f)
    (hex : l ≠ [] → ∃ f ∈ l, ∀ g ∈ l, r f g) :
    (∀ f, x = some f ↔ P f ∧ ∀ g, P g → r f g) ∧ (x = none ↔ ∀ f, ¬P f) := by
  simp only [← hl]
  have hanswer : ∀ f ∈ l, ∃ g ∈ l, x = some g ∧ ∀ y ∈ l, r g y := fun f hf => by
    obtain ⟨g, hg, hr⟩ := hex (List.ne_nil_of_mem hf)
    exact ⟨g, hg, hbest g hg hr, hr⟩
  refine ⟨fun f => ⟨fun hx => ?_, fun ⟨hf, hr⟩ => hbest f hf hr⟩, fun hx f hf => ?_, fun hnone => ?_⟩
  · obtain ⟨g, -, hg, hr⟩ := hanswer f (hmem f hx)
    obtain rfl := Option.some.inj (hx.symm.trans hg)
    exact ⟨hmem f hx, hr⟩
  · obtain ⟨g, -, hg, -⟩ := hanswer f hf
    simp [hx] at hg
  · exact Option.eq_none_iff_forall_ne_some.2 fun f hx => hnone f (hmem f hx)

theorem leastOf_answers {P : Nat → Prop} {l : List Nat} (hl : ∀ f, f ∈ l ↔ P f) :
    (∀ f, leastOf l = some f ↔ P f ∧ ∀ g, P g → f ≤ g) ∧ (leastOf l = none ↔ ∀ f, ¬P f) :=
  best_of_list hl (fun _ => leastOf_mem) (fun f hf hr => leastOf_spec l f hr hf)
    fun hne => Set.exists_min_image {f | f ∈ l} id l.finite_toSet (List.exists_mem_of_ne_nil l hne)

theorem greatestOf_answers {P : Nat → Prop} {l : List Nat} (hl : ∀ f, f ∈ l ↔ P f) :
    (∀ f, greatestOf l = some f ↔ P f ∧ ∀ g, P g → g ≤ f) ∧ (greatestOf l = none ↔ ∀ f, ¬P f) :=
  best_of_list (r := fun f g => g ≤ f) hl (fun _ => greatestOf_mem) (fun f hf hr => greatestOf_spec l f hr hf)
    fun hne => Set.exists_max_image {f | f ∈ l} id l.finite_toSet (List.exists_mem_of_ne_nil l hne)

/-- A command whose acting ends with the computation of a lamp is answered after the LAMP report (R65). -/
theorem answered_lamp {code k : Nat} {act : State → State × Answer} {s t y : State} {a : Answer}
    (h : act (advanceSequence s) = (computeLamp k t, a)) (hy : SameButReports y t) (hc : t.cir = (advanceSequence s).cir)
    (hb : t.tu.background = s.tu.background) (htime : y.time = s.time) :
    Answered s (completeCommand code act s) (lampReport k y) code a (relit k y) := by
  have htold : Told (advanceSequence s) t [] y := told_quiet hc hb hy
  refine answered_told (congrArg Prod.snd h) ?_ ((relit_time k y).trans htime)
  rw [h]
  exact htold.lamp htime k

/-- Settles O36: each acknowledgement by what it finds, and each search by the frames it considers. -/
theorem faultsAreAcknowledged : Obligations.FaultsAreAcknowledged := by
  unfold Obligations.FaultsAreAcknowledged
  refine ⟨fun s id clip => ?_, fun s camera frame slots => ?_, fun s camera a b => ?_⟩
  · intro l ack i mine
    refine ⟨⟨takeFaultAck id s, rfl, ?_, fun r hr => ⟨?_, ?_, ?_⟩⟩, ⟨takeClipFaultsAck clip s, rfl, ?_, ?_, ?_⟩⟩
    · exact fun h => answered_refused (faultAckAct_unknown h)
    · exact fun h => answered_by (faultAckAct_acked hr h) rfl rfl rfl rfl
    · exact fun hnew h => answered_by (faultAckAct_uncounted hr hnew h) rfl rfl rfl rfl
    · exact fun j c hnew hcrit hclip hretired hc =>
        answered_lamp (faultAckAct_counted (s := advanceSequence s) hr hnew hcrit hclip hretired hc) rfl rfl rfl rfl
    · exact fun h => answered_refused (clipFaultsAckAct_badArgument h)
    · exact fun h hi => answered_refused (clipFaultsAckAct_unknown h hi)
    · intro c h hi y
      have hmine : clipFaultTest i = mine := clipFaultTest_eq i
      have hy : SameButReports y (ackClip i c (advanceSequence s)) := by
        unfold ackClip
        rw [hmine]
        rfl
      have hn : s.fl.records.countP (clipFaultTest i) = l.countP mine := by rw [hmine]
      rw [← hn]
      split
      · next hzero =>
        exact answered_by (clipFaultsAckAct_uncounted (s := advanceSequence s) h hi hzero) hy rfl rfl rfl
      · next hopen =>
        exact answered_lamp (clipFaultsAckAct_counted (s := advanceSequence s) h hi hopen) hy rfl rfl rfl
  · intro hit off u hsorted hslots
    have hhit : frameFaultTest camera frame = hit := frameFaultTest_eq camera frame
    have hoff : ∀ i, (s.fl.records.filter hit).countP (countsOpen i) = off i :=
      countP_filter_countsOpen hit (fun r hr => (of_decide_eq_true hr).1) s.fl.records
    have hu : lowerCrit off (ackRecords hit s) = u := rfl
    have htold : Told s u [] u := told_quiet rfl rfl rfl
    rw [ackFrame_lowered camera frame s slots off (by rwa [hhit]) hsorted hslots, hhit, hu]
    exact ⟨rfl, htold.lamps slots rfl⟩
  · intro fresh any grave least greatest
    have hany : ∀ f, f ∈ (newFaultFrames s camera).map (fun x => x.2) ↔ any f := fun f => by
      rw [mem_newFaultFrames]
      exact exists_congr fun r => and_congr_right fun _ => by simp only [exists_and_left]
    have hgrave := mem_graveFrames s camera
    refine ⟨leastOf_answers fun f => ?_, greatestOf_answers fun f => ?_, leastOf_answers fun f => ?_,
      greatestOf_answers fun f => ?_⟩
    · rw [List.mem_filter, hgrave, decide_eq_true_eq]
    · rw [List.mem_filter, hgrave, decide_eq_true_eq]
    · rw [List.mem_filter, hany, decide_eq_true_eq]
    · rw [List.mem_filter, hany, decide_eq_true_eq]

end Sys2Proof.Machine
end

section
/-! PROOFS. The boundary of a motion context: what its phase does (R150 to R154). -/

namespace Sys2Proof.Machine

/-! ### The fault ahead (R151) -/

/-- The search pulls the target in to the fault that it finds. -/
theorem searchStep_eq {m : Motion} {u : Nat} (hu : m.target = some u) (s : State) (camera : Nat) :
    searchStep s camera m =
      ((if m.profile.stopOnFault = true then faultAhead s camera (m.position / 256) (u / 256) m.direction
        else none).map fun f => pullTarget f m).getD m := by
  unfold searchStep
  rw [hu, Option.getD_some]
  split
  · cases faultAhead s camera (m.position / 256) (u / 256) m.direction <;> rfl
  · rfl

theorem isMoving_pullTarget (f : Nat) {m : Motion} (h : isMoving m.phase = true) :
    isMoving (pullTarget f m).phase = true := by
  unfold pullTarget
  dsimp only
  split
  · rfl
  · exact h

/-! ### The deceleration check (R152) -/

theorem remaining_eq {m : Motion} {g : Nat} (h : m.target = some g) :
    remaining m = max g m.position - min g m.position := by
  unfold remaining
  rw [h, Option.getD_some]

/-- Whether a move has reached the deceleration distance of its phase. -/
def Brakes (m : Motion) : Prop :=
  m.continuous = false ∧ ∃ d below, decelTable m = some (d, below) ∧ remaining m ≤ d

theorem brakes_iff (m : Motion) : Brakes m ↔ m.continuous = false ∧
    ((m.phase = .accel2 ∧ remaining m ≤ m.profile.n * m.profile.s1) ∨
      (m.phase = .accel3 ∧ remaining m ≤ m.profile.n * (m.profile.s1 + m.profile.s2)) ∨
      (m.phase = .cruise ∧ remaining m ≤ m.profile.n * (m.profile.s1 + m.profile.s2 + m.profile.s3))) := by
  unfold Brakes decelTable
  cases m.phase <;> simp

theorem decelStep_keeps {m : Motion} (h : ¬Brakes m) : decelStep m = m := by
  unfold decelStep
  split
  · rfl
  · next hc =>
    split
    · rfl
    · next x hx => exact if_neg fun hr => h ⟨by simpa using hc, x.1, x.2, hx, hr⟩

/-- The stage below the phase of a move that brakes. -/
def stageBelow : Phase → Phase
  | .accel2 => .decel1
  | .accel3 => .decel2
  | _ => .decel3

theorem decelStep_brakes {m : Motion} (h : Brakes m) :
    decelStep m = { m with phase := stageBelow m.phase, stageCounter := 0 } := by
  obtain ⟨hc, d, below, htable, hr⟩ := h
  have hbelow : below = stageBelow m.phase := by
    unfold decelTable at htable
    cases hphase : m.phase <;> simp_all [stageBelow]
  unfold decelStep
  rw [if_neg (by simp [hc]), htable, ← hbelow]
  exact if_pos hr

/-- The phase and the stage counter that the check leaves, by whether the move brakes. -/
theorem decelStep_eq {m : Motion} {q : Phase} {n : Nat} (hbrakes : Brakes m → q = stageBelow m.phase ∧ n = 0)
    (hkeeps : ¬Brakes m → q = m.phase ∧ n = m.stageCounter) : decelStep m = { m with phase := q, stageCounter := n } := by
  by_cases h : Brakes m
  · obtain ⟨rfl, rfl⟩ := hbrakes h
    exact decelStep_brakes h
  · obtain ⟨rfl, rfl⟩ := hkeeps h
    exact decelStep_keeps h

theorem isMoving_decelStep {m : Motion} (h : isMoving m.phase = true) : isMoving (decelStep m).phase = true := by
  by_cases hbrakes : Brakes m
  · rw [decelStep_brakes hbrakes]
    cases m.phase <;> rfl
  · rwa [decelStep_keeps hbrakes]

/-! ### The advance, the stage count and the arrival (R153, R154) -/

theorem advanceStep_eq {m : Motion} {r : Nat} (hr : remaining m = r) : advanceStep m = { m with
    position := if m.direction = .forward then m.position + min (phaseSpeed m.profile m.phase) r
      else m.position - min (phaseSpeed m.profile m.phase) r } := by
  unfold advanceStep
  rw [hr]
  cases m.direction <;> simp

theorem isStage_iff (q : Phase) : isStage q = true ↔
    q = .accel1 ∨ q = .accel2 ∨ q = .accel3 ∨ q = .decel3 ∨ q = .decel2 ∨ q = .decel1 := by
  cases q <;> decide

theorem stageStep_uncounted {m : Motion} (h : ¬isStage m.phase = true) : stageStep m = m := if_neg h

theorem stageStep_ends {m : Motion} (h : isStage m.phase = true) (hn : m.profile.n ≤ m.stageCounter + 1) :
    stageStep m = { m with phase := nextStage m, stageCounter := 0 } := (if_pos h).trans (if_pos hn)

theorem stageStep_counts {m : Motion} (h : isStage m.phase = true) (hn : ¬m.profile.n ≤ m.stageCounter + 1) :
    stageStep m = { m with stageCounter := m.stageCounter + 1 } := (if_pos h).trans (if_neg hn)

/-- A stage count changes the phase and the stage counter alone. -/
theorem stageStep_eq (m : Motion) : ∃ q n, stageStep m = { m with phase := q, stageCounter := n } := by
  unfold stageStep
  split
  · split
    · exact ⟨_, _, rfl⟩
    · exact ⟨_, _, rfl⟩
  · exact ⟨_, _, rfl⟩

theorem hasArrived_iff {m : Motion} {g : Nat} (h : m.target = some g) : hasArrived m = true ↔ m.position = g := by
  unfold hasArrived
  rw [h, beq_iff_eq, Option.some.injEq, eq_comm]

/-! ### The phase acts (R150) -/

section
variable {m : Motion} (s : State) (camera : Nat)

theorem phaseStep_resting (h : m.phase = .idle ∨ m.phase = .arrived ∨ m.phase = .held) :
    phaseStep s camera m = (m, none) := by
  unfold phaseStep
  rcases h with h | h | h <;> rw [h] <;> rfl

theorem phaseStep_preroll (h : m.phase = .preroll) : phaseStep s camera m = (prerollMotion m, none) := by
  unfold phaseStep
  rw [h]
  rfl

theorem phaseStep_postroll (h : m.phase = .postroll) : phaseStep s camera m = (postrollMotion m, none) := by
  unfold phaseStep
  rw [h]
  rfl

theorem phaseStep_moving (h : isMoving m.phase = true) : phaseStep s camera m =
    if hasArrived (moveMotion s camera m) then
      (arriveMotion (moveMotion s camera m), some ((moveMotion s camera m).position / 256))
    else (moveMotion s camera m, none) := if_pos h

end

/-- A boundary of a moving phase, by where the motion steps leave the position (R154). -/
theorem boundaryMotion_moving {s : State} {camera g : Nat} {waiting y : Motion}
    (hmoving : isMoving (applyJog (applyLocate waiting)).phase = true)
    (hy : moveMotion s camera (applyJog (applyLocate waiting)) = y) (hg : y.target = some g) :
    boundaryMotion s camera waiting =
      if y.position = g then (showFrame (arriveMotion y), some (g / 256)) else (showFrame y, none) := by
  unfold boundaryMotion
  rw [phaseStep_moving s camera hmoving, hy]
  by_cases h : y.position = g
  · rw [if_pos ((hasArrived_iff hg).2 h), if_pos h, h]
  · rw [if_neg (mt (hasArrived_iff hg).1 h), if_neg h]

/-- Settles O50: what waits is applied, and then the phase reached acts, a moving phase step by step of R151 to R154. -/
theorem shuttleBoundaryByThePhase : Obligations.ShuttleBoundaryByThePhase := by
  unfold Obligations.ShuttleBoundaryByThePhase
  intro s camera waiting m p boundary shown setOff
  have hboundary : ∀ x, phaseStep s camera m = x → boundary = (shown x.1, x.2) := fun _ h => h ▸ rfl
  refine ⟨fun h => hboundary _ (phaseStep_resting s camera h), fun h => hboundary _ (phaseStep_preroll s camera h),
    fun h hdwell => ?_, fun x h hdwell hstart => ?_, fun u hmoving hu => ?_⟩
  · rw [hboundary _ (phaseStep_postroll s camera h)]
    unfold postrollMotion
    rw [if_pos hdwell]
  · rw [hboundary _ (phaseStep_postroll s camera h)]
    unfold postrollMotion loopMotion
    rw [if_neg (by omega), hstart]
    simp only [setOff]
    by_cases hpre : p.preDwell = 0
    · rw [if_pos hpre, if_pos hpre, if_pos hpre]
      rfl
    · rw [if_neg hpre, if_neg hpre, if_neg hpre]
      rfl
  · intro found g sought r brake phase counter speed position counts after x y
    have hsought : searchStep s camera m = sought ∧ sought.target = some g ∧ isMoving sought.phase = true ∧
        sought.profile = p := by
      rw [searchStep_eq hu]
      change (found.map fun f => pullTarget f m).getD m = sought ∧ _
      cases hfound : found with
      | none =>
        simp only [sought, g, hfound]
        exact ⟨rfl, hu, hmoving, rfl⟩
      | some f =>
        simp only [sought, g, hfound]
        exact ⟨rfl, rfl, isMoving_pullTarget f hmoving, rfl⟩
    obtain ⟨hsearch, htarget, hsoughtMoving, hprofile⟩ := hsought
    clear_value sought g
    have hremaining : remaining sought = r := remaining_eq htarget
    have hbrake : Brakes sought ↔ brake := by
      rw [brakes_iff, hremaining, hprofile]
    let braked : Motion := { sought with phase := phase, stageCounter := counter }
    have hdecel : decelStep sought = braked := decelStep_eq
      (fun h => ⟨(if_pos (hbrake.1 h)).trans (by cases sought.phase <;> rfl), if_pos (hbrake.1 h)⟩)
      (fun h => ⟨if_neg (mt hbrake.2 h), if_neg (mt hbrake.2 h)⟩)
    have hphaseMoving : isMoving phase = true := by
      have hbraked := isMoving_decelStep hsoughtMoving
      rwa [hdecel] at hbraked
    clear_value phase counter
    have hspeed : phaseSpeed braked.profile braked.phase = speed := by
      rw [show braked.profile = p from hprofile]
      cases phase with
      | idle | preroll | arrived | postroll | held => cases hphaseMoving
      | _ => rfl
    let moved : Motion := { braked with position := position }
    have hadvance : advanceStep braked = moved := by
      rw [advanceStep_eq (m := braked) hremaining, hspeed]
    have hafter : counts → nextStage moved = after := by
      rintro (h | h | h | h | h | h) <;> subst h <;> rfl
    have hstage : stageStep moved = y := by
      by_cases hcounts : counts
      · have hcounted : isStage moved.phase = true := (isStage_iff phase).2 hcounts
        by_cases hn : p.n ≤ counter + 1
        · rw [stageStep_ends hcounted (by rwa [← hprofile] at hn), hafter hcounts]
          exact ((if_pos hcounts).trans (if_pos hn)).symm
        · rw [stageStep_counts hcounted (by rwa [← hprofile] at hn)]
          exact ((if_pos hcounts).trans (if_neg hn)).symm
      · rw [stageStep_uncounted (m := moved) (mt (isStage_iff phase).1 hcounts)]
        exact (if_neg hcounts).symm
    have hmove : moveMotion s camera m = y := by
      unfold moveMotion
      rw [hsearch, hdecel, hadvance, hstage]
    obtain ⟨q, n, hy⟩ := stageStep_eq moved
    rw [hstage] at hy
    have hposition : y.position = position := by rw [hy]
    have hyTarget : y.target = some g := by rw [hy]; exact htarget
    have harrive : arriveMotion y = if sought.looping = true ∧ p.postDwell < 63 then
        { y with phase := .postroll, dwellCounter := p.postDwell } else { y with phase := .arrived } := by
      rw [hy, ← hprofile]
      rfl
    rw [show boundary = _ from boundaryMotion_moving hmoving hmove hyTarget, harrive, hposition]
    rfl

end Sys2Proof.Machine
end

section
/-! PROOFS. LOOK_LOAD and its fetch: the tests of Table 8-4, the image of Table 12-8, and the beats (R115 to R119, R170). -/

namespace Sys2Proof.Machine

/-! ### The tests of LOOK_LOAD (Table 8-4) -/

section
variable {s : State} {slot : BitVec 8} {address : BitVec 64}

theorem takeLookLoad_refused {reason : Reason} (h : lookLoadTest slot.toNat address.toNat s = some reason) :
    Answered s (takeLookLoad slot address s) [] 0x50 (.refused reason 0) s := by
  unfold takeLookLoad
  rw [h]
  exact answered_refused rfl

theorem takeLookLoad_starts (h : lookLoadTest slot.toNat address.toNat s = none) :
    takeLookLoad slot address s = startLoad slot.toNat address.toNat s.cir.expected (advanceSequence s) := by
  unfold takeLookLoad
  rw [h]

end

section
variable {s : State} {k a : Nat}

theorem lookLoadTest_badArgument (h : ¬(k ≤ 7 ∧ a % 32 = 0 ∧ a + 256 ≤ addressTop)) :
    lookLoadTest k a s = some .badArgument := if_pos h

variable (hargs : k ≤ 7 ∧ a % 32 = 0 ∧ a + 256 ≤ addressTop)
include hargs

theorem lookLoadTest_busy (h : (lookSlotAt s k).state = .loading) : lookLoadTest k a s = some .busy :=
  (if_neg (not_not.2 hargs)).trans (if_pos h)

theorem lookLoadTest_passes (h : (lookSlotAt s k).state ≠ .loading) : lookLoadTest k a s = none :=
  (if_neg (not_not.2 hargs)).trans (if_neg h)

end

/-! ### Whether a fetch is in flight (R116, R119) -/

theorem fetchSlot_eq_some (i : BackgroundItem) (k : Nat) : i.fetchSlot = some k ↔ ∃ a, i = .lookFetch k a := by
  cases i <;> simp [BackgroundItem.fetchSlot]

theorem fetchWaiting_eq_false_iff (s : State) (k : Nat) :
    fetchWaiting s k = false ↔ ∀ a, BackgroundItem.lookFetch k a ∉ s.tu.background := by
  have hwaits : fetchWaiting s k = true ↔ ∃ a, BackgroundItem.lookFetch k a ∈ s.tu.background := by
    simp only [← fetchWaiting_mem, List.mem_filterMap, fetchSlot_eq_some]
    constructor
    · rintro ⟨_, hmem, a, rfl⟩
      exact ⟨a, hmem⟩
    · rintro ⟨a, hmem⟩
      exact ⟨_, hmem, a, rfl⟩
  rw [← Bool.not_eq_true, hwaits, not_exists]

/-! ### The look image (Table 12-8, R170) -/

theorem imageField_eq (image : List BeatData) (o : Nat) :
    imageField image o = (image.getD (o / 32) 0).toNat / 2 ^ (8 * (o % 32)) % 65536 :=
  beatField_eq _ _ 16

/-- The answer of a command carried out, by whether its first listed field was clamped (R20). -/
theorem carriedOut_listed (n d : Nat) (clamped : Bool) (fields : List (Nat × Bool)) :
    carriedOut ((n, clamped) :: fields) d = if clamped = true then .clamped n d else carriedOut fields d := by
  cases clamped <;> rfl

/-- The answer of a load that ended OK names the first lift that its clamp changed (R116). -/
theorem loadAnswer_eq (image : List BeatData) (k : Nat) : loadAnswer image k =
    if clampLift (imageLifts image).r ≠ (imageLifts image).r then .clamped 1 k
    else if clampLift (imageLifts image).g ≠ (imageLifts image).g then .clamped 2 k
    else if clampLift (imageLifts image).b ≠ (imageLifts image).b then .clamped 3 k else .done k := by
  unfold loadAnswer
  simp only [carriedOut_listed, bne_iff_ne]
  rfl

/-! ### A data beat of a fetch (R116, R117) -/

/-- A slot with one more beat staged, and whether some beat was answered ERROR. -/
def stagedSlot (x : LookSlot) (d : BeatData) (resp : Resp) : LookSlot :=
  { x with staged := x.staged ++ [d], failed := x.failed || !respOk resp }

theorem stagedSlot_failed (x : LookSlot) (d : BeatData) (resp : Resp) :
    (stagedSlot x d resp).failed = (x.failed || decide (resp = .slverr ∨ resp = .decerr)) := by
  cases resp <;> rfl

section
variable {s : State} {k : Nat} (d : BeatData) (resp : Resp)

theorem stageBeat_not_inFlight (h : ¬((lookSlotAt s k).state = .loading ∧ fetchWaiting s k = false)) :
    stageBeat k d resp s = s := if_neg h

variable (h : (lookSlotAt s k).state = .loading ∧ fetchWaiting s k = false)
include h

theorem stageBeat_stages (hn : (stagedSlot (lookSlotAt s k) d resp).staged.length < 8) :
    stageBeat k d resp s = setLookSlot k (stagedSlot (lookSlotAt s k) d resp) s :=
  (if_pos h).trans (if_pos hn)

theorem stageBeat_ends (hn : 8 ≤ (stagedSlot (lookSlotAt s k) d resp).staged.length) :
    stageBeat k d resp s = endLoad k (stagedSlot (lookSlotAt s k) d resp) s :=
  (if_pos h).trans (if_neg hn.not_gt)

end

section
variable {x : LookSlot} {n : Nat} {before : LookState} (s : State) (k : Nat) (hn : x.loadSequence = some n)
include hn

theorem endLoad_failed (hbefore : x.prior = some before) (h : x.failed = true) :
    Told s (endLoad k x s) [.completion n 0x50 (.refused .badArgument 3)]
      (setLookSlot k (loadedSlot before x.active) s) := by
  unfold endLoad
  rw [if_pos h, hn, hbefore]
  exact told_one _ rfl rfl rfl rfl

theorem endLoad_loads (h : ¬x.failed = true) :
    Told s (endLoad k x s) [.completion n 0x50 (loadAnswer x.staged k)]
      (setLookSlot k (loadedSlot .ready (some (lookOfImage x.staged))) s) := by
  unfold endLoad
  rw [if_neg h, hn]
  exact told_one _ rfl rfl rfl rfl

end

/-- Settles O37: LOOK_LOAD by the tests of Table 8-4, and a fetch's beat by whether it is in flight and the eighth. -/
theorem looksAreFetchedAndLoaded : Obligations.LooksAreFetchedAndLoaded := by
  unfold Obligations.LooksAreFetchedAndLoaded
  intro s slot address target d resp
  refine ⟨⟨takeLookLoad slot address s, rfl, ?_⟩, stageBeat target.val d resp s, rfl, ?_⟩
  · intro k a x
    split_ifs with hargs hloading
    · exact takeLookLoad_refused (lookLoadTest_busy hargs hloading)
    · exact takeLookLoad_starts (lookLoadTest_passes hargs hloading)
    · exact takeLookLoad_refused (lookLoadTest_badArgument hargs)
  · intro k x inFlight staged failed half signed clamped raw lift points row flags look answer loaded
    have hflight : inFlight ↔ x.state = .loading ∧ fetchWaiting s k = false :=
      and_congr_right fun _ => (fetchWaiting_eq_false_iff s k).symm
    have hfailed : (stagedSlot x d resp).failed = failed := stagedSlot_failed x d resp
    have hfield : ∀ o, imageField staged o = half o := imageField_eq staged
    have hlifts : imageLifts staged = raw := by
      unfold imageLifts
      rw [hfield, hfield, hfield]
      rfl
    have hlook : lookOfImage staged = look := by
      unfold lookOfImage imageCurve imageRow imageFlags
      simp only [hlifts, hfield]
      rfl
    have hanswer : loadAnswer staged k = answer := by
      rw [loadAnswer_eq, hlifts]
      rfl
    refine ⟨fun h => stageBeat_not_inFlight d resp (mt hflight.2 h), fun h hn => ?_, fun n before h hn hseq hprior => ?_⟩
    · rw [stageBeat_stages d resp (hflight.1 h) hn, ← hfailed]
      rfl
    · rw [stageBeat_ends d resp (hflight.1 h) hn]
      split_ifs with hbad
      · exact endLoad_failed s k hseq hprior (hfailed.trans hbad)
      · rw [← hanswer, ← hlook]
        exact endLoad_loads s k hseq (by rwa [hfailed])

end Sys2Proof.Machine
end

section
/-! PROOFS. The pixel pipeline: its stages, the identity look, the blend and the zones (R114, R120 to R126). -/

namespace Sys2Proof.Machine

/-! ### The identity look (R114) -/

theorem stageLiftGain_identity {x : Nat} (hx : x ≤ 65535) : stageLiftGain x 0 16384 = x := by
  unfold stageLiftGain clampInt
  omega

theorem identityCurve_getElem? {i : Nat} (hi : i < 32) : identityCurve[i]? = some (2048 * i) := by
  unfold identityCurve
  rw [List.getElem?_append_left (by simpa using hi)]
  simp [hi]

theorem identityCurve_last : identityCurve[32]? = some 65535 := rfl

/-- The last point is 65535 and not 65536, so the upper half of the last segment falls short by 1. -/
theorem stageCurve_identity {x : Nat} (hx : x ≤ 65535) :
    stageCurve identityCurve x = if x ≤ 64512 then x else x - 1 := by
  obtain ⟨i, f, hf, rfl⟩ : ∃ i f, f < 2048 ∧ x = 2048 * i + f := ⟨x / 2048, x % 2048, by omega, by omega⟩
  by_cases hi : i < 31
  · have hseg := stageCurve_spec identityCurve i f _ _ (identityCurve_getElem? (by omega))
      (identityCurve_getElem? (by omega)) hf
    rw [if_pos (by omega)]
    omega
  · obtain rfl : i = 31 := by omega
    have hseg := stageCurve_spec identityCurve 31 f _ _ (identityCurve_getElem? (by omega)) identityCurve_last hf
    split_ifs <;> omega

theorem stageMatrixRow_identity {v : Rgb Nat} (hv : v.g ≤ 65535) :
    stageMatrixRow { r := 0, g := 4096, b := 0 } v = v.g := by
  unfold stageMatrixRow clampInt
  dsimp only
  omega

theorem graded_identityLook_grey {x : Nat} (hx : x ≤ 65535) :
    (graded identityLook { r := x, g := x, b := x }).g = stageOutput (if x ≤ 64512 then x else x - 1) := by
  let v : Rgb Nat := curves identityLook (liftGain identityLook { r := x, g := x, b := x })
  have hcurve : v.g = if x ≤ 64512 then x else x - 1 := by
    change stageCurve identityCurve (stageLiftGain x 0 16384) = _
    rw [stageLiftGain_identity hx, stageCurve_identity hx]
  change stageOutput (stageMatrixRow { r := 0, g := 4096, b := 0 } v) = _
  rw [stageMatrixRow_identity (by rw [hcurve]; split_ifs <;> omega), hcurve]

/-- One step of the pixel value moves the output by at most 1. -/
theorem stageOutput_pred (x : Nat) : stageOutput (x - 1) ≤ stageOutput x ∧ stageOutput x ≤ stageOutput (x - 1) + 1 := by
  unfold stageOutput
  omega

/-! ### The blend (R124) -/

/-- The weighted sum of two components lies between 256 times the lesser and 256 times the greater. -/
theorem blendSum_bounds (a b : Nat) {m : Nat} (hm : m ≤ 256) :
    256 * min a b ≤ a * (256 - m) + b * m ∧ a * (256 - m) + b * m ≤ 256 * max a b := by
  have hweights : ∀ c, c * (256 - m) + c * m = 256 * c := fun c => by
    rw [← Nat.mul_add, Nat.sub_add_cancel hm, Nat.mul_comm]
  rw [← hweights, ← hweights]
  exact ⟨by gcongr <;> simp, by gcongr <;> simp⟩

theorem blendComponent_spec {a b m : Nat} (ha : a ≤ 1023) (hb : b ≤ 1023) (hm : m ≤ 256) :
    let out := blendComponent a b m
    out ≤ 1023 ∧ min a b ≤ out ∧ out ≤ max a b ∧ (m = 0 → out = a) ∧ (m = 256 → out = b) ∧
      256 * out ≤ a * (256 - m) + b * m + 128 ∧ a * (256 - m) + b * m + 128 < 256 * (out + 1) := by
  intro out
  have hout : out = (a * (256 - m) + b * m + 128) / 256 := rfl
  have hzero : m = 0 → a * (256 - m) + b * m = 256 * a := by
    rintro rfl
    omega
  have hfull : m = 256 → a * (256 - m) + b * m = 256 * b := by
    rintro rfl
    omega
  obtain ⟨hlow, hhigh⟩ := blendSum_bounds a b hm
  generalize a * (256 - m) + b * m = sum at *
  omega

/-! ### The zone path (R125) -/

theorem zoneColour_highest {zones : List Zone} {x : Rgb Nat} {z : Nat} {w : Zone} (hz : zones[z]? = some w)
    (hin : w.bound ≤ luma x) (hover : ∀ j v, z < j → zones[j]? = some v → luma x < v.bound) :
    zoneColour zones x = w.colour := by
  obtain ⟨hlt, -⟩ := List.getElem?_eq_some_iff.1 hz
  have hzone : zoneOf zones (luma x) = z :=
    zoneOf_highest hlt (fun v hv => Option.some.inj (hz.symm.trans hv) ▸ hin) hover
  unfold zoneColour
  rw [hzone, hz]
  rfl

/-- Settles O38: each stage by its floor and its clamp, the pipeline by the stages, and the blend and zones by theirs. -/
theorem pixelsAreGradedByTheStages : Obligations.PixelsAreGradedByTheStages := by
  unfold Obligations.PixelsAreGradedByTheStages
  refine ⟨fun x gain lift => clampInt_spec 16384 _ (by decide) _ rfl, stageCurve_spec,
    fun m x => clampInt_spec 4096 _ (by decide) _ rfl, stageOutput_spec, fun l x => rfl, fun x hx => ?_,
    fun _ _ _ => blendComponent_spec, fun _ _ _ _ => zoneColour_highest⟩
  intro out
  have hout : out = stageOutput (if x ≤ 64512 then x else x - 1) := graded_identityLook_grey hx
  obtain ⟨hle, hge⟩ := stageOutput_pred x
  rw [hout]
  split_ifs with h
  · exact ⟨fun _ => rfl, le_rfl, Nat.le_succ _⟩
  · exact ⟨fun hx' => absurd hx' h, hle, hge⟩

end Sys2Proof.Machine
end

section
/-! PROOFS. VIEW_WINDOW_SET: the tests of R129, and the window placed (R13, R129). -/

namespace Sys2Proof.Machine

/-! ### What each test of R129 asks -/

section
variable {s : State} {v base width height : Nat}

theorem viewStride_eq (width : Nat) : viewStride width = 32 * ((4 * width + 31) / 32) := by
  unfold viewStride
  omega

theorem viewWindowArguments_eq_false_iff : viewWindowArguments v base width height = false ↔
    1 < v ∨ width < 16 ∨ 8192 < width ∨ height < 16 ∨ 4320 < height ∨ base % 32 ≠ 0 ∨
      2 ^ 40 < base + viewStride width * height := by
  unfold viewWindowArguments
  rw [decide_eq_false_iff_not]
  simp only [not_and_or, not_le, ne_eq]
  rfl

/-- The overlap test of a range that holds a byte (R13). -/
theorem overlapsAny_iff_of_pos {a n : Nat} (hpos : 0 < n) (ws : List Span) :
    overlapsAny { base := a, size := n } ws = true ↔ ∃ w ∈ ws, w.base < a + n ∧ a < w.base + w.size ∧ 0 < w.size := by
  rw [overlapsAny_iff]
  unfold Span.overlaps
  simp only [decide_eq_true_eq, hpos, true_and]
  exact exists_congr fun w => and_congr_right fun _ => and_rotate.trans and_left_comm

/-- A window that R129 lets through is not empty. -/
theorem viewWindowSize_pos (h : ¬viewWindowArguments v base width height = false) : 0 < viewStride width * height := by
  rw [viewWindowArguments_eq_false_iff, not_or, not_or, not_or, not_or] at h
  obtain ⟨-, hwidth, -, hheight, -⟩ := h
  exact Nat.mul_pos (by unfold viewStride; omega) (by omega)

/-! ### VIEW_WINDOW_SET, test by test -/

theorem viewWindowSetAct_badArgument (h : viewWindowArguments v base width height = false) :
    viewWindowSetAct v base width height s = refuse .badArgument s :=
  if_pos h

variable (hargs : ¬viewWindowArguments v base width height = false)
include hargs

theorem viewWindowSetAct_wrongState (hon : (viewAt s v).pending.on = true ∨ (viewAt s v).current.on = true) :
    viewWindowSetAct v base width height s = refuse .wrongState s :=
  (if_neg hargs).trans (if_pos hon)

variable (hoff : ¬((viewAt s v).pending.on = true ∨ (viewAt s v).current.on = true))
include hoff

theorem viewWindowSetAct_overlap (h : overlapsAny { base := base, size := viewStride width * height }
      (controlPage s :: (poolWindows s ++ viewWindows s (1 - v) ++ streamWindows s)) = true) :
    viewWindowSetAct v base width height s = refuse .overlap s :=
  (if_neg hargs).trans ((if_neg hoff).trans (if_pos h))

theorem viewWindowSetAct_places (h : ¬overlapsAny { base := base, size := viewStride width * height }
      (controlPage s :: (poolWindows s ++ viewWindows s (1 - v) ++ streamWindows s)) = true) :
    viewWindowSetAct v base width height s =
      (setView v { viewAt s v with
          window := some { base := base, width := width, height := height, stride := viewStride width }
          lastRow := none } s,
        .done (viewStride width)) :=
  (if_neg hargs).trans ((if_neg hoff).trans (if_neg h))

end

/-- Settles O39: the three tests of R129 in order, and then the window placed. -/
theorem viewWindowSetReplacesTheWindow : Obligations.ViewWindowSetReplacesTheWindow := by
  unfold Obligations.ViewWindowSetReplacesTheWindow
  intro s view base width height v x stride others
  have hstride : stride = viewStride width.toNat := (viewStride_eq _).symm
  clear_value stride
  subst hstride
  simp only [← viewWindowArguments_eq_false_iff]
  refine ⟨takeViewWindowSet view base width height s, rfl, ?_⟩
  split_ifs with hbad hon ho
  · exact answered_refused (viewWindowSetAct_badArgument hbad)
  · exact answered_refused (viewWindowSetAct_wrongState hbad hon)
  · exact answered_refused (viewWindowSetAct_overlap hbad hon ((overlapsAny_iff_of_pos (viewWindowSize_pos hbad) _).2 ho))
  · exact answered_by (viewWindowSetAct_places hbad hon (mt (overlapsAny_iff_of_pos (viewWindowSize_pos hbad) _).1 ho))
      rfl rfl rfl rfl

end Sys2Proof.Machine
end

section
/-! PROOFS. The commands that write a view's pending settings (R130, R131). -/

namespace Sys2Proof.Machine

/-- A command that replaces a view context and does nothing else. -/
theorem answered_setView {code v : Nat} {act : State → State × Answer} {s : State} {x : View} {a : Answer}
    (h : act (advanceSequence s) = (setView v x (advanceSequence s), a)) :
    Answered s (completeCommand code act s) [] code a (setView v x s) :=
  answered_by h rfl rfl rfl rfl

/-! ### Switches, source and geometry (R130) -/

theorem switchAnswer_true (old : Bool) : switchAnswer old true = .done (if old = true then 0 else 1) := rfl

theorem switchAnswer_false (old : Bool) : switchAnswer old false = .done (if old = true then 1 else 0) := by
  cases old <;> rfl

/-- Settles O40: each command by its own tests in order, and then the one field or fields it writes. -/
theorem viewSettingsWriteThePendingCopy : Obligations.ViewSettingsWriteThePendingCopy := by
  unfold Obligations.ViewSettingsWriteThePendingCopy
  intro s view camera x0 y0 decimation hFlip vFlip v p
  have hdecimation : decimation.toNat ∉ [1, 2, 4] ↔
      ¬(decimation.toNat = 1 ∨ decimation.toNat = 2 ∨ decimation.toNat = 4) := by simp
  simp only [← switchAnswer_true, ← switchAnswer_false, ← flagOf_toNat, hdecimation]
  refine ⟨⟨takeViewOn view s, rfl, ?_⟩, ⟨takeViewOff view s, rfl, ?_⟩, ⟨takeZonesOn view s, rfl, ?_⟩,
    ⟨takeZonesOff view s, rfl, ?_⟩, ⟨takeViewSource view camera s, rfl, ?_⟩,
    takeViewGeometry view x0 y0 decimation hFlip vFlip s, rfl, ?_⟩
  · split_ifs with hview hwindow
    · exact answered_refused (if_pos hview)
    · exact answered_refused ((if_neg hview).trans (if_pos (Option.isNone_iff_eq_none.2 hwindow)))
    · exact answered_setView ((if_neg hview).trans (if_neg (mt Option.isNone_iff_eq_none.1 hwindow)))
  · split_ifs with hview
    · exact answered_refused (if_pos hview)
    · exact answered_setView (if_neg hview)
  · split_ifs with hview
    · exact answered_refused (if_pos hview)
    · exact answered_setView (if_neg hview)
  · split_ifs with hview
    · exact answered_refused (if_pos hview)
    · exact answered_setView (if_neg hview)
  · split_ifs with hargs hcamera
    · exact answered_refused (if_pos hargs)
    · exact answered_refused ((if_neg hargs).trans (if_pos hcamera))
    · exact answered_setView ((if_neg hargs).trans (if_neg hcamera))
  · split_ifs with hargs
    · exact answered_refused (if_pos hargs)
    · exact answered_setView (if_neg hargs)

/-! ### Looks, bands, overlays and clip marking (R131) -/

/-- LOOK_SELECT's ramp rate is at most 256, and its answer says whether it was clamped (R131). -/
theorem lookSelect_answer (rate : Nat) : carriedOut [(3, clamp 0 256 rate != rate)] 0 =
    if 256 < rate then .clamped 3 0 else .done 0 := by
  have hclamped : clamp 0 256 rate ≠ rate ↔ 256 < rate := by
    unfold clamp
    omega
  rw [carriedOut_cons]
  simp only [hclamped]
  rfl

section
variable {code count start1 end1 look1 start2 end2 look2 : Nat}

/-- A code of Table 12-3 for a band look: a slot 0-7, or UNGRADED. -/
def IsBandLook (code : Nat) : Prop := code ≤ 7 ∨ code = 255

/-- The look of a band with such a code. -/
def bandLook (code : Nat) : Option Nat := if code = 255 then none else some code

theorem bandLookOf_code (h : IsBandLook code) : bandLookOf code = some (bandLook code) := by
  unfold bandLookOf bandLook
  obtain hslot | rfl := h
  · rw [if_pos hslot, if_neg (by omega)]
  · rfl

theorem bandLookOf_noCode (h : ¬IsBandLook code) : bandLookOf code = none := by
  obtain ⟨hslot, hungraded⟩ := not_or.1 h
  unfold bandLookOf
  rw [if_neg hslot, if_neg hungraded]

/-- A payload with more than two bands, or with a band within its count whose look is no code, has no bands (R131). -/
theorem bandsOf_none (h : 2 < count ∨ (1 ≤ count ∧ ¬IsBandLook look1) ∨ (2 ≤ count ∧ ¬IsBandLook look2)) :
    bandsOf count start1 end1 look1 start2 end2 look2 = none := by
  match count with
  | 0 => omega
  | 1 =>
    have hlook : ¬IsBandLook look1 := by simpa using h
    simp only [bandsOf, bandLookOf_noCode hlook, Option.map_none]
  | 2 =>
    have hlooks : ¬IsBandLook look1 ∨ ¬IsBandLook look2 := by simpa using h
    obtain hlook | hlook := hlooks
    · simp only [bandsOf, bandLookOf_noCode hlook]
    · cases hfirst : bandLookOf look1 <;> simp only [bandsOf, hfirst, bandLookOf_noCode hlook]
  | n + 3 => rfl

/-- The bands of a payload are those within its count (R131). -/
theorem bandsOf_some (hcount : ¬2 < count) (h1 : 1 ≤ count → IsBandLook look1) (h2 : 2 ≤ count → IsBandLook look2) :
    bandsOf count start1 end1 look1 start2 end2 look2 = some
      ([{ first := start1, last := end1, look := bandLook look1 },
        { first := start2, last := end2, look := bandLook look2 }].take count) := by
  match count with
  | 0 => rfl
  | 1 => simp [bandsOf, bandLookOf_code (h1 (by omega))]
  | 2 => simp [bandsOf, bandLookOf_code (h1 (by omega)), bandLookOf_code (h2 (by omega))]
  | n + 3 => omega

end

section
variable {s : State} {v mode : Nat} {bands : Option (List Band)}

theorem bandsSetAct_badArgument (h : (1 < v ∨ 1 < mode) ∨ bands = none) : bandsSetAct v bands mode s = refuse .badArgument s := by
  unfold bandsSetAct
  split_ifs with hargs
  · rfl
  · rw [h.resolve_left hargs]

theorem bandsSetAct_sets {l : List Band} (h : ¬(1 < v ∨ 1 < mode)) : bandsSetAct v (some l) mode s =
    (setView v { viewAt s v with
        pending := { (viewAt s v).pending with bands := l, outsideBlack := mode == 1 }, bandsReported := false } s,
      .done 0) :=
  if_neg h

end

/-- Settles O41: each command by its own tests, the bands of BANDS_SET by those within its count. -/
theorem looksBandsOverlaysAndMarksWriteThePendingCopy : Obligations.LooksBandsOverlaysAndMarksWriteThePendingCopy := by
  unfold Obligations.LooksBandsOverlaysAndMarksWriteThePendingCopy
  intro s view slot on rate colour count look1 look2 mode start1 end1 start2 end2 address stride count1 count2
    v x p graded band bands
  refine ⟨⟨takeLookSelect view slot rate s, rfl, ?_⟩,
    ⟨takeBandsSet view count start1 end1 look1 start2 end2 look2 mode s, rfl, ?_⟩,
    ⟨takeOverlaySet view address stride start1 count1 start2 count2 s, rfl, ?_⟩,
    takeClipMarkSet view on colour s, rfl, ?_⟩
  · have hrate : min 256 rate.toNat = clamp 0 256 rate.toNat := (Nat.zero_max _).symm
    rw [← lookSelect_answer, hrate]
    split_ifs with hargs
    · exact answered_refused (if_pos hargs)
    · exact answered_setView (if_neg hargs)
  · have hmode : decide (mode = 1) = (mode.toNat == 1) := by
      simp only [← BitVec.toNat_inj]
      rfl
    rw [hmode]
    split_ifs with hargs
    · refine answered_refused (bandsSetAct_badArgument ?_)
      obtain h | h | h | h | h := hargs
      · exact .inl (.inl h)
      · exact .inr (bandsOf_none (.inl h))
      · exact .inr (bandsOf_none (.inr (.inl h)))
      · exact .inr (bandsOf_none (.inr (.inr h)))
      · exact .inl (.inr h)
    · simp only [not_or, not_and_not_right] at hargs
      obtain ⟨hview, hcount, h1, h2, hm⟩ := hargs
      have hbands := bandsOf_some (start1 := start1.toNat) (end1 := end1.toNat) (start2 := start2.toNat)
        (end2 := end2.toNat) hcount h1 h2
      refine answered_setView (v := v) ?_
      rw [hbands]
      exact bandsSetAct_sets (not_or.2 ⟨hview, hm⟩)
  · have hstride : stride = 0 ↔ stride.toNat = 0 := BitVec.toNat_inj.symm
    simp only [hstride]
    split_ifs with hargs
    · exact answered_refused (if_pos hargs)
    · exact answered_setView (if_neg hargs)
  · rw [← flagOf_toNat]
    split_ifs with hargs
    · exact answered_refused (if_pos hargs)
    · exact answered_setView (if_neg hargs)

end Sys2Proof.Machine
end

section
/-! PROOFS. The pixels of a view read: where each comes from, the steps that decide it, and the answer (R137 to R140). -/

namespace Sys2Proof.Machine

/-! ### The source beats a read needs (R137, R138) -/

section
variable {r : ServedRead} {p : Pin}

theorem sourceBeats_none (h : ∀ c, c ∉ insideColumns r p) : sourceBeats r p = none := by
  unfold sourceBeats
  rw [List.eq_nil_iff_forall_not_mem.2 h]
  rfl

theorem sourceBeats_some {lo hi : Nat} (hlo : lo ∈ insideColumns r p) (hhi : hi ∈ insideColumns r p)
    (h : ∀ c ∈ insideColumns r p, lo ≤ c ∧ c ≤ hi) : sourceBeats r p = some (lo / 4, hi / 4) := by
  unfold sourceBeats
  rw [leastOf_spec _ lo (fun c hc => (h c hc).1) hlo, greatestOf_spec _ hi (fun c hc => (h c hc).2) hhi]

/-- The first source beat is the least column's; there is a last one, which the forming of a pixel does not look at. -/
theorem sourceBeats_first {lo : Nat} (hlo : lo ∈ insideColumns r p) (h : ∀ c ∈ insideColumns r p, lo ≤ c) :
    ∃ last, sourceBeats r p = some (lo / 4, last) := by
  obtain ⟨hi, hhi, hmax⟩ := (insideColumns r p).toFinset.exists_max_image id ⟨lo, List.mem_toFinset.2 hlo⟩
  exact ⟨hi / 4, sourceBeats_some hlo (List.mem_toFinset.1 hhi) fun c hc => ⟨h c hc, hmax c (List.mem_toFinset.2 hc)⟩⟩

end

/-! ### Steps 2 to 4: the picture (R139) -/

section
variable {r : ServedRead} {c : FrameCopies} {j : Nat} {p : Pin}

theorem picturePixel_noFrame (h : r.pin = none ∨ r.pinLost = true) : picturePixel r c j = noFrameFill := by
  unfold picturePixel
  cases hpin : r.pin with
  | none => rfl
  | some p => exact if_pos (h.resolve_left (by simp [hpin]))

variable (hpin : r.pin = some p) (hkept : r.pinLost = false)
include hpin hkept

theorem picturePixel_outside (h : ¬(sourceRow r < p.height ∧ sourceColumn r j < p.width)) :
    picturePixel r c j = black := by
  unfold picturePixel
  simp only [hpin, hkept, Bool.false_eq_true, if_false]
  cases hspan : sourceBeats r p with
  | none => rfl
  | some span =>
    refine if_neg fun hcolumn => ?_
    have hrow : ¬sourceRow r < p.height := fun hrow => h ⟨hrow, hcolumn⟩
    rw [sourceBeats_none fun c hc => hrow ((mem_insideColumns r p c).1 hc).1] at hspan
    cases hspan

theorem picturePixel_inside {lo : Nat} (hlo : lo ∈ insideColumns r p) (hleast : ∀ c ∈ insideColumns r p, lo ≤ c)
    (hcolumn : sourceColumn r j < p.width) : picturePixel r c j =
      markClipped r c (sourcePixel r (lo / 4) (sourceColumn r j))
        (gradePixel r c (sourcePixel r (lo / 4) (sourceColumn r j))) := by
  obtain ⟨last, hspan⟩ := sourceBeats_first hlo hleast
  unfold picturePixel
  simp only [hpin, hkept, hspan, Bool.false_eq_true, if_false]
  exact if_pos hcolumn

end

/-- The codes of a source pixel stand in its beat of 16-bit fields, eight bytes a pixel (Section 12.4). -/
theorem sourcePixel_eq (r : ServedRead) (first x : Nat) :
    let beat := ((sourceData r)[x / 4 - first]?.map (fun b => b.data.toNat)).getD 0
    let code := fun (i : Nat) => beat / 2 ^ (8 * (8 * (x % 4) + i)) % 65536
    sourcePixel r first x = { r := code 0, g := code 2, b := code 4 } := by
  unfold sourcePixel rasterPixel
  simp only [beatField_eq]
  cases (sourceData r)[x / 4 - first]? <;> rfl

/-! ### Step 3: the grading of a source pixel (R139) -/

section
variable {r : ServedRead} {c : FrameCopies} (x : Rgb Nat)

theorem gradePixel_zones (h : r.settings.zones = true) : gradePixel r c x = zoneColour c.zones x :=
  if_pos h

variable (h : r.settings.zones = false)
include h

/-- The first band that holds the read's row decides. -/
theorem gradePixel_band {before behind : List BandCopy} {b : BandCopy} (hl : c.bands = before ++ b :: behind)
    (hbefore : ∀ y ∈ before, ¬(y.first ≤ r.row ∧ r.row ≤ y.last)) (hb : b.first ≤ r.row ∧ r.row ≤ b.last) :
    gradePixel r c x = (b.look.map (fun l => graded l x)).getD (outputs x) := by
  have hfind : c.bands.find? (fun b => decide (b.first ≤ r.row ∧ r.row ≤ b.last)) = some b := by
    rw [hl]
    exact find?_of_first (fun y hy => by simpa using hbefore y hy) (decide_eq_true hb)
  unfold gradePixel
  simp only [h, hfind, Bool.false_eq_true, if_false]
  cases b.look <;> rfl

theorem gradePixel_noBand (hnone : ∀ y ∈ c.bands, ¬(y.first ≤ r.row ∧ r.row ≤ y.last)) :
    gradePixel r c x =
      if r.settings.outsideBlack = true then black
      else (c.lookB.map (fun l => blend (graded c.lookA x) (graded l x) r.mix.m)).getD (graded c.lookA x) := by
  have hfind : c.bands.find? (fun b => decide (b.first ≤ r.row ∧ r.row ≤ b.last)) = none :=
    List.find?_eq_none.2 fun y hy => by simpa using hnone y hy
  unfold gradePixel
  simp only [h, hfind, Bool.false_eq_true, if_false]
  cases c.lookB <;> rfl

end

/-! ### Step 5: the overlay (R139) -/

theorem inStrip_iff (c : FrameCopies) (row : Nat) :
    inStrip c row = true ↔ ∃ t ∈ c.strips, t.start ≤ row ∧ row < t.start + t.count := by
  unfold inStrip
  simp only [List.any_eq_true, decide_eq_true_eq]

theorem overlayWord_eq (r : ServedRead) (j : Nat) :
    overlayWord r j = ((overlayData r)[(j - r.column) / 8]?.map
      (fun b => b.data.toNat / 2 ^ (32 * ((j - r.column) % 8)) % 2 ^ 32)).getD 0 := by
  unfold overlayWord
  rw [beatField_eq, ← Nat.mul_assoc]
  cases (overlayData r)[(j - r.column) / 8]? <;> simp

theorem overlayWord_lt (r : ServedRead) (j : Nat) : overlayWord r j < 2 ^ 32 :=
  Nat.mod_lt _ (by decide)

/-- The top bit of an overlay pixel makes it opaque. -/
theorem overlayPixel_eq (r : ServedRead) (c : FrameCopies) (j : Nat) (p : Rgb Nat) : overlayPixel r c j p =
    if inStrip c r.row = true ∧ 2 ^ 31 ≤ overlayWord r j then unpackPixel (overlayWord r j) else p := by
  have hlt := overlayWord_lt r j
  have hopaque : overlayWord r j / 2147483648 % 2 = 1 ↔ 2 ^ 31 ≤ overlayWord r j := by omega
  unfold overlayPixel
  simp only [hopaque]

/-! ### The steps in order (R139, R140) -/

section
variable {r : ServedRead} {j : Nat}

theorem outputPixel_padding (h : r.width ≤ j) : outputPixel r j = black :=
  if_pos h

variable (hwidth : j < r.width)
include hwidth

theorem outputPixel_off (h : r.settings.on = false) : outputPixel r j = black :=
  (if_neg hwidth.not_ge).trans (if_pos h)

variable (hon : r.settings.on = true)
include hon

theorem outputPixel_failed (h : fetchFailed r = true) : outputPixel r j = noFrameFill :=
  (if_neg hwidth.not_ge).trans ((if_neg (by simp [hon])).trans (if_pos h))

theorem outputPixel_live {c : FrameCopies} (h : ¬fetchFailed r = true) (hc : r.copies = some c) :
    outputPixel r j = overlayPixel r c j (picturePixel r c j) := by
  unfold outputPixel
  rw [if_neg hwidth.not_ge, if_neg (by simp [hon]), if_neg h, hc]

end

/-! ### The answer (R137, R138, Section 12.4) -/

theorem packPixel_lt (p : Rgb Nat) : packPixel p < 2 ^ 32 := by
  unfold packPixel
  omega

/-- Pixel k of an answer's beat stands in its own 32 bits. -/
theorem answerBeat_pixel (r : ServedRead) (i : Nat) {k : Nat} (hk : k < 8) :
    (answerBeat r i).data.toNat / 2 ^ (32 * k) % 2 ^ 32 = packPixel (outputPixel r (r.column + 8 * i + k)) := by
  have hword := packedWord_at (fun k => packPixel (outputPixel r (r.column + 8 * i + k))) (fun k => packPixel_lt _) 8 k hk
  have hsplit : 2 ^ 256 = 2 ^ (32 * k) * 2 ^ (256 - 32 * k) := by
    rw [← pow_add]
    congr 1
    omega
  have hdvd : 2 ^ 32 ∣ 2 ^ (256 - 32 * k) := pow_dvd_pow 2 (by omega)
  unfold answerBeat
  rw [BitVec.toNat_ofNat, hsplit, Nat.mod_mul_right_div_self, Nat.mod_mod_of_dvd _ hdvd, hword]

theorem answerRead_getElem? {r : ServedRead} {i : Nat} {b : ReadBeat} (h : (answerRead r)[i]? = some b) :
    b = answerBeat r i := by
  unfold answerRead at h
  rw [List.getElem?_map, Option.map_eq_some_iff] at h
  obtain ⟨n, hn, rfl⟩ := h
  obtain ⟨-, rfl⟩ := List.getElem?_eq_some_iff.1 hn
  rw [List.getElem_range]

/-- Settles O45: the steps of R139 in order, and then the packing of the pixels. -/
theorem viewPixelsAreFormedByTheSteps : Obligations.ViewPixelsAreFormedByTheSteps := by
  unfold Obligations.ViewPixelsAreFormedByTheSteps
  intro r j fill dark failed row column inStrip' word overlaid out live inBand
  have hfailed : fetchFailed r = true ↔ failed := fetchFailed_iff r
  have hstrip : ∀ c, inStrip c r.row = true ↔ inStrip' c := fun c => inStrip_iff c r.row
  have hword : overlayWord r j = word := overlayWord_eq r j
  have hoverlaid : ∀ c p, live → r.copies = some c → picturePixel r c j = p → overlaid c p out := by
    rintro c p ⟨hwidth, hon, hgood⟩ hc rfl
    have hout : out = _ := (outputPixel_live hwidth hon (mt hfailed.1 hgood) hc).trans (overlayPixel_eq r c j _)
    simp only [hstrip, hword] at hout
    exact ⟨fun hin hopaque => hout.trans (if_pos ⟨hin, hopaque⟩), fun h => hout.trans (if_neg h)⟩
  refine ⟨outputPixel_padding, outputPixel_off, fun hwidth hon hbad => outputPixel_failed hwidth hon (hfailed.2 hbad),
    fun c hlive hc hno => hoverlaid c fill hlive hc (picturePixel_noFrame hno),
    fun c p hlive hc hpin hkept hout => hoverlaid c dark hlive hc (picturePixel_outside hpin hkept hout), ?_,
    by simp [answerRead], fun i k b hb hk => ?_⟩
  · intro c p first n hlive hc hpin hkept hrow hcolumn hfrom hto hneed hleast hfirst beat code x
    subst hfirst
    have hmem : n ∈ insideColumns r p := by
      obtain ⟨i, hi1, hi2, hi3, hi4, rfl⟩ := hneed
      exact (mem_insideColumns r p _).2 ⟨hrow, i, hi1, hi2, hi3, rfl, hi4⟩
    have hmin : ∀ c ∈ insideColumns r p, n ≤ c := by
      intro c hc
      obtain ⟨-, i, hi1, hi2, hi3, rfl, hi4⟩ := (mem_insideColumns r p c).1 hc
      exact hleast i hi1 hi2 hi3 hi4
    have hx : sourcePixel r (n / 4) (column j) = x := sourcePixel_eq r (n / 4) (column j)
    have hpicture : picturePixel r c j = markClipped r c x (gradePixel r c x) := by
      rw [← hx]
      exact picturePixel_inside hpin hkept hmem hmin hcolumn
    refine ⟨gradePixel r c x, gradePixel_zones x, fun before b behind hz hl hbefore hb => ?_, fun hz hnone => ?_,
      fun hmark => hoverlaid c _ hlive hc (hpicture.trans (if_pos hmark)),
      fun hmark => hoverlaid c _ hlive hc (hpicture.trans (if_neg hmark))⟩
    · rw [gradePixel_band x hz hl hbefore hb]
      exact ⟨fun l hlook => by rw [hlook]; rfl, fun hlook => by rw [hlook]; rfl⟩
    · rw [gradePixel_noBand x hz hnone]
      refine ⟨fun hblack => if_pos hblack, fun hblack hlook => ?_, fun l hblack hlook => ?_⟩ <;>
        rw [if_neg (by simp [hblack]), hlook] <;> rfl
  · obtain rfl := answerRead_getElem? hb
    exact ⟨rfl, answerBeat_pixel r i hk⟩

end Sys2Proof.Machine
end

section
/-! PROOFS. The display frame boundary: its steps in order, and the pin it chooses (R132 to R135). -/

namespace Sys2Proof.Machine

/-! ### What is told of one step -/

/-- A state told of is the written-out one but for CIR's own state and the background queue. -/
theorem SameButReports.eq {x t : State} (h : SameButReports x t) :
    t = (x.withCir t.cir).withTu { x.tu with background := t.tu.background } := by
  unfold SameButReports at h
  rw [← h]
  rfl

theorem setView_viewAt {s : State} {v : Nat} (hv : v < s.ve.length) : setView v (viewAt s v) s = s := by
  unfold setView
  rw [viewAt_eq_getElem hv, List.set_getElem_self]
  rfl

/-- The report of a boundary that drops bands or strips: once, until a boundary drops none (R135). -/
def dropReport (v : Nat) (kind : ViewKind) (x : View) (kept present : Nat) (reported : Bool) : List ReportBody :=
  if kept < present ∧ reported = false then [.view v kind x.frameCount x.pin kept] else []

/-- The ARRIVED report of a boundary, if the move arrived (R154). -/
def arrivedReport (v : Nat) (x : View) (arrived : Option Nat) : List ReportBody :=
  (arrived.map fun f => .view v .arrived x.frameCount x.pin f).toList

section
variable {s t B : State} {l : List ReportBody} (h : Told s t l B) {v : Nat} (height : Nat)
include h

theorem Told.setMotion (m : Motion) : Told s (setMotion v m t) l (setMotion v m B) := by
  refine h.after rfl rfl ?_
  rw [h.effect.eq]
  exact rfl

variable (htime : B.time = s.time) (hlen : B.ve.length = s.ve.length) (hv : v < s.ve.length)
include htime hlen hv

/-- The rule of R135 for one reported flag, which the views y differ in. -/
theorem Told.validate (kind : ViewKind) (y : Bool → View) (reported : Bool) {kept present : Nat}
    (hview : viewAt B v = y reported) (hframe : (y true).frameCount = (y reported).frameCount)
    (hpin : (y true).pin = (y reported).pin) (hle : kept ≤ present) :
    Told s
      (if kept = present then setView v (y false) t
        else if reported = true then t else reportView v kind kept (setView v (y true) t))
      (l ++ dropReport v kind (y reported) kept present reported) (setView v (y (decide (kept < present))) B) := by
  have hv' : v < B.ve.length := by rwa [hlen]
  unfold dropReport
  by_cases hkept : kept = present
  · have hlt : ¬kept < present := hkept.not_lt
    rw [if_pos hkept, if_neg (fun hd => hlt hd.1), decide_eq_false hlt, List.append_nil]
    exact told_setView h hlen v _
  · have hlt : kept < present := lt_of_le_of_ne hle hkept
    rw [if_neg hkept, decide_eq_true hlt]
    cases reported with
    | true =>
      rw [if_pos rfl, if_neg (by simp), ← hview, setView_viewAt hv', List.append_nil]
      exact h
    | false =>
      have hreport := told_reportView (told_setView h hlen v (y true)) htime v kind kept
      rw [viewAt_setView_same _ hv', hframe, hpin] at hreport
      rw [if_neg Bool.false_ne_true, if_pos ⟨hlt, rfl⟩]
      exact hreport

end

/-! ### The steps, one by one (R132) -/

/-- A view with its look mix reset when the mix reset mark is set, and stepped otherwise (R133). -/
def mixedView (x : View) : View :=
  { x with
    mix := if x.mixReset = true then Mix.reset else stepMix x.mix x.current.primary x.current.rate
    mixReset := false }

theorem mixStep_eq (v : Nat) (s : State) : mixStep v s = setView v (mixedView (viewAt s v)) s := by
  unfold mixStep mixedView
  dsimp only
  by_cases hreset : (viewAt s v).mixReset = true
  · rw [if_pos hreset, if_pos hreset]
  · rw [if_neg hreset, if_neg hreset, ← Bool.eq_false_iff.2 hreset]

theorem keptBands_length_le (height : Nat) (l : List Band) : (keptBands height l).length ≤ l.length := by
  unfold keptBands
  cases l with
  | nil => exact le_rfl
  | cons b rest =>
    dsimp only
    split_ifs
    · exact Nat.succ_le_succ (List.length_filter_le ..)
    · exact Nat.zero_le _

theorem presentStrips_length (y : Settings) : (presentStrips y).length =
    (if y.strip1.count = 0 then 0 else 1) + (if y.strip2.count = 0 then 0 else 1) := by
  unfold presentStrips
  by_cases h1 : y.strip1.count = 0 <;> by_cases h2 : y.strip2.count = 0 <;> simp [h1, h2, Nat.pos_iff_ne_zero]

theorem keptStrips_length_le (height : Nat) (y : Settings) : (keptStrips height y).length ≤ (presentStrips y).length := by
  rw [keptStrips_spec, presentStrips_length]
  split_ifs <;> simp_all

section
variable {s t B : State} {l : List ReportBody} (h : Told s t l B) {v : Nat} (height : Nat)
variable (htime : B.time = s.time) (hlen : B.ve.length = s.ve.length) (hv : v < s.ve.length)
include h htime hlen hv

theorem Told.validateBands (x : View) (hx : viewAt B v = x) :
    Told s (validateBands v height t)
      (l ++ dropReport v .bandsClamped x (keptBands height x.current.bands).length x.current.bands.length x.bandsReported)
      (setView v { x with
        bandsReported := decide ((keptBands height x.current.bands).length < x.current.bands.length) } B) := by
  subst hx
  unfold Machine.validateBands
  rw [told_viewAt h]
  exact h.validate htime hlen hv .bandsClamped (fun b => { viewAt B v with bandsReported := b }) _ rfl rfl rfl
    (keptBands_length_le ..)

theorem Told.validateStrips (x : View) (hx : viewAt B v = x) :
    Told s (validateStrips v height t)
      (l ++ dropReport v .overlayClamped x (keptStrips height x.current).length (presentStrips x.current).length
        x.overlayReported)
      (setView v { x with
        overlayReported := decide ((keptStrips height x.current).length < (presentStrips x.current).length) } B) := by
  subst hx
  unfold Machine.validateStrips
  rw [told_viewAt h]
  exact h.validate htime hlen hv .overlayClamped (fun b => { viewAt B v with overlayReported := b }) _ rfl rfl rfl
    (keptStrips_length_le ..)

omit htime hv in
theorem Told.mixStep : Told s (mixStep v t) l (setView v (mixedView (viewAt B v)) B) := by
  rw [mixStep_eq, told_viewAt h]
  exact told_setView h hlen v _

omit hlen hv in
theorem Told.shuttleStep (x : View) (hx : viewAt B v = x) :
    let r := boundaryMotion B x.current.camera (motionAt B v)
    Told s (shuttleStep v t) (l ++ arrivedReport v x r.2) (Machine.setMotion v r.1 B) := by
  intro r
  subst hx
  have hmotion : boundaryMotion t (viewAt t v).current.camera (motionAt t v) = r := by
    rw [h.effect.eq]
    rfl
  unfold Machine.shuttleStep arrivedReport
  rw [hmotion]
  clear_value r
  obtain ⟨m, arrived⟩ := r
  cases arrived with
  | none => simpa using h.setMotion m
  | some f => exact told_reportView (h.setMotion m) htime v .arrived f

omit htime hv in
theorem Told.pinStep : Told s (pinStep v height t) l
    (setView v { viewAt B v with pin := choosePin B v, copies := some (takeCopies B v height) } B) := by
  have hpin : choosePin t v = choosePin B v := by
    rw [h.effect.eq]
    rfl
  have hcopies : takeCopies t v height = takeCopies B v height := by
    rw [h.effect.eq]
    rfl
  unfold Machine.pinStep
  rw [told_viewAt h, hpin, hcopies]
  exact told_setView h hlen v _

end

/-! ### The boundary whole (R132) -/

/-- A view at the start of a display frame, its pending settings current (R132). -/
def startedView (x : View) : View :=
  { x with frameCount := wrap32 x.frameCount 1, current := x.pending }

/-- A view as step 1 of a boundary leaves it: started, and its drops noted (R135). -/
def begunView (height : Nat) (x : View) : View :=
  { startedView x with
    bandsReported := decide ((keptBands height x.pending.bands).length < x.pending.bands.length)
    overlayReported := decide ((keptStrips height x.pending).length < (presentStrips x.pending).length) }

/-- The reports of step 1 of a boundary (R135). -/
def beginReports (v height : Nat) (x : View) : List ReportBody :=
  dropReport v .bandsClamped (startedView x) (keptBands height x.pending.bands).length x.pending.bands.length
      x.bandsReported ++
    dropReport v .overlayClamped (startedView x) (keptStrips height x.pending).length
      (presentStrips x.pending).length x.overlayReported

/-- The state in which a boundary chooses its pin and takes its copies: steps 1 to 3 done, the reports apart (R132). -/
def steppedState (v height : Nat) (s : State) : State :=
  setMotion v (boundaryMotion s (viewAt s v).pending.camera (motionAt s v)).1
    (setView v (mixedView (begunView height (viewAt s v))) s)

section
variable {s : State} {v : Nat} (height : Nat) (hv : v < s.ve.length)
include hv

theorem told_beginFrame : Told s (beginFrame v height s) (beginReports v height (viewAt s v))
    (setView v (begunView height (viewAt s v)) s) := by
  have hset : ∀ y, (setView v y s).ve.length = s.ve.length := fun y => List.length_set ..
  have hcount : Told s (setView v (startedView (viewAt s v)) s) [] (setView v (startedView (viewAt s v)) s) :=
    told_quiet rfl rfl rfl
  have hbands := hcount.validateBands height rfl (hset _) hv _ (viewAt_setView_same _ hv)
  have hstrips := hbands.validateStrips height rfl (by rw [setView_setView, hset]) hv _
    (by rw [setView_setView, viewAt_setView_same _ hv])
  rw [setView_setView, setView_setView] at hstrips
  exact hstrips

theorem told_takeBoundary : Told s (takeBoundary v height s)
    (beginReports v height (viewAt s v) ++ arrivedReport v (startedView (viewAt s v))
      (boundaryMotion s (viewAt s v).pending.camera (motionAt s v)).2)
    (setView v { viewAt (steppedState v height s) v with
      pin := choosePin (steppedState v height s) v, copies := some (takeCopies (steppedState v height s) v height) }
      (steppedState v height s)) := by
  have hset : ∀ y, (setView v y s).ve.length = s.ve.length := fun y => List.length_set ..
  have hmix := (told_beginFrame height hv).mixStep (v := v) (hset _)
  rw [setView_setView, viewAt_setView_same _ hv] at hmix
  have hshuttle := hmix.shuttleStep rfl _ (viewAt_setView_same _ hv)
  exact hshuttle.pinStep height (hset _)

end

theorem setView_steppedState (v height : Nat) (s : State) (x : View) : setView v x (steppedState v height s) =
    (s.withVe (s.ve.set v x)).withSh
      (s.sh.set v (boundaryMotion s (viewAt s v).pending.camera (motionAt s v)).1) := by
  unfold steppedState setMotion setView
  simp only [State.withSh_ve, State.withVe_ve, List.set_set]
  rfl

/-! ### The pin (R134) -/

theorem motionAt_setMotion_same {s : State} {v : Nat} (m : Motion) (hv : v < s.sh.length) :
    motionAt (setMotion v m s) v = m := by
  unfold motionAt setMotion
  rw [State.withSh_sh, List.getD_eq_getElem _ _ (by simpa using hv), List.getElem_set_self]

section
variable {s : State} {v n : Nat} {x : View} (hx : viewAt s v = x)
include hx

theorem choosePin_off (h : x.current.on = false ∨ s.fiu.pool = none) : choosePin s v = none := by
  subst hx
  exact if_pos (h.imp_right Option.isNone_iff_eq_none.2)

variable (hon : ¬(x.current.on = false ∨ s.fiu.pool = none)) (hn : (motionAt s v).position / 256 = n)
include hon hn

/-- R134's three choices in order: the frame itself, the greatest frame below it, the previous pin. -/
theorem choosePin_on : choosePin s v =
    (((exactSlot s x.current.camera n).orElse fun _ => lowerSlot s x.current.camera n).map (pinOf s)).orElse
      fun _ => previousPin s x.pin := by
  subst hx hn
  unfold choosePin
  dsimp only
  rw [if_neg (mt (Or.imp_right Option.isNone_iff_eq_none.1) hon)]
  cases exactSlot s (viewAt s v).current.camera ((motionAt s v).position / 256) with
  | some k => rfl
  | none => cases lowerSlot s (viewAt s v).current.camera ((motionAt s v).position / 256) <;> rfl

theorem choosePin_exact {k : Nat} (h : exactSlot s x.current.camera n = some k) : choosePin s v = some (pinOf s k) := by
  rw [choosePin_on hx hon hn, h]
  rfl

variable (hexact : exactSlot s x.current.camera n = none)
include hexact

theorem choosePin_lower {k : Nat} (h : lowerSlot s x.current.camera n = some k) : choosePin s v = some (pinOf s k) := by
  rw [choosePin_on hx hon hn, hexact, h]
  rfl

theorem choosePin_previous (h : lowerSlot s x.current.camera n = none) : choosePin s v = previousPin s x.pin := by
  rw [choosePin_on hx hon hn, hexact, h]
  rfl

end

/-- Whether a pin's slot is still COMPLETE with the generation it had (R134). -/
def PinKept (s : State) (p : Pin) : Prop :=
  (frameSlotAt s p.slot).state = .complete ∧ (frameSlotAt s p.slot).generation = p.generation

section
variable {s : State} {o : Option Pin}

theorem previousPin_kept {p : Pin} (ho : o = some p) (h : PinKept s p) : previousPin s o = some p := by
  obtain ⟨hstate, hgeneration⟩ := h
  subst ho
  simp [previousPin, hstate, hgeneration]

theorem previousPin_lost (h : ∀ p, o = some p → ¬PinKept s p) : previousPin s o = none := by
  unfold previousPin
  rw [Option.filter_eq_none_iff]
  intro p hp
  have hlost := h p hp
  unfold PinKept at hlost
  simpa using hlost

end

theorem dropReport_spec (v : Nat) (kind : ViewKind) (x : View) (kept present : Nat) (reported : Bool) :
    (kept < present → reported = false →
      dropReport v kind x kept present reported = [.view v kind x.frameCount x.pin kept]) ∧
    (¬(kept < present ∧ reported = false) → dropReport v kind x kept present reported = []) :=
  ⟨fun hdrop hfirst => if_pos ⟨hdrop, hfirst⟩, fun h => if_neg h⟩

/-- Settles O42: the five steps of R132 in order, with the pin by R134's three choices. -/
theorem displayFrameBoundaryActsInOrder : Obligations.DisplayFrameBoundaryActsInOrder := by
  unfold Obligations.DisplayFrameBoundaryActsInOrder
  intro s v h hv hve hsh hlen x y n fits bands second strips present bandsDrop stripsDrop p q none0 ramp mix r shown
    frame ready pinned hasExact hasLower kept off look copies drops
  have hv' : v < s.ve.length := by omega
  have hbands : keptBands h y.bands = bands := keptBands_spec h y.bands hlen
  have hstrips : keptStrips h y = strips := keptStrips_spec h y
  have hpresent : (presentStrips y).length = present := presentStrips_length y
  have hmix : (mixedView (begunView h x)).mix = mix := by
    change (if x.mixReset = true then Mix.reset else stepMix x.mix p q) = mix
    rw [stepMix_spec]
    rfl
  have hview : viewAt (steppedState v h s) v = mixedView (begunView h x) := viewAt_setView_same _ hv'
  have hshown : (motionAt (steppedState v h s) v).position / 256 = shown := by
    rw [show motionAt (steppedState v h s) v = r.1 from motionAt_setMotion_same _ (hsh.symm ▸ hv)]
  refine ⟨choosePin (steppedState v h s) v, dropReport v .bandsClamped (startedView x) bands.length y.bands.length
    x.bandsReported, dropReport v .overlayClamped (startedView x) strips.length present x.overlayReported,
    dropReport_spec .., dropReport_spec .., choosePin_off hview, fun k hon hk hframe hfirst => ?_,
    fun k hon hnone hk hframe hgreatest hfirst => ?_, fun p hon hnone hno hp hkept => ?_,
    fun hon hnone hno hlost => ?_, ?_⟩
  · exact choosePin_exact hview hon hshown (exactSlot_some _ _ _ k hk hframe hfirst)
  · exact choosePin_lower hview hon hshown (exactSlot_none _ _ _ hnone) (lowerSlot_some _ _ _ k hk hframe hgreatest hfirst)
  · exact (choosePin_previous hview hon hshown (exactSlot_none _ _ _ hnone) (lowerSlot_none _ _ _ hno)).trans
      (previousPin_kept hp hkept)
  · exact (choosePin_previous hview hon hshown (exactSlot_none _ _ _ hnone) (lowerSlot_none _ _ _ hno)).trans
      (previousPin_lost hlost)
  · have hcopies : takeCopies (steppedState v h s) v h = copies := by
      unfold takeCopies
      rw [hview]
      dsimp only
      rw [hmix, show (mixedView (begunView h x)).current = y from rfl, hbands, hstrips]
      rfl
    have hleft : ({ mixedView (begunView h x) with
          pin := choosePin (steppedState v h s) v, copies := some copies } : View) =
        { x with
          current := y, frameCount := n, mix := (mixedView (begunView h x)).mix, mixReset := false
          pin := choosePin (steppedState v h s) v, copies := some copies
          bandsReported := decide ((keptBands h y.bands).length < y.bands.length)
          overlayReported := decide ((keptStrips h y).length < (presentStrips y).length) } := rfl
    have hbegin : beginReports v h x =
        dropReport v .bandsClamped (startedView x) (keptBands h y.bands).length y.bands.length x.bandsReported ++
          dropReport v .overlayClamped (startedView x) (keptStrips h y).length (presentStrips y).length
            x.overlayReported := rfl
    have harrived : ∀ a, arrivedReport v (startedView x) a =
        match a with | none => [] | some f => [.view v .arrived n x.pin f] := by
      rintro (_ | f) <;> rfl
    rw [hmix, hbands, hstrips, hpresent] at hleft
    rw [hbands, hstrips, hpresent] at hbegin
    have htold := told_takeBoundary h hv'
    rw [hview, hcopies, hleft, hbegin, harrived, setView_steppedState] at htold
    exact htold

end Sys2Proof.Machine
end

section
/-! PROOFS. A view read latched and served: its own reads, and where they go (R132, R136, R138). -/

namespace Sys2Proof.Machine

/-! ### The view as a read latches it (R136) -/

section
variable {s : State} {v : Nat} (hv : v < s.ve.length)
include hv

theorem takeBoundary_ve_length (height : Nat) : (takeBoundary v height s).ve.length = s.ve.length := by
  obtain ⟨-, -, -, -, -, -, -, hve, -⟩ := (told_takeBoundary height hv).effect.fields
  rw [hve, setView_steppedState]
  exact List.length_set ..

/-- There are as many views whether or not a boundary is made first. -/
theorem boundaryFirst_ve_length (p : Prop) [Decidable p] (height : Nat) :
    (if p then takeBoundary v height s else s).ve.length = s.ve.length := by
  split_ifs
  · exact takeBoundary_ve_length hv height
  · rfl

end

/-! ### The own reads of a latched read (R138) -/

section
variable {s : State} {r : ServedRead} {p : Pin}

theorem slotBase_eq (s : State) (k : Nat) : slotBase s k =
    (s.fiu.pool.map (fun p => p.base)).getD 0 + k * (s.fiu.pool.map (fun p => p.size)).getD 0 := by
  unfold slotBase
  cases s.fiu.pool <;> simp

theorem overlayReads_length_le (r : ServedRead) : (overlayReads r).length ≤ 1 := by
  unfold overlayReads
  repeat' split
  all_goals simp

theorem issuedReads_off (h : r.settings.on = false) : issuedReads s r = [] :=
  if_neg (by simp [h])

theorem issuedReads_noSource (hon : r.settings.on = true) (h : ∀ p, r.pin = some p → ∀ c, c ∉ insideColumns r p) :
    issuedReads s r = overlayReads r := by
  unfold issuedReads sourceReads
  rw [if_pos hon]
  cases hpin : r.pin with
  | none => rfl
  | some p => simp only [sourceBeats_none (h p hpin), List.nil_append]

theorem issuedReads_source {lo hi : Nat} (hon : r.settings.on = true) (hpin : r.pin = some p)
    (hlo : lo ∈ insideColumns r p) (hhi : hi ∈ insideColumns r p) (h : ∀ c ∈ insideColumns r p, lo ≤ c ∧ c ≤ hi) :
    issuedReads s r =
      cutReads (slotBase s p.slot + 256 + sourceRow r * p.stride + 32 * (lo / 4)) (hi / 4 - lo / 4 + 1) ++
        overlayReads r := by
  unfold issuedReads sourceReads
  simp only [if_pos hon, hpin, sourceBeats_some hlo hhi h]

/-- The source columns of one read of at most 16 beats, at a decimation of at most 4, lie within 508 of each other. -/
theorem sourceColumn_le (hbeats : r.beats ≤ 16) (hd : r.settings.decimation ≤ 4) {i j : Nat}
    (hi : i ∈ viewColumns r) (hj : j ∈ viewColumns r) : sourceColumn r i ≤ sourceColumn r j + 508 := by
  rw [mem_viewColumns] at hi hj
  unfold sourceColumn
  have hscaled : ∀ a b : Nat, a ≤ b + 127 →
      r.settings.x0 + r.settings.decimation * a ≤ r.settings.x0 + r.settings.decimation * b + 508 := fun a b hab => by
    calc r.settings.x0 + r.settings.decimation * a
        ≤ r.settings.x0 + r.settings.decimation * (b + 127) := by gcongr
      _ = r.settings.x0 + r.settings.decimation * b + r.settings.decimation * 127 := by ring
      _ ≤ r.settings.x0 + r.settings.decimation * b + 508 := by omega
  split_ifs <;> exact hscaled _ _ (by omega)

end

/-! ### A latched read served (R138) -/

theorem serveRead_eq {v : Nat} {r : ServedRead} {s : State} {own : List OwnRead} (hown : issuedReads s r = own)
    (hr : r.reads = []) : serveRead v r s =
      if own = [] then setAnswer r.tag (.read (answerRead r)) s
      else
        let t := setView v { viewAt s v with reads := (viewAt s v).reads ++ [{ r with reads := own }] } s
        t.withTu { t.tu with arrival := t.tu.arrival ++ (List.range own.length).map (ArrivalItem.viewRead r.tag) } := by
  subst hown
  unfold serveRead
  by_cases hnone : issuedReads s r = []
  · have hq : ({ r with reads := [] } : ServedRead) = r := by rw [← hr]
    simp only [hnone, hq, List.isEmpty_nil, if_true]
  · simp only [List.isEmpty_iff, hnone, if_false]

/-- Settles O43: the boundary first, then the latch, then the own reads by what of the pinned frame is needed. -/
theorem viewReadsAreLatchedAndServed : Obligations.ViewReadsAreLatchedAndServed := by
  unfold Obligations.ViewReadsAreLatchedAndServed
  intro s v tag row column beats w hv t x u set y column_ needs poolBase slotSize r overlay served
  have ht : v < t.ve.length := by
    rw [show t.ve.length = s.ve.length from boundaryFirst_ve_length hv _ _]
    exact hv
  have hview : viewAt u v = { x with lastRow := some row } := viewAt_setView_same _ ht
  have hserved : ∀ own, issuedReads u r = own → served own := by
    intro own hown
    have hread : viewRead v tag row column beats w s = serveRead v r u := by
      change serveRead v (latchRead (viewAt u v) w tag row column beats) u = _
      rw [hview]
      rfl
    change viewRead v tag row column beats w s = _
    rw [hread, serveRead_eq hown rfl, hview]
    rfl
  have hneeds : ∀ p c, c ∈ insideColumns r p ↔ needs p c := mem_insideColumns r
  have hnoSource : set.on = true → (∀ p, x.pin = some p → ∀ c, ¬needs p c) → served overlay := fun hon h =>
    hserved _ (issuedReads_noSource (r := r) hon fun p hp c hc => h p hp c ((hneeds p c).1 hc))
  refine ⟨fun hoff => hserved _ (issuedReads_off hoff), fun hon hpin => hnoSource hon fun p hp => ?_,
    fun p hon hpin hno => hnoSource hon fun q hq => ?_, fun p lo hi hon hpin hlo hhi hrange => ?_⟩
  · cases hpin.symm.trans hp
  · cases hpin.symm.trans hq
    exact hno
  · intro n a source
    have hissued := issuedReads_source (s := u) (r := r) (p := p) hon hpin ((hneeds p lo).2 hlo) ((hneeds p hi).2 hhi)
      fun c hc => hrange c ((hneeds p c).1 hc)
    rw [slotBase_eq] at hissued
    refine ⟨hserved _ hissued, fun hbeats hd => ?_⟩
    have hspan : hi ≤ lo + 508 := by
      obtain ⟨-, i, hi1, hi2, hi3, hcol, -⟩ := hhi
      obtain ⟨-, j, hj1, hj2, hj3, hcol', -⟩ := hlo
      rw [hcol, hcol']
      exact sourceColumn_le (r := r) hbeats hd ((mem_viewColumns r i).2 ⟨hi1, hi2, hi3⟩)
        ((mem_viewColumns r j).2 ⟨hj1, hj2, hj3⟩)
    have hle : lo ≤ hi := (hrange lo hlo).2
    have hn : n ≤ 128 := by omega
    refine ⟨hn, ?_⟩
    have hcut : source.length = (n + 15) / 16 := by simp [source]
    have hone : overlay.length ≤ 1 := overlayReads_length_le r
    rw [List.length_append, hcut]
    omega

end Sys2Proof.Machine
end

section
/-! PROOFS. The motion contexts: what every move keeps of them (R145 to R158). -/

namespace Sys2Proof.Machine

/-- An update that touches neither the motion contexts nor a unit that holds frame numbers keeps the law. -/
theorem ShuttleLaw.of_units {s t : State} (h : ShuttleLaw s) (hsh : t.sh = s.sh) (hf : t.fiu = s.fiu) (hc : t.ctu = s.ctu)
    (hl : t.fl = s.fl) : ShuttleLaw t :=
  h.keep hsh (h.numbers.of_eq hf hc hl)

/-- A hard reset leaves the units that the law names as they are at reset (R30, R158). -/
theorem hardReset_shuttles (n : Nat) (s : State) : ShuttleLaw (hardReset n s) :=
  reset_shuttles.of_units rfl rfl rfl rfl

/-- ENGINE_RESET puts each motion context at rest where it stands (R158). -/
theorem engineResetAct_shuttles {s : State} (h : ShuttleLaw s) : ShuttleLaw (engineResetAct s).1 where
  motions m hm := by
    have hsh : (engineResetAct s).1.sh = s.sh.map resetMotion := by simp [engineResetAct, resetUnits]
    rw [hsh] at hm
    obtain ⟨x, hx, rfl⟩ := List.mem_map.1 hm
    exact resetMotion_law (h.motions x hx)
  numbers := engineResetAct_numbers h.numbers

theorem actAndReport_shuttles (k : Nat) (e : PanelEvent) (x : Option Nat) (s : State) (h : ShuttleLaw s) :
    ShuttleLaw (actAndReport k e x s) :=
  createReport_shuttle (doAction_shuttle h)

/-- Every move keeps the law of the motion contexts: the SHUTTLE commands, the display frame boundary, a key's action and a
detent change one context, each within its range and short of its target; ENGINE_RESET puts both at rest; a fault, a frame
and the pairing of frames carry a frame number of 32 bits; and the other moves touch none of them. -/
theorem move_shuttles {s t : State} (m : Move s t) (h : ShuttleLaw s) : ShuttleLaw t := by
  cases m with
  | hardReset n => exact hardReset_shuttles n s
  | engineReset => exact engineResetAct_shuttles h
  | shuttleProfile v p => exact profile_law h
  | shuttleGo v n d => exact goAct_law h
  | shuttleStop v => exact motionAct_law h fun _ => stop_law
  | shuttleHold v => exact motionAct_law h fun _ => hold_law
  | shuttleRelease v => exact motionAct_law h fun _ => release_law
  | shuttleLocate v n _ hn => exact motionAct_law h fun _ hm => locateMotion_law hm hn
  | viewRead v t r c b w => exact viewRead_shuttle h
  | keyPress k => exact keyPress_keeps (fun _ _ hu => hu.of_units rfl rfl rfl rfl) actAndReport_shuttles k h
  | keyRepeat k => exact keyRepeat_keeps (fun _ _ hu => hu.of_units rfl rfl rfl rfl) actAndReport_shuttles k h
  | jogSample p => exact jogSample_shuttle h
  | poolSet b c n => exact h.keep (by simp) (poolSetAct_numbers b c n h.numbers)
  | endStream i o a => exact h.keep (by simp) (endStream_numbers i o a none h.numbers)
  | streamBeat i a d st l => exact h.keep (by simp) (streamBeat_numbers i a d st l h.numbers)
  | streamResponse n ok => exact h.keep (by simp) (streamResponse_numbers n ok h.numbers)
  | cardRemoval k => exact h.keep (by simp) (cardRemoval_numbers k h.numbers)
  | clipRetire i => exact h.keep (by simp) (clipRetireAct_numbers i h.numbers)
  | faultAck i => exact h.keep (by simp) (faultAckAct_numbers i h.numbers)
  | clipFaultsAck i => exact h.keep (by simp) (clipFaultsAckAct_numbers i h.numbers)
  | cameraSet a b c d e f g x => exact h.keep (by simp) (cameraSetAct_numbers a b c d e f g x h.numbers)
  | pairSet a b c d => exact h.keep (by simp) (pairSetAct_numbers a b c d h.numbers)
  | zonesSet z => exact h.keep (by simp) (zonesSetAct_numbers z h.numbers)
  | trackerClear => exact h.keep (by simp) (trackerClearAct_numbers h.numbers)
  | stageBeat k d r => exact h.keep (by simp) (stageBeat_numbers k d r h.numbers)
  | frameResponse a k g ok => exact h.keep (by simp) (frameResponse_numbers a k g ok h.numbers)
  | poolBeat r b i d st p => exact h.keep (by simp) (poolBeat_numbers r b i d st p h.numbers)
  | countStray => exact h.keep rfl (countStray_numbers h.numbers)
  | quiet k => exact h.of_units k.sh k.fiu k.ctu k.fl
  | _ => exact h.of_units (by simp) (by simp) (by simp) (by simp)

/-- Settles O60: what every move keeps, every step keeps. -/
theorem everyStepKeepsShuttlesOnTheirMoves : Obligations.EveryStepKeepsShuttlesOnTheirMoves := by
  unfold Obligations.EveryStepKeepsShuttlesOnTheirMoves
  intro s t
  exact step_keeps (fun _ _ k h => h.of_units k.sh k.fiu k.ctu k.fl) (fun _ _ => move_shuttles)

end Sys2Proof.Machine
end

section
/-! PROOFS. The SHUTTLE commands: what a locate, a jog, a go, a stop, a hold and a release leave (R146 to R149, R155, R156). -/

namespace Sys2Proof.Machine

/-- A command that replaces a motion context and does nothing else. -/
theorem answered_setMotion {code v : Nat} {act : State → State × Answer} {s : State} {x : Motion} {a : Answer}
    (h : act (advanceSequence s) = (setMotion v x (advanceSequence s), a)) :
    Answered s (completeCommand code act s) [] code a (setMotion v x s) :=
  answered_by h rfl rfl rfl rfl

/-- A command that changes one motion context of view 0 or 1 answers the detail of the change. -/
theorem answered_motionAct {code v : Nat} {f : Motion → Motion × Nat} {s : State} {r : Motion × Nat} (hview : ¬1 < v)
    (h : f (motionAt s v) = r) :
    Answered s (completeCommand code (motionAct f v) s) [] code (.done r.2) (setMotion v r.1 s) :=
  h ▸ answered_setMotion (if_neg hview)

/-! ### The profile (R146) -/

/-- The answer of a command whose fields are given by number, with the value asked and the value taken (R20). -/
theorem carriedOut_map (fields : List (Nat × Nat × Nat)) (detail : Nat) :
    carriedOut (fields.map fun f => (f.1, f.2.2 != f.2.1)) detail =
      match fields.find? (fun f => decide (f.2.1 ≠ f.2.2)) with
      | some f => .clamped f.1 detail
      | none => .done detail := by
  have htest : (fun f : Nat × Bool => f.2) ∘ (fun f : Nat × Nat × Nat => (f.1, f.2.2 != f.2.1)) =
      fun f => decide (f.2.1 ≠ f.2.2) := by
    funext f
    rw [Bool.eq_iff_iff, Function.comp_apply, bne_iff_ne, decide_eq_true_eq, ne_comm]
  unfold carriedOut
  rw [List.find?_map, htest]
  cases fields.find? (fun f => decide (f.2.1 ≠ f.2.2)) <;> rfl

/-! ### Locate and jog (R147, R148) -/

section
variable {m : Motion}

theorem applyLocate_none (h : m.pendingLocate = none) : applyLocate m = m := by
  unfold applyLocate
  rw [h]

theorem applyLocate_some {f : Nat} (h : m.pendingLocate = some f) : applyLocate m =
    { m with position := f * 256, phase := .idle, start := none, target := none, heldPhase := none, continuous := false,
             looping := false, stageCounter := 0, dwellCounter := 0, pendingLocate := none } := by
  unfold applyLocate
  rw [h]

theorem joggedPosition_eq (position : Nat) (jog : Int) :
    joggedPosition position jog = (max 0 (min (2 ^ 40 - 256) ((position : Int) + 256 * jog))).toNat := rfl

/-- Outside a move that keeps its target, a jog is held to the range alone. -/
theorem jogClamp_free (h : m.phase = .idle ∨ m.phase = .arrived ∨ m.target = none) (p : Nat) : jogClamp m p = p := by
  unfold jogClamp
  split_ifs with hrest
  · rfl
  · rw [(or_assoc.2 h).resolve_left hrest]

theorem jogClamp_target {u : Nat} (hidle : m.phase ≠ .idle) (harrived : m.phase ≠ .arrived) (hu : m.target = some u)
    (p : Nat) : jogClamp m p = if m.direction = .forward then min p u else max p u := by
  unfold jogClamp
  rw [if_neg (not_or.2 ⟨hidle, harrived⟩), hu]
  cases m.direction <;> rfl

theorem applyJog_arrived (hjog : m.pendingJog ≠ 0) (h : m.phase = .arrived) : applyJog m =
    { m with position := joggedPosition m.position m.pendingJog, pendingJog := 0, phase := .idle, start := none,
             target := none } := by
  unfold applyJog
  rw [if_neg hjog, if_pos h, jogClamp_free (.inr (.inl h))]

theorem applyJog_moves (hjog : m.pendingJog ≠ 0) (h : m.phase ≠ .arrived) : applyJog m =
    { m with position := jogClamp m (joggedPosition m.position m.pendingJog), pendingJog := 0 } :=
  (if_neg hjog).trans (if_neg h)

/-- A jog ends an ARRIVED move, and no other phase. -/
theorem applyJog_phase (h : m.phase ≠ .arrived) : (applyJog m).phase = m.phase := by
  by_cases hjog : m.pendingJog = 0
  · rw [applyJog, if_pos hjog]
  · rw [applyJog_moves hjog h]

end

/-- Settles O46: each command by its test and what it writes; a locate and a jog that wait, case by case. -/
theorem shuttleProfileAndLocate : Obligations.ShuttleProfileAndLocate := by
  unfold Obligations.ShuttleProfileAndLocate
  intro s view s0 s1 s2 s3 s4 n preDwell postDwell stopOnFault frame v m speed q fields
  refine ⟨⟨takeShuttleProfile view s0 s1 s2 s3 s4 n preDwell postDwell stopOnFault s, rfl, ?_⟩,
    ⟨takeShuttleLocate view frame s, rfl, ?_⟩, fun _ => applyLocate_none, fun _ _ => applyLocate_some,
    fun x => ⟨fun h => if_pos h, applyJog_arrived, fun hjog h => ?_, fun u hjog hidle harrived hu => ?_⟩⟩
  · split_ifs with hview
    · exact answered_refused (if_pos hview)
    · have hq : clampProfile
          { s0 := s0.toNat, s1 := s1.toNat, s2 := s2.toNat, s3 := s3.toNat, s4 := s4.toNat, n := n.toNat,
            preDwell := preDwell.toNat, postDwell := postDwell.toNat, stopOnFault := flagOf stopOnFault.toNat } = q := by
        simp only [clampProfile, clamp, Nat.zero_max, flagOf_toNat, q, speed]
      refine answered_setMotion ((if_neg hview).trans ?_)
      rw [hq]
      exact congrArg _ (carriedOut_map fields 0)
  · split_ifs with hview
    · exact answered_refused (if_pos hview)
    · exact answered_motionAct hview rfl
  · obtain ⟨hnot, hfree⟩ : x.phase ≠ .arrived ∧ (x.phase = .idle ∨ x.phase = .arrived ∨ x.target = none) := by
      obtain hidle | ⟨hnot, hnone⟩ := h
      · exact ⟨by simp [hidle], .inl hidle⟩
      · exact ⟨hnot, .inr (.inr hnone)⟩
    rw [applyJog_moves hjog hnot, jogClamp_free hfree, joggedPosition_eq]
  · rw [applyJog_moves hjog harrived, jogClamp_target hidle harrived hu, joggedPosition_eq]

/-! ### A move's start (R149) -/

theorem directionOf_noCode {code : Nat} (h : 1 < code) : directionOf code = none := by
  match code with
  | 0 | 1 => omega
  | n + 2 => rfl

theorem directionOf_code {direction : BitVec 8} (h : ¬1 < direction.toNat) :
    directionOf direction.toNat = some (if direction = 0 then .forward else .reverse) := by
  have hzero : direction = 0 ↔ direction.toNat = 0 := BitVec.toNat_inj.symm
  simp only [hzero]
  generalize direction.toNat = code at h
  match code with
  | 0 | 1 => rfl
  | n + 2 => omega

section
variable {s : State} {v distance : Nat}

theorem shuttleGoAct_badArgument {d : Option Direction} (h : (1 < v ∨ 1048575 < distance) ∨ d = none) :
    shuttleGoAct v distance d s = refuse .badArgument s := by
  unfold shuttleGoAct
  split_ifs with hargs
  · rfl
  · rw [h.resolve_left hargs]

theorem shuttleGoAct_starts (h : ¬(1 < v ∨ 1048575 < distance)) (d : Direction) :
    shuttleGoAct v distance (some d) s =
      (setMotion v (goMotion distance d (motionAt s v)) s,
        .done (((goMotion distance d (motionAt s v)).target.getD 0) / 256)) :=
  if_neg h

end

/-- Settles O47: the three tests, and then the move that starts. -/
theorem shuttleGoStartsAMove : Obligations.ShuttleGoStartsAMove := by
  unfold Obligations.ShuttleGoStartsAMove
  intro s view distance direction v d m start forward reverse target
  refine ⟨takeShuttleGo view distance direction s, rfl, ?_⟩
  by_cases hargs : 1 < v ∨ 1048575 < d ∨ 1 < direction.toNat
  · rw [if_pos hargs]
    refine answered_refused (shuttleGoAct_badArgument ?_)
    obtain hview | hdistance | hcode := hargs
    · exact .inl (.inl hview)
    · exact .inl (.inr hdistance)
    · exact .inr (directionOf_noCode hcode)
  · rw [if_neg hargs]
    obtain ⟨hrange, hcode⟩ := not_or.1 (mt or_assoc.1 hargs)
    have htarget : goTarget start d (if direction = 0 then .forward else .reverse) = target :=
      apply_ite (goTarget start d) _ _ _
    refine answered_setMotion ?_
    rw [directionOf_code hcode, ← htarget, decide_not]
    exact shuttleGoAct_starts hrange _

/-! ### Stop (R155) -/

section
variable {m : Motion}

theorem stopPoint_eq (m : Motion) (d : Nat) : stopPoint m d =
    if m.direction = .forward then (m.position + d + 255) / 256 * 256 else (m.position - d) / 256 * 256 := by
  unfold stopPoint roundUp256
  cases m.direction <;> rfl

/-- A move that must still slow down stops at the nearer of its target and the stop point. -/
theorem stopMotion_slows {d u : Nat} (hd : stopDistance m = some d) (hu : m.target = some u) : stopMotion m =
    ({ m with
        target := some (if gapBetween (stopPoint m d) m.position ≤ gapBetween u m.position then stopPoint m d else u)
        continuous := false
        looping := false
        phase := if m.phase = .continuous then .cruise else m.phase },
      (if gapBetween (stopPoint m d) m.position ≤ gapBetween u m.position then stopPoint m d else u) / 256) := by
  unfold stopMotion nearerTarget
  rw [hd, hu]

theorem stopMotion_drops (h : m.phase = .preroll ∨ m.phase = .postroll ∨ m.phase = .held) : stopMotion m =
    ({ m with phase := .idle, start := none, target := none, heldPhase := none, continuous := false, looping := false },
      1) := by
  have hd : stopDistance m = none := by
    unfold stopDistance
    rcases h with h | h | h <;> rw [h]
  unfold stopMotion
  rw [hd]
  exact if_pos h

theorem stopMotion_rests (h : m.phase = .idle ∨ m.phase = .arrived) : stopMotion m = (m, 0) := by
  unfold stopMotion stopDistance
  rcases h with h | h <;> simp [h]

/-- A move that is stopping keeps its target and will not loop. -/
theorem stopMotion_stopping {u : Nat} (hu : m.target = some u)
    (h : m.phase = .decel3 ∨ m.phase = .decel2 ∨ m.phase = .decel1 ∨ m.phase = .landing) :
    stopMotion m = ({ m with looping := false }, u / 256) := by
  unfold stopMotion stopDistance
  rcases h with h | h | h | h <;> simp [h, hu]

end

/-- Settles O48: the stop by the phase, a move that must still slow down by its stopping distance. -/
theorem shuttleStopByThePhase : Obligations.ShuttleStopByThePhase := by
  unfold Obligations.ShuttleStopByThePhase
  intro s view v m p stopAt away slow
  have hstop : stopAt = stopPoint m := funext fun d => (stopPoint_eq m d).symm
  refine ⟨takeShuttleStop view s, rfl, ?_⟩
  split_ifs with hview
  · exact answered_refused (if_pos hview)
  · have hslow : ∀ d u q, m.target = some u → m.phase = q → stopDistance { m with phase := q } = some d →
        Answered s (takeShuttleStop view s) [] 0x72 (.done (slow d u).2) (setMotion v (slow d u).1 s) := by
      rintro d u q hu rfl hd
      refine answered_motionAct hview ((stopMotion_slows hd hu).trans ?_)
      simp only [slow, hstop]
      rfl
    refine ⟨fun h => answered_motionAct hview (stopMotion_drops h), fun u hu => ?_,
      fun h => answered_motionAct hview (stopMotion_rests h)⟩
    refine ⟨fun h => hslow 0 u _ hu h rfl, fun h => hslow (p.n * p.s1) u _ hu h rfl,
      fun h => hslow (p.n * (p.s1 + p.s2)) u _ hu h rfl, fun h => ?_,
      fun h => answered_motionAct hview (stopMotion_stopping hu h)⟩
    obtain h | h := h
    · exact hslow (p.n * (p.s1 + p.s2 + p.s3)) u _ hu h rfl
    · exact hslow (p.n * (p.s1 + p.s2 + p.s3)) u _ hu h rfl

/-! ### Hold and release (R156) -/

section
variable {m : Motion}

theorem holdMotion_held (h : m.phase = .held) : holdMotion m = (m, 0) := if_pos h

theorem holdMotion_holds (h : m.phase ≠ .held) : holdMotion m = ({ m with heldPhase := some m.phase, phase := .held }, 1) :=
  if_neg h

theorem releaseMotion_free (h : m.phase ≠ .held) : releaseMotion m = (m, 0) := if_neg h

theorem releaseMotion_held {q : Phase} (h : m.phase = .held) (hq : m.heldPhase = some q) :
    releaseMotion m = ({ m with phase := q, heldPhase := none }, 1) := by
  unfold releaseMotion
  rw [if_pos h, hq, Option.getD_some]

/-- A boundary that finds the context at rest or HELD, once what waits is applied, shows its frame and nothing more. -/
theorem boundaryMotion_resting (s : State) (camera : Nat)
    (h : (applyJog (applyLocate m)).phase = .idle ∨ (applyJog (applyLocate m)).phase = .arrived ∨
      (applyJog (applyLocate m)).phase = .held) :
    boundaryMotion s camera m = (showFrame (applyJog (applyLocate m)), none) := by
  unfold boundaryMotion
  rw [phaseStep_resting s camera h]

end

/-- Settles O49: hold and release by whether the context is HELD; at a boundary a locate leaves it at rest, else a jog
leaves it HELD. -/
theorem shuttleHoldAndRelease : Obligations.ShuttleHoldAndRelease := by
  unfold Obligations.ShuttleHoldAndRelease
  intro s view v m
  refine ⟨⟨takeShuttleHold view s, rfl, ?_⟩, ⟨takeShuttleRelease view s, rfl, ?_⟩, fun camera hheld hnone => ?_,
    fun camera f hheld hf => ?_⟩
  · split_ifs with hview hheld
    · exact answered_refused (if_pos hview)
    · exact answered_motionAct hview (holdMotion_held hheld)
    · exact answered_motionAct hview (holdMotion_holds hheld)
  · split_ifs with hview hheld
    · exact answered_refused (if_pos hview)
    · exact fun q hq => answered_motionAct hview (releaseMotion_held hheld hq)
    · exact answered_motionAct hview (releaseMotion_free hheld)
  · have hphase : (applyJog (applyLocate m)).phase = .held := by
      rw [applyLocate_none hnone, applyJog_phase (by simp [hheld]), hheld]
    rw [boundaryMotion_resting s camera (.inr (.inr hphase)), applyLocate_none hnone]
    rfl
  · have hidle : (applyLocate m).phase = .idle := by rw [applyLocate_some hf]
    have hphase : (applyJog (applyLocate m)).phase = .idle := by
      rw [applyJog_phase (by simp [hidle]), hidle]
    rw [boundaryMotion_resting s camera (.inl hphase)]
    rfl

end Sys2Proof.Machine
end

section
/-! PROOFS. The panel: its two commands, the keys and their repeat, the bound actions, and the jog wheel (R159 to R165). -/

namespace Sys2Proof.Machine

/-! ### PANEL_TIMING and PANEL_BIND (R161) -/

/-- The panel actions in the order of their codes (Table 12-3). -/
def panelActions : List PanelAction :=
  [.nothing, .lookNext, .shuttleFwd, .shuttleRev, .shuttleStop, .holdToggle, .faultNext, .faultPrev, .ackHere, .zonesToggle,
    .bandsToggle]

theorem actionOf_eq_getElem? (code : Nat) : actionOf code = panelActions[code]? :=
  match code with
  | 0 | 1 | 2 | 3 | 4 | 5 | 6 | 7 | 8 | 9 | 10 => rfl
  | _ + 11 => rfl

theorem actionOf_noCode {code : Nat} (h : 10 < code) : actionOf code = none :=
  (actionOf_eq_getElem? code).trans (List.getElem?_eq_none h)

/-- PANEL_TIMING's answer names the first of its three fields that its clamp changed. -/
theorem panelTimingAct_eq (debounce delay interval : Nat) (s : State) :
    let d := clamp 1 31 debounce
    let r := clamp 100 2000 delay
    let i := clamp 20 500 interval
    panelTimingAct debounce delay interval s =
      (s.withPu { s.pu with debounce := d, repeatDelay := r, repeatInterval := i },
        if d ≠ debounce then .clamped 1 0 else if r ≠ delay then .clamped 2 0
          else if i ≠ interval then .clamped 3 0 else .done 0) := by
  unfold panelTimingAct
  simp only [carriedOut_cons]
  rfl

section
variable {key v rep : Nat} {s : State}

theorem panelBindAct_badArgument {action : Option PanelAction} (h : (16 < key ∨ 1 < v ∨ 1 < rep) ∨ action = none) :
    panelBindAct key action v rep s = refuse .badArgument s := by
  obtain hargs | rfl := h
  · exact if_pos hargs
  · exact ite_self _

theorem panelBindAct_binds (hkey : key ≤ 16) (hview : v ≤ 1) (hrep : rep ≤ 1) (a : PanelAction) :
    panelBindAct key (some a) v rep s =
      (s.withPu
        (if key < 16 then { s.pu with bindings := s.pu.bindings.set key { action := a, view := v, repeatOn := rep == 1 } }
        else { s.pu with jogBinding := if a = .nothing then none else some (a, v) }), .done 0) := by
  unfold panelBindAct
  rw [if_neg (by omega)]
  obtain hlt | rfl := Nat.lt_or_eq_of_le hkey
  · rw [if_pos hlt]
    exact if_neg hlt.ne
  · rfl

end

/-- Settles O51: the timing by its three clamps, a binding by its four tests and by whether it names a key or the jog. -/
theorem panelTimingAndBinding : Obligations.PanelTimingAndBinding := by
  unfold Obligations.PanelTimingAndBinding
  intro s debounce delay interval key code view rep d r i actions
  refine ⟨⟨takePanelTiming debounce delay interval s, rfl, ?_⟩, ⟨takePanelBind key code view rep s, rfl, fun h => ?_,
    fun a hkey hview hrep ha => ?_⟩⟩
  · exact answered_by (panelTimingAct_eq debounce.toNat delay.toNat interval.toNat (advanceSequence s)) rfl rfl rfl rfl
  · refine answered_refused (panelBindAct_badArgument ?_)
    obtain hkey | hview | hrep | hcode := h
    · exact .inl (.inl hkey)
    · exact .inl (.inr (.inl hview))
    · exact .inl (.inr (.inr hrep))
    · exact .inr (actionOf_noCode hcode)
  · have haction : actionOf code.toNat = some a := (actionOf_eq_getElem? code.toNat).trans ha
    have hrepeat : (rep.toNat == 1) = decide (rep = 1) := by
      rw [beq_eq_decide, decide_eq_decide]
      exact BitVec.toNat_inj (y := 1)
    rw [← hrepeat]
    have hact := panelBindAct_binds (s := advanceSequence s) hkey hview hrep a
    rw [← haction] at hact
    exact answered_by hact rfl rfl rfl rfl

/-! ### Keys (R159, R160) -/

section
variable {k : Nat} {s : State}

theorem keyPress_due (hp : (keyAt s k).pressed = false) (hd : changeDue s (keyAt s k).changePending = true) :
    keyPress k s = actAndReport k .down none (setKey k (pressedKey s k) s) := if_pos ⟨hp, hd⟩

/-- A press of a key already down, or before its debounce has run out, changes nothing (log entry 1). -/
theorem keyPress_idle (h : (keyAt s k).pressed = true ∨ ¬changeDue s (keyAt s k).changePending = true) :
    keyPress k s = s :=
  if_neg fun ⟨hp, hd⟩ => h.elim (fun h => Bool.false_ne_true (hp.symm.trans h)) (fun h => h hd)

theorem told_keyRelease (hp : (keyAt s k).pressed = true) (hd : changeDue s (keyAt s k).changePending = true) :
    Told s (keyRelease k s) [.panel k .up .nothing (some (bindingAt s k).view) none none (some (heldTime s k))]
      (setKey k { keyAt s k with pressed := false, changePending := none, pressTime := none, repeatDue := none } s) := by
  unfold keyRelease
  rw [if_pos ⟨hp, hd⟩]
  exact told_one _ rfl rfl rfl rfl

/-- A release of a key that is up, or before its debounce has run out, changes nothing (log entry 1). -/
theorem keyRelease_idle (h : (keyAt s k).pressed = false ∨ ¬changeDue s (keyAt s k).changePending = true) :
    keyRelease k s = s :=
  if_neg fun ⟨hp, hd⟩ => h.elim (fun h => Bool.false_ne_true (h.symm.trans hp)) (fun h => h hd)

theorem repeatReached_iff (s : State) (x : Key) : repeatReached s x = true ↔
    ∃ p d, x.pressTime = some p ∧ x.repeatDue = some d ∧ x.pressed = true ∧ elapsed d p ≤ elapsed s.time p := by
  unfold repeatReached
  cases x.pressTime <;> cases x.repeatDue <;> simp

theorem keyRepeat_reached {p d : Nat} (hp : (keyAt s k).pressed = true) (hpress : (keyAt s k).pressTime = some p)
    (hdue : (keyAt s k).repeatDue = some d) (h : elapsed d p ≤ elapsed s.time p) :
    keyRepeat k s =
      if (bindingAt s k).repeatOn then
        actAndReport k .rep (some (heldTime s k))
          (setKey k { keyAt s k with repeatDue := some (wrap32 d s.pu.repeatInterval) } s)
      else setKey k { keyAt s k with repeatDue := none } s := by
  unfold keyRepeat
  rw [if_pos ((repeatReached_iff s _).2 ⟨p, d, hpress, hdue, hp, h⟩), hdue]
  rfl

/-- A repeat taken before it has fallen due changes nothing (log entry 1). -/
theorem keyRepeat_idle (h : ¬repeatReached s (keyAt s k) = true) : keyRepeat k s = s := if_neg h

end

/-- Settles O52: a level by what it leaves pending, and a press, a release and a repeat by whether their time has come. -/
theorem keysAreDebouncedAndAct : Obligations.KeysAreDebouncedAndAct := by
  unfold Obligations.KeysAreDebouncedAndAct
  intro s key low k x b since due held acted
  have hdue : changeDue s x.changePending = true ↔ due := changeDue_iff s x.changePending
  refine ⟨?_, ⟨keyPress k s, rfl, ?_, ?_⟩, ⟨keyRelease k s, rfl, ?_, ?_⟩, ⟨keyRepeat k s, rfl, ?_, ?_, ?_⟩⟩
  · rw [← changeAfter_eq]
    rfl
  · exact fun hp hd => keyPress_due hp (hdue.2 hd)
  · exact fun h => keyPress_idle (h.imp_right (mt hdue.1))
  · exact fun hp hd => told_keyRelease hp (hdue.2 hd)
  · exact fun h => keyRelease_idle (h.imp_right (mt hdue.1))
  · exact fun p d => keyRepeat_reached
  · intro p d hpress hrepeat hlt
    refine keyRepeat_idle fun hreached => ?_
    obtain ⟨p', d', hpress', hrepeat', -, hle⟩ := (repeatReached_iff s x).1 hreached
    obtain rfl := Option.some.inj (hpress.symm.trans hpress')
    obtain rfl := Option.some.inj (hrepeat.symm.trans hrepeat')
    exact absurd hle hlt.not_ge
  · intro h
    refine keyRepeat_idle fun hreached => ?_
    obtain ⟨p, d, -, hrepeat, hp, -⟩ := (repeatReached_iff s x).1 hreached
    obtain hup | hnone := h
    · exact Bool.false_ne_true (hup.symm.trans hp)
    · exact absurd (hnone.symm.trans hrepeat) nofun

/-! ### LOOK_NEXT (R162) -/

section
variable {s : State} {v p : Nat}

/-- The look slots in the order of LOOK_NEXT's search from slot p. -/
theorem nextReadyLook_eq (s : State) (p : Nat) : nextReadyLook s p =
    ((List.range 8).find? fun i => (lookSlotAt s ((p + 1 + i) % 8)).state == .ready).map fun i => (p + 1 + i) % 8 :=
  List.find?_map

theorem nextReadyLook_first {i : Nat} (hi : i < 8) (hready : (lookSlotAt s ((p + 1 + i) % 8)).state = .ready)
    (hfirst : ∀ j, j < i → ¬(lookSlotAt s ((p + 1 + j) % 8)).state = .ready) :
    nextReadyLook s p = some ((p + 1 + i) % 8) := by
  rw [nextReadyLook_eq, List.find?_range_eq_some.2 ⟨?_, ?_, ?_⟩]
  · rfl
  · exact beq_iff_eq.2 hready
  · exact List.mem_range.2 hi
  · intro j hj
    simpa using hfirst j hj

theorem nextReadyLook_none (h : ∀ i, i < 8 → ¬(lookSlotAt s ((p + 1 + i) % 8)).state = .ready) :
    nextReadyLook s p = none := by
  rw [nextReadyLook_eq, List.find?_eq_none.2 ?_]
  · rfl
  · intro i hi
    simpa using h i (List.mem_range.1 hi)

theorem lookNext_found {k : Nat} (h : nextReadyLook s (viewAt s v).pending.primary = some k) :
    lookNext v s = (setPending v { (viewAt s v).pending with primary := k } s, some k) := by
  unfold lookNext
  rw [h]

theorem lookNext_none (h : nextReadyLook s (viewAt s v).pending.primary = none) : lookNext v s = (s, none) := by
  unfold lookNext
  rw [h]

end

/-! ### The other bound actions (R162, R163) -/

section
variable {s : State} {v : Nat}

/-- A bound move runs to an end of the range: the last frame forward, frame 0 in reverse. -/
theorem shuttlePress_eq (d : Direction) : shuttlePress d v s =
    (setMotion v (goMotion 0 d (motionAt s v)) s, some (if d = .forward then 4294967295 else 0)) := by
  cases d with
  | forward => exact congrArg (_, some ·) (by decide : positionTop / 256 = 4294967295)
  | reverse => exact congrArg (_, some ·) (Nat.zero_div 256)

theorem holdToggle_holds (h : (motionAt s v).phase ≠ .held) : holdToggle v s =
    (setMotion v { motionAt s v with heldPhase := some (motionAt s v).phase, phase := .held } s, some 0) := by
  unfold holdToggle
  rw [if_neg h, holdMotion_holds h]

theorem holdToggle_releases {q : Phase} (h : (motionAt s v).phase = .held) (hq : (motionAt s v).heldPhase = some q) :
    holdToggle v s = (setMotion v { motionAt s v with phase := q, heldPhase := none } s, some 1) := by
  unfold holdToggle
  rw [if_pos h, releaseMotion_held h hq]

end

section
variable (s : State) (camera a : Nat)

/-- A NEW fault of the camera at the frame. -/
def FaultyFrame (f : Nat) : Prop :=
  ∃ r ∈ s.fl.records, ∃ tc, r.acked = false ∧ r.camera = some camera ∧ r.frame = some (f, tc)

theorem nextFault_answers :
    (∀ f, nextFault s camera a = some f ↔
      (FaultyFrame s camera f ∧ a < f) ∧ ∀ g, FaultyFrame s camera g ∧ a < g → f ≤ g) ∧
      (nextFault s camera a = none ↔ ∀ f, ¬(FaultyFrame s camera f ∧ a < f)) :=
  leastOf_answers fun f => by
    rw [List.mem_filter, mem_newFaultFrames, decide_eq_true_eq]
    rfl

theorem previousFault_answers :
    (∀ f, previousFault s camera a = some f ↔
      (FaultyFrame s camera f ∧ f < a) ∧ ∀ g, FaultyFrame s camera g ∧ g < a → g ≤ f) ∧
      (previousFault s camera a = none ↔ ∀ f, ¬(FaultyFrame s camera f ∧ f < a)) :=
  greatestOf_answers fun f => by
    rw [List.mem_filter, mem_newFaultFrames, decide_eq_true_eq]
    rfl

end

/-- Settles O53: each action by its row of Table 11-1, its searches by what they answer. -/
theorem boundActionsByTheTable : Obligations.BoundActionsByTheTable := by
  unfold Obligations.BoundActionsByTheTable
  intro s v x p m c ready a faulty located
  obtain ⟨hnext, hnextNone⟩ := nextFault_answers s c a
  obtain ⟨hprevious, hpreviousNone⟩ := previousFault_answers s c a
  refine ⟨rfl, ?_, ?_, rfl, rfl, shuttlePress_eq .forward, shuttlePress_eq .reverse, rfl, holdToggle_holds,
    fun _ => holdToggle_releases, ?_, ?_, ?_, ?_, rfl⟩
  · exact fun i hi hready hfirst => lookNext_found (nextReadyLook_first hi hready hfirst)
  · exact fun hnone => lookNext_none (nextReadyLook_none hnone)
  · intro f hf hlt hleast
    have hfound : nextFault s c a = some f := (hnext f).2 ⟨⟨hf, hlt⟩, fun g ⟨hg, hag⟩ => hleast g hg hag⟩
    exact congrArg (locatePress · v s) hfound
  · intro h
    have hnone : nextFault s c a = none := hnextNone.2 fun g ⟨hg, hag⟩ => (h g hg).not_gt hag
    exact congrArg (locatePress · v s) hnone
  · intro f hf hlt hgreatest
    have hfound : previousFault s c a = some f := (hprevious f).2 ⟨⟨hf, hlt⟩, fun g ⟨hg, hga⟩ => hgreatest g hg hga⟩
    exact congrArg (locatePress · v s) hfound
  · intro h
    have hnone : previousFault s c a = none := hpreviousNone.2 fun g ⟨hg, hga⟩ => (h g hg).not_gt hga
    exact congrArg (locatePress · v s) hnone

/-! ### The jog wheel (R164) -/

/-- The pair of line levels that follows a pair in a turn forward (R164). -/
def nextPair (last : Bool × Bool) : Bool × Bool :=
  if last = (false, false) then (true, false) else if last = (true, false) then (true, true)
  else if last = (true, true) then (false, true) else (false, false)

theorem transitionOf_eq_some (last now : Bool × Bool) (d : Direction) : transitionOf last now = some d ↔
    d = .forward ∧ now = nextPair last ∨ d = .reverse ∧ last = nextPair now := by
  obtain ⟨la, lb⟩ := last
  obtain ⟨a, b⟩ := now
  cases d <;> revert la lb a b <;> decide

/-- A sample in which both lines changed is no valid transition (R164). -/
theorem transitionOf_both (a b : Bool) : transitionOf (!a, !b) (a, b) = none := by
  cases a <;> cases b <;> rfl

theorem transitionOf_self (last : Bool × Bool) : transitionOf last last = none := by
  obtain ⟨a, b⟩ := last
  cases a <;> cases b <;> rfl

section
variable {s : State} {now last : Bool × Bool}

theorem compareSample_first (h : s.pu.jogLast = none) :
    compareSample now s = s.withPu { s.pu with jogLast := some now } := by
  unfold compareSample
  rw [h]

theorem compareSample_same (h : s.pu.jogLast = some now) : compareSample now s = s := by
  unfold compareSample
  rw [h]
  exact if_pos rfl

theorem compareSample_invalid (h : s.pu.jogLast = some last) (hne : now ≠ last) (hnone : transitionOf last now = none) :
    compareSample now s = s.withPu { s.pu with jogLast := some now, jogSteps := 0, jogDirection := none } := by
  unfold compareSample
  rw [h]
  dsimp only
  rw [if_neg hne, hnone]

theorem compareSample_valid {d : Direction} (h : s.pu.jogLast = some last) (hd : transitionOf last now = some d) :
    compareSample now s = jogStep d now s := by
  have hne : now ≠ last := by
    rintro rfl
    simp [transitionOf_self] at hd
  unfold compareSample
  rw [h]
  dsimp only
  rw [if_neg hne, hd]

theorem jogSample_due (h : s.pu.jogDue = true) :
    jogSample now s = compareSample now (s.withPu { s.pu with jogLines := now, jogDue := false }) := if_pos h

/-- A second sample in one millisecond changes nothing (log entry 12). -/
theorem jogSample_idle (h : s.pu.jogDue = false) : jogSample now s = s := if_neg (Bool.eq_false_iff.1 h)

variable {d : Direction}

theorem jogStep_counts (h : stepsAfter s.pu d < 4) : jogStep d now s =
    s.withPu { s.pu with jogLast := some now, jogSteps := stepsAfter s.pu d, jogDirection := some d } :=
  if_neg h.not_ge

theorem jogStep_forms (h : 4 ≤ stepsAfter s.pu d) : jogStep d now s =
    routeDetent d (s.withPu { s.pu with jogLast := some now, jogSteps := 0, jogDirection := some d }) :=
  if_pos h

variable {u : Panel}

/-- A detent while the jog is unbound is only reported. -/
theorem told_routeDetent_unbound (h : u.jogBinding = none) :
    Told s (routeDetent d (s.withPu u)) [.panel 16 .detent .nothing none (some d) (some 0) none] (s.withPu u) := by
  unfold routeDetent
  rw [State.withPu_pu, h]
  exact told_one _ rfl rfl rfl rfl

theorem told_routeDetent_bound {act : PanelAction} {v : Nat} (h : u.jogBinding = some (act, v)) :
    Told s (routeDetent d (s.withPu u))
      [.panel 16 .detent act (some v) (some d) (some (if acceptsDetent (motionAt s v) then 1 else 0)) none]
      (setMotion v (jogDetentMotion d (motionAt s v)) (s.withPu u)) := by
  unfold routeDetent
  rw [State.withPu_pu, h]
  exact told_one _ rfl rfl rfl rfl

end

theorem acceptsDetent_iff (m : Motion) : acceptsDetent m = true ↔
    m.pendingLocate ≠ none ∨ m.phase = .idle ∨ m.phase = .arrived ∨ m.phase = .held := by
  unfold acceptsDetent
  simp only [Bool.or_eq_true, Option.isSome_iff_ne_none, beq_iff_eq, or_assoc]

theorem jogDetentMotion_accepted {m : Motion} (h : acceptsDetent m = true) (d : Direction) : jogDetentMotion d m =
    { m with pendingJog := max (-65535) (min 65535 (m.pendingJog + (if d = .forward then 1 else -1))) } := by
  unfold jogDetentMotion
  rw [if_pos h]
  cases d <;> rfl

theorem jogDetentMotion_discarded {m : Motion} (h : ¬acceptsDetent m = true) (d : Direction) : jogDetentMotion d m = m :=
  if_neg h

/-- Settles O54: a sample by the pair before it, a valid transition by the count it reaches, a detent by its binding and by
whether the Shuttle Unit accepts it. -/
theorem jogSamplesFormDetents : Obligations.JogSamplesFormDetents := by
  unfold Obligations.JogSamplesFormDetents
  intro s a b now u next
  have hsample (hdue : s.pu.jogDue = true) : jogSample now s = compareSample now (s.withPu u) := jogSample_due hdue
  refine ⟨jogSample now s, rfl, rfl, jogSample_idle, fun hdue hlast => ?_, fun hdue hlast => ?_, fun hdue hlast => ?_,
    fun last d hdue hlast hd => ?_⟩
  · rw [hsample hdue, compareSample_first (s := s.withPu u) hlast]
    exact told_quiet rfl rfl rfl
  · rw [hsample hdue, compareSample_same (s := s.withPu u) hlast]
    exact told_quiet rfl rfl rfl
  · have hne : now ≠ (!a, !b) := by simp [now]
    rw [hsample hdue, compareSample_invalid (s := s.withPu u) hlast hne (transitionOf_both a b)]
    exact told_quiet rfl rfl rfl
  · intro count formed
    rw [hsample hdue, compareSample_valid (s := s.withPu u) hlast ((transitionOf_eq_some last now d).2 hd)]
    refine ⟨fun hcount => ?_, fun hcount hunbound => ?_, fun act v hcount hbound => ?_⟩
    · rw [jogStep_counts (s := s.withPu u) hcount]
      exact told_quiet rfl rfl rfl
    · rw [jogStep_forms (s := s.withPu u) hcount]
      exact told_routeDetent_unbound hunbound
    · intro m moved
      rw [jogStep_forms (s := s.withPu u) hcount]
      have htold : Told s (routeDetent d formed) _ _ := told_routeDetent_bound hbound
      split_ifs with haccepts
      · have haccepted := (acceptsDetent_iff m).2 haccepts
        rwa [if_pos haccepted, jogDetentMotion_accepted haccepted] at htold
      · have hdiscarded := mt (acceptsDetent_iff m).1 haccepts
        rwa [if_neg hdiscarded, jogDetentMotion_discarded hdiscarded] at htold

end Sys2Proof.Machine
end

section
/-! PROOFS. The records of Chapter 12: each packed field stands at its offset, so a command record decodes to its
command (Section 12.2) and a report record reads as Tables 12-4 and 12-5 say (Section 12.3). -/

namespace Sys2Proof.Machine

/-! ### Fields at their offsets (Section 12.1) -/

/-- Fields of (offset, width in bytes, value) stand in a number, little-endian. -/
def FieldsStand (record : Nat) (l : List (Nat × Nat × Nat)) : Prop :=
  ∀ f ∈ l, record / 256 ^ f.1 % 256 ^ f.2.1 = f.2.2 % 256 ^ f.2.1

theorem FieldsStand.mono {record : Nat} {l m : List (Nat × Nat × Nat)} (h : FieldsStand record m) (hl : l ⊆ m) :
    FieldsStand record l :=
  fun f hf => h f (hl hf)

theorem widthOf_append (a b : List (Nat × Nat)) : widthOf (a ++ b) = widthOf a + widthOf b := by
  simp [widthOf]

theorem fieldOffsets_append (o : Nat) (a b : List (Nat × Nat)) :
    fieldOffsets o (a ++ b) = fieldOffsets o a ++ fieldOffsets (o + widthOf a) b := by
  induction a generalizing o with
  | nil => rfl
  | cons f a ih => simp [fieldOffsets, ih, widthOf, Nat.add_assoc]

theorem fieldOffsets_end_le {o : Nat} {l : List (Nat × Nat)} {f : Nat × Nat × Nat} (hf : f ∈ fieldOffsets o l) :
    f.1 + f.2.1 ≤ o + widthOf l := by
  induction l generalizing o with
  | nil => cases hf
  | cons g l ih =>
    simp only [widthOf, List.map_cons, List.sum_cons]
    rcases List.mem_cons.1 hf with rfl | hmem
    · dsimp only
      omega
    · have := ih hmem
      rw [widthOf] at this
      omega

/-- A field that ends within the 64 bytes of a record is not touched by the record's end. -/
theorem field_of_truncated (n : Nat) {o w : Nat} (h : o + w ≤ 64) :
    n % 2 ^ 512 / 256 ^ o % 256 ^ w = n / 256 ^ o % 256 ^ w := by
  have hsplit : (2 : Nat) ^ 512 = 256 ^ o * 256 ^ (64 - o) := by
    rw [← pow_add, Nat.add_sub_cancel' (by omega), show (256 : Nat) = 2 ^ 8 from rfl, ← pow_mul]
  rw [hsplit, Nat.mod_mul_right_div_self, Nat.mod_mod_of_dvd _ (pow_dvd_pow 256 (by omega))]

/-- Every packed field that ends within a record's 64 bytes stands in the record, whatever is packed behind it. -/
theorem packedField_stands {l : List (Nat × Nat)} {f : Nat × Nat × Nat} (hf : f ∈ fieldOffsets 0 l)
    (hfit : f.1 + f.2.1 ≤ 64) :
    packFields l % 2 ^ 512 / 256 ^ f.1 % 256 ^ f.2.1 = f.2.2 % 256 ^ f.2.1 := by
  rw [field_of_truncated _ hfit]
  exact fieldOffsets_hold l 0 _ (by rw [pow_zero, Nat.div_one]) f hf

/-! ### Command records (Section 12.2) -/

/-- A packed field is read back from the record at its offset, whatever is packed behind it. -/
theorem recordField_of_mem {l : List (Nat × Nat)} {byte n w : Nat} {x : BitVec w}
    (hx : (byte, n, x.toNat) ∈ fieldOffsets 0 l) (hw : w = 8 * n) (hfit : byte + n ≤ 64) :
    recordField (BitVec.ofNat 512 (packFields l)) byte w = x := by
  have hpow : ∀ k, 2 ^ (8 * k) = 256 ^ k := fun k => pow_mul 2 8 k
  apply BitVec.eq_of_toNat_eq
  calc (recordField (BitVec.ofNat 512 (packFields l)) byte w).toNat
      = packFields l % 2 ^ 512 / 256 ^ byte % 256 ^ n := by
        rw [recordField, BitVec.extractLsb'_toNat, Nat.shiftRight_eq_div_pow, hpow byte, hw, hpow n,
          BitVec.toNat_ofNat]
    _ = x.toNat % 256 ^ n := packedField_stands hx hfit
    _ = x.toNat := Nat.mod_eq_of_lt (by rw [← hpow, ← hw]; exact x.isLt)

/-- The fields of a command record in front of its payload: the sequence, the code and two bytes that are not read. -/
def recordHeader (sequence : BitVec 32) (code : Nat) : List (Nat × Nat) :=
  [fieldOf 4 sequence, (2, code), (2, 0)]

theorem encodeRecord_eq_some {sequence : BitVec 32} {i : Instr} {r : BitVec 512} :
    encodeRecord sequence i = some r ↔ ∃ code payload, commandFields i = some (code, payload) ∧
      BitVec.ofNat 512 (packFields (recordHeader sequence code ++ payload)) = r := by
  simp only [encodeRecord, Option.map_eq_some_iff, Prod.exists]
  rfl

theorem recordSequence_packed (sequence : BitVec 32) (code : Nat) (payload : List (Nat × Nat)) :
    recordSequence (BitVec.ofNat 512 (packFields (recordHeader sequence code ++ payload))) = sequence :=
  recordField_of_mem (n := 4) (.head _) rfl (by decide)

theorem recordCode_packed (sequence : BitVec 32) {code : Nat} (payload : List (Nat × Nat)) (hcode : code < 2 ^ 16) :
    (recordCode (BitVec.ofNat 512 (packFields (recordHeader sequence code ++ payload)))).toNat = code := by
  have htoNat : (BitVec.ofNat 16 code).toNat = code := Nat.mod_eq_of_lt hcode
  rw [recordCode, recordField_of_mem (n := 2) (x := BitVec.ofNat 16 code) (by rw [htoNat]; exact .tail _ (.head _)) rfl
    (by decide), htoNat]

/-- A payload field is read back at its offset behind the record's first eight bytes. -/
theorem recordField_payload {sequence : BitVec 32} {code : Nat} {payload : List (Nat × Nat)} {byte w : Nat}
    {x : BitVec w} (hx : (byte, w / 8, x.toNat) ∈ fieldOffsets 8 payload) (hw : w = 8 * (w / 8) := by decide)
    (hfit : byte + w / 8 ≤ 64 := by decide) :
    recordField (BitVec.ofNat 512 (packFields (recordHeader sequence code ++ payload))) byte w = x := by
  refine recordField_of_mem ?_ hw hfit
  rw [fieldOffsets_append]
  exact List.mem_append_right _ hx

/-- A colour of a payload is read back at the offset of its first component. -/
theorem recordColour_payload {sequence : BitVec 32} {code : Nat} {payload : List (Nat × Nat)} {byte : Nat}
    {x : Rgb (BitVec 16)} (hx : fieldOffsets byte (colourFields x) ⊆ fieldOffsets 8 payload)
    (hfit : byte + 6 ≤ 64) :
    recordColour (BitVec.ofNat 512 (packFields (recordHeader sequence code ++ payload))) byte = x :=
  Rgb.eq_of (recordField_payload (hx (.head _)) rfl (by show _ + 2 ≤ _; omega))
    (recordField_payload (hx (.tail _ (.head _))) rfl (by show _ + 2 ≤ _; omega))
    (recordField_payload (hx (.tail _ (.tail _ (.head _)))) rfl (by show _ + 2 ≤ _; omega))

/-- A command of the code table is decoded from its record, field by field; UNKNOWN_COMMAND by its code alone. -/
theorem decodeRecord_packed {i : Instr} {code : Nat} {payload : List (Nat × Nat)} (sequence : BitVec 32)
    (hi : i.wellFormed = true) (hf : commandFields i = some (code, payload)) :
    decodeRecord (BitVec.ofNat 512 (packFields (recordHeader sequence code ++ payload))) = i := by
  cases i
  -- A row that is no record has no fields; each of the others has those of Table 12-2.
  all_goals simp only [commandFields, reduceCtorEq, Option.some.injEq, Prod.mk.injEq] at hf
  all_goals obtain ⟨rfl, rfl⟩ := hf
  case unknownCommand c =>
    have hcode : recordCode _ = c := BitVec.eq_of_toNat_eq (recordCode_packed sequence [] c.isLt)
    rw [decodeRecord_unknown] <;> rw [hcode]
    simpa [Instr.wellFormed] using hi
  -- The code picks the command's arm; what is left is one goal for each field.
  all_goals simp only [decodeRecord, recordCode_packed, Nat.reducePow, Nat.reduceLT]
  case zonesSet b c =>
    congr 1
    · apply Six.eq_of
      all_goals exact recordField_payload (by simp [fieldOffsets, fieldOf])
    · apply Six.eq_of
      all_goals exact recordColour_payload (by simp [fieldOffsets, fieldOf, colourFields]) (by decide)
  case clipMarkSet =>
    congr 1
    · exact recordField_payload (by simp [fieldOffsets, fieldOf])
    · exact recordField_payload (by simp [fieldOffsets, fieldOf])
    · exact recordColour_payload (by simp [fieldOffsets, fieldOf, colourFields]) (by decide)
  all_goals congr 1
  all_goals exact recordField_payload (by simp [fieldOffsets, fieldOf])

/-- Settles O13: the record is the packed header and payload, and each field is read back at its offset. -/
theorem recordsDecodeToTheirCommands : Obligations.RecordsDecodeToTheirCommands := by
  unfold Obligations.RecordsDecodeToTheirCommands
  intro i sequence r hi h
  obtain ⟨code, payload, hf, rfl⟩ := encodeRecord_eq_some.1 h
  exact ⟨decodeRecord_packed sequence hi hf, recordSequence_packed sequence code payload⟩

/-! ### Report records (Section 12.3) -/

/-- The 64 bytes of the two beats of a report write, as one number. -/
def reportBytes (r : ReadyReport) : Nat :=
  (reportFirst r).toNat + 2 ^ 256 * (reportSecond r).toNat

theorem reportBytes_stand {r : ReadyReport} {l : List (Nat × Nat × Nat)}
    (hl : l ⊆ fieldOffsets 0 (headerFields r ++ (reportFields r.body).2)) (hfit : ∀ f ∈ l, f.1 + f.2.1 ≤ 64) :
    FieldsStand (reportBytes r) l := by
  intro f hf
  rw [reportBytes, reportBeats_record]
  exact packedField_stands (hl hf) (hfit f hf)

/-- The header of Table 12-4 stands in the first 16 bytes, whatever the payload. -/
theorem reportHeader_stands (r : ReadyReport) : FieldsStand (reportBytes r) (fieldOffsets 0 (headerFields r)) := by
  refine reportBytes_stand ?_ fun f hf => (fieldOffsets_end_le hf).trans ?_
  · rw [fieldOffsets_append]
    exact List.subset_append_left _ _
  · simp [widthOf, headerFields]

/-- A payload of at most 48 bytes stands behind the header. -/
theorem reportPayload_stands {r : ReadyReport} (hw : widthOf (reportFields r.body).2 ≤ 48) :
    FieldsStand (reportBytes r) (fieldOffsets 16 (reportFields r.body).2) := by
  refine reportBytes_stand ?_ fun f hf => (fieldOffsets_end_le hf).trans (by omega)
  rw [fieldOffsets_append]
  exact List.subset_append_right _ _

/-- The kind byte and the payload of a report stand in its record. -/
theorem report_stands {r : ReadyReport} {b : ReportBody} (hb : r.body = b) (hw : widthOf (reportFields b).2 ≤ 48) :
    FieldsStand (reportBytes r) ((4, 1, (reportFields b).1) :: fieldOffsets 16 (reportFields b).2) := by
  subst hb
  intro f hf
  rcases List.mem_cons.1 hf with rfl | hmem
  · exact reportHeader_stands r _ (.tail _ (.head _))
  · exact reportPayload_stands hw f hmem

theorem roleCode_eq (x : Role) : roleCode x = if x = .source then 0 else 1 := by
  cases x <;> rfl

theorem orZero_directionCode (d : Option Direction) :
    orZero (d.map directionCode) = if d = some .reverse then 1 else 0 := by
  rcases d with _ | _ | _ <;> rfl

theorem widthOf_answerFields (a : Answer) : widthOf (answerFields a) = 7 := by
  cases a <;> rfl

/-- Settles O12: the header and the payload of each kind stand at their offsets, and Tables 12-4 and 12-5 list those. -/
theorem reportRecordsAreWrittenByTheTables : Obligations.ReportRecordsAreWrittenByTheTables := by
  unfold Obligations.ReportRecordsAreWrittenByTheTables
  refine ⟨⟨rfl, rfl, rfl, rfl, rfl, fun _ => rfl, rfl, rfl, rfl, rfl, rfl, rfl, rfl⟩, fun r => ?_⟩
  intro record holds id flag
  refine ⟨?header, ?completion, ?ignored, ?streamEnd, ?clipState, ?lamp, ?fault, ?frame, ?panel, ?view, ?snapshot⟩
  case header =>
    exact (reportHeader_stands r).mono (by simp [fieldOffsets, headerFields])
  case completion =>
    intro n code a hb
    have hall := report_stands hb (by
      rw [reportFields, widthOf_append, widthOf_answerFields]
      simp [widthOf])
    refine ⟨hall.mono (by simp [fieldOffsets, reportFields]), ?_, ?_, ?_⟩
    · rintro d rfl
      exact hall.mono (by simp [fieldOffsets, reportFields, answerFields])
    · rintro f d rfl
      exact hall.mono (by simp [fieldOffsets, reportFields, answerFields])
    · rintro x d rfl
      exact hall.mono (by simp [fieldOffsets, reportFields, answerFields])
  case ignored =>
    intro slot cause seen expected hb
    exact report_stands hb (by simp [reportFields, widthOf])
  case streamEnd =>
    intro stream clip role outcome tail bytes expected fp offending hb
    have hall := report_stands hb (by simp [reportFields, widthOf])
    rw [reportFields, roleCode_eq] at hall
    refine ⟨hall.mono (by simp [fieldOffsets, bit, orZero, flag]), ?_, ?_⟩
    · rintro rfl
      exact hall.mono (by simp [fieldOffsets, identifier, destinationOf])
    · rintro d rfl
      exact hall.mono (by simp [fieldOffsets, identifier, destinationOf])
  case clipState =>
    intro i c old new cause d0 d1 d2 d3 hb hdests
    have hall := report_stands hb (by simp [reportFields, clipStateFields, hdests, widthOf])
    rw [reportFields, clipStateFields, hdests] at hall
    exact hall
  case lamp =>
    intro slot old new session hb
    exact report_stands hb (by simp [reportFields, widthOf])
  case fault =>
    intro x listed evicted counts hb
    have hall := report_stands hb (by simp [reportFields, faultFields, timecodeFields, widthOf])
    refine ⟨hall.mono ?_, ?_, ?_⟩
    · simp [fieldOffsets, reportFields, faultFields, timecodeFields, faultPresence, identifier, bit, orZero, id, flag]
    · intro n tc hframe
      exact hall.mono (by simp [fieldOffsets, reportFields, faultFields, timecodeFields, hframe])
    · intro hframe
      exact hall.mono (by simp [fieldOffsets, reportFields, faultFields, timecodeFields, hframe])
  case frame =>
    intro k f clipped mean z0 z1 z2 z3 z4 z5 hb hzones
    have hall := report_stands hb (by simp [reportFields, frameFields, timecodeFields, hzones, widthOf])
    rw [reportFields, frameFields, hzones] at hall
    exact hall
  case panel =>
    intro key event action view direction result held hb
    have hall := report_stands hb (by simp [reportFields, widthOf])
    rw [reportFields, orZero_directionCode] at hall
    exact hall
  case view =>
    intro v kind n pin detail hb
    have hall := report_stands hb (by simp [reportFields, widthOf])
    refine ⟨hall.mono (by simp [fieldOffsets, reportFields]), ?_, ?_⟩
    · rintro rfl
      exact hall.mono (by simp [fieldOffsets, reportFields, identifier, orZero])
    · rintro p rfl
      exact hall.mono (by simp [fieldOffsets, reportFields, identifier, orZero])
  case snapshot =>
    intro n x hb
    exact report_stands hb (by simp [reportFields, snapshotFields, widthOf])

end Sys2Proof.Machine
end

section
/-! PROOFS. One step: the command at the front runs, an empty queue idles, and no command stops the part. -/

namespace Sys2Proof.Machine

theorem step_of_pending_nil {s : State} (h : s.pending = []) : step s = .next s := by
  rw [step, h]

theorem step_withPending_cons (s : State) (c : Instr) (rest : List Instr) :
    step (s.withPending (c :: rest)) = exec c (s.withPending rest) := rfl

/-- Settles O1: every command is a chain of moves of the units, and no move touches the command queue. -/
theorem stepRunsTheFrontCommand : Obligations.StepRunsTheFrontCommand := by
  unfold Obligations.StepRunsTheFrontCommand
  refine ⟨step_withPending_cons, fun s => step_of_pending_nil, fun c s => ?_⟩
  obtain ⟨t, ht, -⟩ := exec_runs c s
  exact ⟨t, ht, exec_pending ht⟩

end Sys2Proof.Machine
end
